-- ==== Sys2Proof/Word.lean ====
section
/-!
DEFINITION. The words of the Cratrum module (00_scope.md R2): bytes, 32-bit words, 64-bit doublewords,
and the masks that hold one bit per lane of a group (02_execution_model.md R29).
-/

namespace Sys2Proof

/-- R2: a byte is 8 bits. -/
abbrev Byte := BitVec 8
/-- R2: a word is 32 bits. -/
abbrev Word := BitVec 32
/-- R2: a doubleword is 64 bits. -/
abbrev Dword := BitVec 64
/-- R29: mask words mw0 to mw31 of a fragment; lane 32k + b is bit 32k + b. -/
abbrev Mask := BitVec 1024
/-- R19: the packed identity of a group. -/
abbrev Gid := BitVec 18

end Sys2Proof
end

