-- ==== Sys2Proof/Syntax.lean ====
section
/-!
DEFINITION. Syntax of hs-a80298a69c01: the instructions of Umtamon (07_encoding_assembly.md) and the device
steps of the opcode table (95_what_each_step_holds.md), with the small types their arguments use.
-/

namespace Sys2Proof

/-- An access that can wait for a translation (R92, R96): what a quag member is. -/
inductive MemRef where
  | load (g : Gid) (op : Nat)        -- a load or returning atomic of a group
  | store (q op : Nat)               -- an entry of a store queue
  | fetch (g : Gid) (f : BitVec 5)   -- an instruction fetch of a fragment (R97)
  | copy (g : Gid) (op : Nat)        -- a copy or element-wise update
  | ipin (g : Gid) (f : BitVec 5)    -- the fetches of an IPIN (R259)
  | launchRec (g : Gid) (f : BitVec 5)   -- the record read of a LAUNCH (R202)
  | launchDesc (g : Gid) (f : BitVec 5)  -- its descriptor read (R291)
  | queueRec (die : BitVec 6) (q : BitVec 10)   -- a distributor's reads for a queue (R291)
  | completion (grid : Word)         -- a completion-word write (R291)
  | rejection (id : Nat)             -- the completion-word write of a rejected record (R292)
deriving DecidableEq, Repr

/-- Where a launch record comes from: a queue of the die (R293) or a LAUNCH in a group (R202). -/
inductive LaunchSrc where
  | queue (q : BitVec 10)
  | group (g : Gid) (f : BitVec 5)
deriving DecidableEq, Repr

/-- R299: a peer reserves, commits or aborts room for a class 2 gang. -/
inductive ResStage where
  | reserve | commit | abort
deriving DecidableEq, Repr

/-- Who writes a device register (R75, R76). -/
inductive Agent where
  | firmware       -- M-mode firmware
  | peat (c : BitVec 10)   -- a service core in S-mode
  | distributor    -- the die's distributor core
  | host           -- a Lode request
deriving DecidableEq, Repr

/-- A register with no step of its own: a CSR of a service core (R313) or a control register of a die (R76). -/
inductive RegName where
  | csr (c : BitVec 10) (num : BitVec 12)
  | ctl (die : BitVec 6) (off : BitVec 37)
deriving DecidableEq, Repr

/-- R311, R126: what a service core's access does. -/
inductive SvcOp where
  | fetch | load | store | amoAdd | amoSwap | amoAnd | amoOr | amoXor | amoMin | amoMax | amoMinu | amoMaxu | lr | sc
deriving DecidableEq, Repr

/-- One access of a service core: 2^size bytes at `va`, register `rd` for a result. -/
structure SvcAccess where
  op : SvcOp
  va : Dword
  size : BitVec 2
  signed : Bool
  value : Dword
  rd : BitVec 5
  aq : Bool
  rl : Bool
deriving DecidableEq, Repr

/-- R332: the admin commands a controller supports. -/
inductive NvmeAdmin where
  | identify (cns : Byte) (nsid : Word) (buf : Dword)
  | createSq (core : BitVec 10) | createCq (core : BitVec 10) | deleteSq (core : BitVec 10) | deleteCq (core : BitVec 10)
  | getFeatures (fid : Byte) | setFeatures (fid : Byte) (value : Word)
  | getLogPage (lid : Byte) (buf : Dword)
  | abort (cid : Nat)
  | nsCreate (blocks : Nat) | nsDelete (nsid : Word) | nsAttach (nsid : Word) | nsDetach (nsid : Word)
  | formatNvm (nsid : Word)
  | asyncEvent
deriving DecidableEq, Repr

/-- R417: how a command completes: with success, with a media or integrity status, or with another status. -/
inductive NvmeStatus where
  | ok | media | other
deriving DecidableEq, Repr

/-- R334: a transmit descriptor: the frame's headers, its payload as runs of bytes in memory, and the offloads asked for.
`sock` is the descriptor that a send call was made on, and the number of that send. -/
structure TxDesc where
  core : BitVec 10
  head : List Byte
  parts : List (Nat × Nat)
  ipSum : Bool
  l4Sum : Bool
  segment : Nat
  sock : Option (Nat × Nat)
deriving DecidableEq, Repr

/-- R349: how the two signatures of a body verify. -/
structure SigOk where
  rsa : Bool
  slh : Bool
deriving DecidableEq, Repr

/-- R306: who is asked to restore a gang, and the service core that asks. -/
structure RestoreAsk where
  die : BitVec 6
  src : BitVec 10
deriving DecidableEq, Repr

/-- R387, R389: the soft error that is met: none; a corrected one in what the load reads, or in a structure of a unit at an address; an
uncorrectable one in a line of a data cache, a scratchpad word, the register file, a line of an instruction cache (of a core, or of a
service core), a CTB entry, an entry of a die's table cache, the directory or filter entries of a line, the split table, a store queue
or a quag entry. -/
inductive SoftErr where
  | clean
  | corrected
  | correctedAt (unit : Word) (addr : Dword)
  | dataLine (cache line : Nat)
  | scratchWord (c : BitVec 10) (word : BitVec 20)
  | registerFile (g : Gid)
  | codeLine (core : BitVec 12) (line : Nat)
  | svcCodeLine (c : BitVec 10) (line : Nat)
  | ctbEntry (c : BitVec 10) (i : Nat)
  | tableEntry (die : BitVec 6) (key : Nat)
  | directory (line : Nat)
  | splitTable (g : Gid)
  | storeQueue (q : Nat)
  | quagEntry (die : BitVec 6) (entry : BitVec 10)
deriving DecidableEq, Repr

/-- R391: a link direction whose permits are audited. -/
inductive PermitLink where
  | boundary (die : BitVec 6) (dir : BitVec 2)
  | lode (link : BitVec 4)
deriving DecidableEq, Repr

/-- R329: an end of a message channel. -/
inductive MsgEnd where
  | svc (c : BitVec 10)
  | dist (die : BitVec 6)
deriving DecidableEq, Repr

/-- The instructions and device steps of the opcode table, one constructor per row. The rows with an
encoding carry their fields as the table names them, at every value (an unassigned value is a trap of the
instruction's meaning, R161); an L form carries its trailing literal `l` (R162). The instructions stand first,
then the device steps the model itself sets going, then those that only an outside agent or a service core's
program starts. -/
inductive Instr where
  /-- R195: Changes no state; takes its issue cycles and counts in an open lookahead window. -/
  | nop
  /-- R184: sd := (sa + sb) mod 2^64. -/
  | sadd (d : BitVec 6) (a : BitVec 6) (b : BitVec 6)
  /-- R184: sd := (sa − sb) mod 2^64. -/
  | ssub (d : BitVec 6) (a : BitVec 6) (b : BitVec 6)
  /-- R184: sd := low 64 bits of sa × sb. -/
  | smul (d : BitVec 6) (a : BitVec 6) (b : BitVec 6)
  /-- R184: sd := high 64 bits of the signed, unsigned or mixed 128-bit product, selected by sub. -/
  | smulh (d : BitVec 6) (a : BitVec 6) (b : BitVec 6) (s : BitVec 6)
  /-- R184: sd := sa & sb. -/
  | sand (d : BitVec 6) (a : BitVec 6) (b : BitVec 6)
  /-- R184: sd := sa | sb. -/
  | sor (d : BitVec 6) (a : BitVec 6) (b : BitVec 6)
  /-- R184: sd := sa ^ sb. -/
  | sxor (d : BitVec 6) (a : BitVec 6) (b : BitVec 6)
  /-- R184: sd := sa shifted left by sb[5:0]. -/
  | sshl (d : BitVec 6) (a : BitVec 6) (b : BitVec 6)
  /-- R184: sd := sa shifted right, logical or arithmetic by sub. -/
  | sshr (d : BitVec 6) (a : BitVec 6) (b : BitVec 6) (s : BitVec 6)
  /-- R184: sd := the smaller of sa and sb, signed or unsigned by sub. -/
  | smin (d : BitVec 6) (a : BitVec 6) (b : BitVec 6) (s : BitVec 6)
  /-- R184: sd := the larger of sa and sb, signed or unsigned by sub. -/
  | smax (d : BitVec 6) (a : BitVec 6) (b : BitVec 6) (s : BitVec 6)
  /-- R184: sd := 1 if sa cc sb holds, else 0, with cc from sub. -/
  | scmp (d : BitVec 6) (a : BitVec 6) (b : BitVec 6) (c : BitVec 6)
  /-- R184: sd := sa if the scalar named by sub is nonzero, else sb. -/
  | ssel (d : BitVec 6) (a : BitVec 6) (b : BitVec 6) (c : BitVec 6)
  /-- R184: sd := number of leading zero bits of sa. -/
  | sclz (d : BitVec 6) (a : BitVec 6)
  /-- R184: sd := number of one bits of sa. -/
  | spop (d : BitVec 6) (a : BitVec 6)
  /-- R185: sd := sd + sign-extended imm18. -/
  | saddi (d : BitVec 6) (i : BitVec 18)
  /-- R185: sd := sign-extended imm18. -/
  | smovi (d : BitVec 6) (i : BitVec 18)
  /-- R185: sd := sign-extended imm18 shifted left by 18. -/
  | slui (d : BitVec 6) (i : BitVec 18)
  /-- R186: sd := sign-extended trailing literal. -/
  | smovl (d : BitVec 6) (l : Word)
  /-- R186: sd[63:32] := trailing literal, low half unchanged. -/
  | smovhl (d : BitVec 6) (l : Word)
  /-- R186: sd := sa + sign-extended trailing literal. -/
  | saddl (d : BitVec 6) (a : BitVec 6) (l : Word)
  /-- R189: Scalar load from sa + sb with size, extension and optional acquire; moves lc until sd is written.
    -/
  | sld (d : BitVec 6) (a : BitVec 6) (b : BitVec 6) (o : BitVec 3) (e : BitVec 1) (z : BitVec 2)
  /-- R189: Scalar store of sd to sa + sb with size and optional release; enters the store queue and moves sc.
    -/
  | sst (d : BitVec 6) (a : BitVec 6) (b : BitVec 6) (o : BitVec 3) (z : BitVec 2)
  /-- R190: Moves the fragment to the branch target. -/
  | br (o : BitVec 21)
  /-- R190: Branches if scalar s(55+cond) is nonzero, else falls through. -/
  | brc (c : BitVec 3) (o : BitVec 21)
  /-- R33: Per-lane branch on a predicate: the fragment continues whole or diverges, taking a fragment entry
    and a join entry. -/
  | brv (c : BitVec 3) (o : BitVec 21) (l : Word)
  /-- R192: Arrival of the fragment at its innermost join entry; waits for fusion. -/
  | join
  /-- R190: s63 := return header; branches to the target. -/
  | call (o : BitVec 21)
  /-- R190: Branches to the address in sa, marked as a return. -/
  | ret (a : BitVec 6)
  /-- R190: Branches to the address in sa. -/
  | jmp (a : BitVec 6)
  /-- R193: Makes the fragment the youngest ready fragment of its tenant and continues at the fall-through
    successor. -/
  | yield
  /-- R196: Merges sa into the fragment's fmt under mask sb and returns the old fmt in sd. -/
  | fmtset (d : BitVec 6) (a : BitVec 6) (b : BitVec 6)
  /-- R196: sd := the fragment's fmt. -/
  | fmtget (d : BitVec 6)
  /-- R197: Reads special register 0x02–0x12 into a scalar. -/
  | rdsrScalar (d : BitVec 6) (n : BitVec 6)
  /-- R197: Reads sr.lane or sr.row into a vector register in each guarded lane. -/
  | rdsrLane (g : BitVec 3) (d : BitVec 7) (n : BitVec 7)
  /-- R198: Writes sr.fmt or sr.flags from sa. -/
  | wrsr (a : BitVec 6) (n : BitVec 6)
  /-- R199: Writes index descriptor idk from sa. -/
  | idxset (a : BitVec 6) (k : BitVec 2)
  /-- R202: Launches one child grid from the leader's launch record and waits for acceptance or rejection. -/
  | launch (g : BitVec 3) (d : BitVec 7) (a : BitVec 7) (b : BitVec 7)
  /-- R41: Puts the fragment in bar-wait until the group barrier releases. -/
  | barGrp
  /-- R43: Puts the fragment in gang-bar-wait until the gang barrier releases. -/
  | barGang
  /-- R31: Removes every active lane of the fragment permanently. -/
  | exit
  /-- R205: Releases at .cls, puts the fragment in call-wait and writes a call record to the cluster's call
    ring. -/
  | sysc (g : BitVec 3) (a : BitVec 7) (n : BitVec 7)
  /-- R207: Halts the group as a breakpoint with its code. -/
  | brk (c : BitVec 18)
  /-- R206: Releases at .cls, puts the fragment in call-wait and delivers a scalar trap record with sd and
    code. -/
  | trapi (d : BitVec 6) (c : BitVec 18)
  /-- R213: vd := va + vb mod 2^32 per lane. -/
  | vadd (g : BitVec 3) (d : BitVec 7) (a : BitVec 7) (b : BitVec 7)
  /-- R213: vd := va − vb per lane. -/
  | vsub (g : BitVec 3) (d : BitVec 7) (a : BitVec 7) (b : BitVec 7)
  /-- R213: vd := low 32 bits of va × vb. -/
  | vmul (g : BitVec 3) (d : BitVec 7) (a : BitVec 7) (b : BitVec 7)
  /-- R213: vd := high 32 bits of the signed product. -/
  | vmulh (g : BitVec 3) (d : BitVec 7) (a : BitVec 7) (b : BitVec 7)
  /-- R213: vd := va × vb + vd. -/
  | vmad (g : BitVec 3) (d : BitVec 7) (a : BitVec 7) (b : BitVec 7)
  /-- R213: vd := signed minimum of va and vb. -/
  | vmin (g : BitVec 3) (d : BitVec 7) (a : BitVec 7) (b : BitVec 7)
  /-- R213: vd := signed maximum of va and vb. -/
  | vmax (g : BitVec 3) (d : BitVec 7) (a : BitVec 7) (b : BitVec 7)
  /-- R213: vd := absolute value of va mod 2^32. -/
  | vabs (g : BitVec 3) (d : BitVec 7) (a : BitVec 7)
  /-- R213: vd := va & vb. -/
  | vand (g : BitVec 3) (d : BitVec 7) (a : BitVec 7) (b : BitVec 7)
  /-- R213: vd := va | vb. -/
  | vor (g : BitVec 3) (d : BitVec 7) (a : BitVec 7) (b : BitVec 7)
  /-- R213: vd := va ^ vb. -/
  | vxor (g : BitVec 3) (d : BitVec 7) (a : BitVec 7) (b : BitVec 7)
  /-- R213: vd := ~va. -/
  | vnot (g : BitVec 3) (d : BitVec 7) (a : BitVec 7)
  /-- R213: vd := va shifted left by vb[4:0]. -/
  | vshl (g : BitVec 3) (d : BitVec 7) (a : BitVec 7) (b : BitVec 7)
  /-- R213: vd := va shifted right logically by vb[4:0]. -/
  | vshr (g : BitVec 3) (d : BitVec 7) (a : BitVec 7) (b : BitVec 7)
  /-- R213: vd := va shifted right arithmetically by vb[4:0]. -/
  | vsar (g : BitVec 3) (d : BitVec 7) (a : BitVec 7) (b : BitVec 7)
  /-- R213: vd := va rotated left by vb[4:0]. -/
  | vrot (g : BitVec 3) (d : BitVec 7) (a : BitVec 7) (b : BitVec 7)
  /-- R213: vd := number of one bits of va. -/
  | vpopc (g : BitVec 3) (d : BitVec 7) (a : BitVec 7)
  /-- R213: vd := number of leading zero bits of va. -/
  | vclz (g : BitVec 3) (d : BitVec 7) (a : BitVec 7)
  /-- R216: Integer compare of va and vb into predicate pd. -/
  | vcmp (g : BitVec 3) (c : BitVec 4) (p : BitVec 3) (a : BitVec 7) (b : BitVec 7)
  /-- R214: vd := va where the selecting predicate holds, else vb, with S. -/
  | vsel (p : BitVec 3) (d : BitVec 7) (a : BitVec 7) (b : BitVec 7)
  /-- R214: Copies va with S into vd. -/
  | vmov (g : BitVec 3) (d : BitVec 7) (a : BitVec 7)
  /-- R215: Moves between a register and a per-lane indexed register, after the index check. -/
  | vmovx (g : BitVec 3) (d : BitVec 7) (r : BitVec 1) (k : BitVec 2) (b : BitVec 7)
  /-- R219: vd := low 32 bits of the carry-less product. -/
  | vclmul (g : BitVec 3) (d : BitVec 7) (a : BitVec 7) (b : BitVec 7)
  /-- R219: vd := high bits of the carry-less product. -/
  | vclmulh (g : BitVec 3) (d : BitVec 7) (a : BitVec 7) (b : BitVec 7)
  /-- R220: Requantises va by the Q31 multiplier in vb and the parameter word in v(vb+1) to INT8 or INT4. -/
  | vreq (g : BitVec 3) (d : BitVec 7) (a : BitVec 7) (b : BitVec 7)
  /-- R222: vd[l] := va of the lane named in vb[l]. -/
  | vshfl (g : BitVec 3) (d : BitVec 7) (a : BitVec 7) (b : BitVec 7)
  /-- R223: Broadcasts va from the leader or the row's lowest active lane. -/
  | vbcst (g : BitVec 3) (d : BitVec 7) (a : BitVec 7) (m : BitVec 1)
  /-- R224: Votes a predicate over a per-lane member set within the row. -/
  | vvote (g : BitVec 3) (d : BitVec 7) (o : BitVec 2) (p : BitVec 3) (b : BitVec 7)
  /-- R224: Votes a predicate over the active lanes of selected rows. -/
  | vvoteW (g : BitVec 3) (d : BitVec 7) (o : BitVec 2) (p : BitVec 3) (b : BitVec 7)
  /-- R225: Compresses the lanes where a predicate holds into the lowest active lanes. -/
  | vcomp (d : BitVec 7) (a : BitVec 7) (k : BitVec 1) (p : BitVec 3)
  /-- R225: Expands the lowest active lanes' values into the lanes where a predicate holds. -/
  | vexp (d : BitVec 7) (a : BitVec 7) (k : BitVec 1) (p : BitVec 3)
  /-- R226: Inclusive or exclusive prefix operation over the guarded lanes. -/
  | vscan (g : BitVec 3) (d : BitVec 7) (a : BitVec 7) (e : BitVec 1) (o : BitVec 3)
  /-- R213: vd := va + sign-extended imm7. -/
  | vaddi (g : BitVec 3) (d : BitVec 7) (a : BitVec 7) (i : BitVec 7)
  /-- R213: vd := va shifted left by imm7. -/
  | vshli (g : BitVec 3) (d : BitVec 7) (a : BitVec 7) (i : BitVec 7)
  /-- R213: vd := va shifted right logically by imm7. -/
  | vshri (g : BitVec 3) (d : BitVec 7) (a : BitVec 7) (i : BitVec 7)
  /-- R213: vd := va shifted right arithmetically by imm7. -/
  | vsari (g : BitVec 3) (d : BitVec 7) (a : BitVec 7) (i : BitVec 7)
  /-- R213: vd := sign-extended imm7. -/
  | vmovi (g : BitVec 3) (d : BitVec 7) (i : BitVec 7)
  /-- R213: vd := va + literal. -/
  | vaddl (g : BitVec 3) (d : BitVec 7) (a : BitVec 7) (l : Word)
  /-- R213: vd := low 32 bits of va × literal. -/
  | vmull (g : BitVec 3) (d : BitVec 7) (a : BitVec 7) (l : Word)
  /-- R213: vd := va & literal. -/
  | vandl (g : BitVec 3) (d : BitVec 7) (a : BitVec 7) (l : Word)
  /-- R213: vd := va | literal. -/
  | vorl (g : BitVec 3) (d : BitVec 7) (a : BitVec 7) (l : Word)
  /-- R213: vd := va ^ literal. -/
  | vxorl (g : BitVec 3) (d : BitVec 7) (a : BitVec 7) (l : Word)
  /-- R213: vd := literal. -/
  | vmovl (g : BitVec 3) (d : BitVec 7) (l : Word)
  /-- R216: Integer compare of va with the literal into pd. -/
  | vcmpl (g : BitVec 3) (c : BitVec 4) (p : BitVec 3) (a : BitVec 7) (l : Word)
  /-- R217: pd := logical operation of pa and pb. -/
  | plog (g : BitVec 3) (o : BitVec 4) (p : BitVec 3) (a : BitVec 3) (b : BitVec 3)
  /-- R218: vd := all ones where pa holds, else 0. -/
  | pmov (g : BitVec 3) (d : BitVec 7) (p : BitVec 3)
  /-- R227: FP32 va + vb rounded once with fmt.RM. -/
  | fadd (g : BitVec 3) (d : BitVec 7) (a : BitVec 7) (b : BitVec 7)
  /-- R227: FP32 va − vb rounded once. -/
  | fsub (g : BitVec 3) (d : BitVec 7) (a : BitVec 7) (b : BitVec 7)
  /-- R227: FP32 va × vb rounded once. -/
  | fmul (g : BitVec 3) (d : BitVec 7) (a : BitVec 7) (b : BitVec 7)
  /-- R227: FP32 va × vb + vd fused, rounded once. -/
  | ffma (g : BitVec 3) (d : BitVec 7) (a : BitVec 7) (b : BitVec 7)
  /-- R229: Chooses the smaller operand by R146, moving S. -/
  | fmin (g : BitVec 3) (d : BitVec 7) (a : BitVec 7) (b : BitVec 7)
  /-- R229: Chooses the larger operand by R146, moving S. -/
  | fmax (g : BitVec 3) (d : BitVec 7) (a : BitVec 7) (b : BitVec 7)
  /-- R229: Clears bit 31 of va. -/
  | fabs (g : BitVec 3) (d : BitVec 7) (a : BitVec 7)
  /-- R229: Inverts bit 31 of va. -/
  | fneg (g : BitVec 3) (d : BitVec 7) (a : BitVec 7)
  /-- R216: FP32 compare under R145 into pd, with the undecided rule. -/
  | fcmp (g : BitVec 3) (c : BitVec 4) (p : BitVec 3) (a : BitVec 7) (b : BitVec 7)
  /-- R231: Narrows by round-to-odd on the target's extended grid, recording loss in S. -/
  | fcvt (g : BitVec 3) (d : BitVec 7) (a : BitVec 7) (i : BitVec 1) (f : BitVec 1) (c : BitVec 4)
  /-- R233: Widens a BF16 or FP16 half of va exactly to FP32. -/
  | fwiden (g : BitVec 3) (d : BitVec 7) (a : BitVec 7) (s : BitVec 1) (h : BitVec 1)
  /-- R234: vd := va × 2^vb by R136. -/
  | fscale (g : BitVec 3) (d : BitVec 7) (a : BitVec 7) (b : BitVec 7)
  /-- R232: Final rounding of va to a format with fmt.RM and fmt.SAT. -/
  | frnd (g : BitVec 3) (d : BitVec 7) (a : BitVec 7) (i : BitVec 1) (f : BitVec 1) (c : BitVec 4)
  /-- R235: Computes one MX scale per row. -/
  | fmxs (g : BitVec 3) (d : BitVec 7) (a : BitVec 7) (f : BitVec 1) (c : BitVec 4)
  /-- R236: Writes the class mask of va with its S in bit 10. -/
  | fclass (g : BitVec 3) (d : BitVec 7) (a : BitVec 7)
  /-- R237: vd := zext(va.S). -/
  | fstkGet (g : BitVec 3) (d : BitVec 7) (a : BitVec 7)
  /-- R237: Sets only the S of vd to va[0]. -/
  | fstkSet (g : BitVec 3) (d : BitVec 7) (a : BitVec 7)
  /-- R228: Correctly rounded 1/x. -/
  | frcp (g : BitVec 3) (d : BitVec 7) (a : BitVec 7)
  /-- R228: Correctly rounded 1/sqrt(x). -/
  | frsq (g : BitVec 3) (d : BitVec 7) (a : BitVec 7)
  /-- R228: Correctly rounded 2^x. -/
  | fexp2 (g : BitVec 3) (d : BitVec 7) (a : BitVec 7)
  /-- R228: Correctly rounded log2 x. -/
  | flog2 (g : BitVec 3) (d : BitVec 7) (a : BitVec 7)
  /-- R228: Correctly rounded tanh x. -/
  | ftanh (g : BitVec 3) (d : BitVec 7) (a : BitVec 7)
  /-- R227: FP32 va + literal rounded once. -/
  | faddl (g : BitVec 3) (d : BitVec 7) (a : BitVec 7) (l : Word)
  /-- R227: FP32 va × literal rounded once. -/
  | fmull (g : BitVec 3) (d : BitVec 7) (a : BitVec 7) (l : Word)
  /-- R227: FP32 va × vb + literal fused. -/
  | ffmal (g : BitVec 3) (d : BitVec 7) (a : BitVec 7) (b : BitVec 7) (l : Word)
  /-- R216: FP32 compare of va with the literal into pd. -/
  | fcmpl (g : BitVec 3) (c : BitVec 4) (p : BitVec 3) (a : BitVec 7) (l : Word)
  /-- R230: Packed BF16 add per half. -/
  | faddp (g : BitVec 3) (d : BitVec 7) (a : BitVec 7) (b : BitVec 7)
  /-- R230: Packed BF16 subtract per half. -/
  | fsubp (g : BitVec 3) (d : BitVec 7) (a : BitVec 7) (b : BitVec 7)
  /-- R230: Packed BF16 multiply per half. -/
  | fmulp (g : BitVec 3) (d : BitVec 7) (a : BitVec 7) (b : BitVec 7)
  /-- R230: Packed BF16 fused multiply-add per half. -/
  | ffmap (g : BitVec 3) (d : BitVec 7) (a : BitVec 7) (b : BitVec 7)
  /-- R230: Packed BF16 minimum per half by R146. -/
  | fminp (g : BitVec 3) (d : BitVec 7) (a : BitVec 7) (b : BitVec 7)
  /-- R230: Packed BF16 maximum per half by R146. -/
  | fmaxp (g : BitVec 3) (d : BitVec 7) (a : BitVec 7) (b : BitVec 7)
  /-- R240: Contiguous typed load of one element per lane; moves lc. -/
  | ld (g : BitVec 3) (l : BitVec 4) (v : BitVec 7) (n : BitVec 6) (u : BitVec 4)
  /-- R240: Contiguous typed or raw store of one element per lane; moves sc. -/
  | st (g : BitVec 3) (v : BitVec 7) (n : BitVec 6) (u : BitVec 4)
  /-- R241: Gather with per-lane byte offsets in v+1; moves lc. -/
  | ldg (g : BitVec 3) (l : BitVec 4) (v : BitVec 7) (n : BitVec 6) (u : BitVec 4)
  /-- R241: Scatter with per-lane byte offsets in v+1; moves sc. -/
  | stg (g : BitVec 3) (v : BitVec 7) (n : BitVec 6) (u : BitVec 4)
  /-- R245: Contiguous store whose lines are also pushed to the target cores named in the push-group register.
    -/
  | pst (g : BitVec 3) (v : BitVec 7) (n : BitVec 6) (u : BitVec 4)
  /-- R243: Reloads a spilled register row with data and S. -/
  | ldx (g : BitVec 3) (l : BitVec 4) (v : BitVec 7) (n : BitVec 6)
  /-- R243: Spills a register row as 132 bytes with data and S. -/
  | stx (g : BitVec 3) (v : BitVec 7) (n : BitVec 6)
  /-- R244: Loads one MX block per row with its scale. -/
  | ldmx (g : BitVec 3) (l : BitVec 4) (v : BitVec 7) (n : BitVec 6) (u : BitVec 4)
  /-- R244: Stores one MX block per row with its computed scale, rounding each element. -/
  | stmx (g : BitVec 3) (v : BitVec 7) (n : BitVec 6) (u : BitVec 4)
  /-- R249: Scratchpad load, contiguous or indexed. -/
  | lds (g : BitVec 3) (l : BitVec 4) (v : BitVec 7) (n : BitVec 6) (u : BitVec 4)
  /-- R249: Scratchpad store, contiguous or indexed. -/
  | sts (g : BitVec 3) (v : BitVec 7) (n : BitVec 6) (u : BitVec 4)
  /-- R242: Raw 32-bit load that is an acquire at its scope. -/
  | ldacq (g : BitVec 3) (l : BitVec 4) (v : BitVec 7) (n : BitVec 6) (s : BitVec 3)
  /-- R242: Raw 32-bit store that is a release at its scope. -/
  | strel (g : BitVec 3) (v : BitVec 7) (n : BitVec 6) (s : BitVec 3)
  /-- R247: Integer atomic on global memory, in L1 or at the home bank ALU. -/
  | atom (g : BitVec 3) (l : BitVec 4) (v : BitVec 7) (r : BitVec 1) (c : BitVec 3) (o : BitVec 2) (u : BitVec
      4)
  /-- R248: Atomic at the home bank ALU, including FP add, slot add and slot readout. -/
  | fatom (g : BitVec 3) (l : BitVec 4) (v : BitVec 7) (r : BitVec 1) (c : BitVec 3) (o : BitVec 2) (u :
      BitVec 4)
  /-- R247: Integer atomic on the scratchpad. -/
  | atoms (g : BitVec 3) (l : BitVec 4) (v : BitVec 7) (r : BitVec 1) (c : BitVec 3) (o : BitVec 2) (u :
      BitVec 4)
  /-- R250: Release and acquire at its scope; waits for earlier accesses and push answers. -/
  | fence (s : BitVec 3)
  /-- R251: Issues a three-dimensional copy as an engine operation in the open batch. -/
  | cpy (a : BitVec 6) (r : BitVec 2)
  /-- R254: Closes the open batch and returns its number. -/
  | bcommit (d : BitVec 6)
  /-- R255: Waits until a batch is complete, then joins and acquires. -/
  | bwait (a : BitVec 6)
  /-- R256: Prefetches lines of a range into L1 or L2. -/
  | pref (d : BitVec 6) (a : BitVec 6) (b : BitVec 6) (l : BitVec 1)
  /-- R257: Invalidates I-page copies of a range in the selected L1s. -/
  | cinv (d : BitVec 6) (a : BitVec 6) (b : BitVec 6) (s : BitVec 3)
  /-- R257: Writes back and invalidates copies of a range in the selected L1s. -/
  | cflush (d : BitVec 6) (a : BitVec 6) (b : BitVec 6) (s : BitVec 3)
  /-- R258: Invalidates instruction-cache lines of a range in the selected caches. -/
  | icinv (a : BitVec 6) (b : BitVec 6) (s : BitVec 3)
  /-- R259: Prefetches code lines into L1 or L2. -/
  | ipref (a : BitVec 6) (b : BitVec 6) (l : BitVec 1)
  /-- R259: Pins code lines in the core's instruction cache and returns the count pinned. -/
  | ipin (d : BitVec 6) (a : BitVec 6) (b : BitVec 6)
  /-- R259: Removes pins of a range, or all pins of the core. -/
  | iunpin (a : BitVec 6) (b : BitVec 6)
  /-- R246: Writes one target set of a push-group scalar. -/
  | pgset (d : BitVec 6) (a : BitVec 6) (b : BitVec 6) (j : BitVec 2)
  /-- R253: Element-wise update of one line from the scratchpad at the home bank ALU, as an engine operation.
    -/
  | fupd (d : BitVec 6) (a : BitVec 6) (b : BitVec 6) (t : BitVec 2) (o : BitVec 4)
  /-- R281: Changes a tile's exponent and optionally clears status bits. -/
  | mcfg (a : BitVec 6) (b : BitVec 6) (t : BitVec 3)
  /-- R280: Clears a tile and sets its exponent. -/
  | mzero (a : BitVec 6) (t : BitVec 3)
  /-- R282: Checks a loop descriptor and stages step 0's weight planes. -/
  | mldw (a : BitVec 6)
  /-- R283: Checks a loop descriptor and queues a matrix loop in the open batch. -/
  | mloop (a : BitVec 6)
  /-- R284: Reads tile entries with a final rounding to FP32 or int32. -/
  | mrd (g : BitVec 3) (l : BitVec 4) (v : BitVec 7) (n : BitVec 6) (u : BitVec 4)
  /-- R285: Reads tile entries raw into four registers. -/
  | mrds (g : BitVec 3) (l : BitVec 4) (v : BitVec 7) (n : BitVec 6)
  /-- R286: Returns the status of a tile's current loop. -/
  | mstat (d : BitVec 6) (t : BitVec 3)
  /-- R287: Queues again every held loop on a tile. -/
  | mresume (t : BitVec 3)
  /-- R288: Abandons held, or also queued and running, loops on a tile. -/
  | mrel (a : BitVec 1) (t : BitVec 3)
  /-- R172: An unassigned, reserved or ILL opcode raises the illegal-instruction trap when it issues. -/
  | unassignedOpcode (w : Word)
  /-- R157: A fragment about to begin a clause checks the clause and evaluates the header's waits. -/
  | clauseBegin (g : Gid) (f : BitVec 5)
  /-- R51: At a clause boundary the core's scheduler picks the tenant by stride and the oldest ready fragment
    to issue. -/
  | clauseIssueChoice (core : BitVec 12)
  /-- R36: A BRV in split-wait retries when two split-table entries become free. -/
  | splitWaitRetry (g : Gid) (f : BitVec 5)
  /-- R43: A die's gathered arrivals reach the root die of a class 2 gang. -/
  | gangBarrierArrivalMessage (grid gang : Word) (die : BitVec 6)
  /-- R43: A die receives the root die's release and releases its groups. -/
  | gangBarrierReleaseMessage (grid gang : Word) (die : BitVec 6)
  /-- R39: A held partial resumption takes effect once a fragment entry can be allocated. -/
  | partialResumptionAllocated (c : BitVec 10) (h : BitVec 16)
  /-- R31: A group retires once every lane has exited and lc and ec are 0. -/
  | groupRetire (g : Gid)
  /-- R50: A grid retires when all its gangs and child grids have retired and its completion word is written.
    -/
  | gridRetire (grid : Word)
  /-- R62: A load's or returning atomic's results are written and lc falls. -/
  | loadDataReturn (g : Gid) (op : Nat) (err : SoftErr)
  /-- R101: A store-queue entry is performed in order and sc falls. -/
  | storePerformed (q : Nat)
  /-- R120: A pushed line reaches a target core's L1, which installs or refuses it. -/
  | pushDelivery (q op : Nat) (core : BitVec 12) (line : Nat) (src : BitVec 10) (t : Bool) (refuse : Bool)
      (data : List Byte)
  /-- R125: Every target has installed or refused every line of a push and sc falls. -/
  | pushAnswered (q op : Nat)
  /-- R85: The MTU completes a page-table walk and ownership check for a CTB miss. -/
  | pageWalk (c : BitVec 10) (asn : BitVec 16) (vpn : Nat) (who : MemRef)
  /-- R92: An access waiting in the walk queue for a full quag, or over its tenant's 256-entry share, parks
    once room exists. -/
  | quagRoomFreed (die : BitVec 6)
  /-- R94: The MTU rereads the ownership entry of a scrub-wait entry at least every 4,096 cycles and rewalks
    when the state has moved on. -/
  | scrubWaitReread (die : BitVec 6) (entry : BitVec 10)
  /-- R385: A parked quag entry reaches qtmo's limit; a record is written and the entry is aborted. -/
  | parkingTimeout (die : BitVec 6) (entry : BitVec 10)
  /-- R114: The home directory serves an ownership request by recall, invalidations and a grant of M. -/
  | homeOwnershipRequest (cache line : Nat)
  /-- R119: An L1 acknowledges an invalidation and applies it to a line or pending fill by sequence number. -/
  | invalidationReceived (cache line : Nat) (seq : Word)
  /-- R113: An L1 answers a recall for read or ownership, writing back M data. -/
  | recallReceived (cache line : Nat) (own : Bool)
  /-- R113: A fill or M grant arrives at an L1 and the line is installed. -/
  | fillGrantReceived (cache line : Nat) (m : Bool) (seq : Word) (data : List Byte)
  /-- R80: A bank ALU performs a far atomic or slot update indivisibly. -/
  | farAtomicAtBank (who : MemRef)
  /-- R88: A CTB invalidation reports done once every access using the old entry is performed or parked. -/
  | ctbInvalidateDone (c : BitVec 10)
  /-- R274: At a K-step boundary the arbiter grants the next K-step to the eligible loop of highest priority.
    -/
  | kstepGrant (c : BitVec 10) (half : Bool)
  /-- R267: A K-step's sums are written into the tile together, done advances, and the loop may complete. -/
  | kstepComplete (c : BitVec 10) (half : Bool) (checkErrors : BitVec 2)
  /-- R342: A cluster's engine takes the requested whole or split mode once its table and tiles are free. -/
  | arrayModeSwitch (c : BitVec 10)
  /-- R252: A copy has written every byte, leaves ec and fulfils its batch. -/
  | copyComplete (g : Gid) (op : Nat)
  /-- R253: An element-wise update is performed at the bank, leaves ec and fulfils its batch. -/
  | fupdPerformed (g : Gid) (op : Nat)
  /-- R309: The die power controller grants the oldest request whose cost fits. -/
  | powerGrant (die : BitVec 6)
  /-- R309: A grant is released when its operation completes, stops or is abandoned, and the count is audited.
    -/
  | powerRelease (die : BitVec 6) (ticket : Nat)
  /-- R401: The over-limit condition lasts 10 ms and the die is fenced. -/
  | powerOverLimit10ms (die : BitVec 6)
  /-- R291: The distributor reads a launch record and its descriptor and accepts or rejects the grid. -/
  | launchRecordAccept (die : BitVec 6) (src : LaunchSrc)
  /-- R297: An idle cluster takes a gang ticket by fetch-and-increment. -/
  | ticketTake (die : BitVec 6) (grid : Word)
  /-- R298: A peer receives a steal message and hands over half its remaining tickets or refuses. -/
  | stealRequest (die : BitVec 6) (grid : Word) (thief : BitVec 6)
  /-- R298: A die receives the tickets handed over, or a refusal, and tries the next peer. -/
  | stealReply (die : BitVec 6) (grid : Word) (peer : BitVec 6) (rank lo hi : Nat)
  /-- R299: A die places a gang where all its groups are admitted at once. -/
  | gangPlacement (die : BitVec 6) (grid gang : Word)
  /-- R299: A peer die reserves, commits or aborts room for a class 2 gang by message. -/
  | placementReservation (peer die : BitVec 6) (grid gang : Word) (stage : ResStage)
  /-- R303: The distributor chooses drain, save or flush-and-restart for a gang by its progress estimate. -/
  | preemption (die : BitVec 6) (grid gang : Word) (splitSave : Bool)
  /-- R303: A higher-priority record of the tenant has waited 65,536 cycles for room. -/
  | preemptWaitTimeout (die : BitVec 6) (q : BitVec 10)
  /-- R303: A draining gang has not retired in 1,048,576 cycles and is saved. -/
  | drainTimeout (die : BitVec 6) (grid gang : Word)
  /-- R302: Every group of a halted gang meets R67 and the halt is complete. -/
  | haltComplete (grid gang : Word)
  /-- R402: A halt not complete in time aborts the tenant's grids on the die. -/
  | haltTimeout (die : BitVec 6) (grid gang : Word)
  /-- R306: Distributor message 0x43 checks a gang record, places it and informs the chosen service cores. -/
  | gangRestore (ask : RestoreAsk) (pa : Dword)
  /-- R306: Message 0x44 tells a service core where each restored group is placed. -/
  | gangRestorePlacement (c : BitVec 10) (payload : List Dword)
  /-- R403: Distributor message 0x41, or a severity 2 record, aborts a grid and its descendants with status 4.
    -/
  | gridAbort (die : BitVec 6) (grid : Word)
  /-- R406: A distributor sends a heartbeat to its adopter every 2^20 cycles. -/
  | heartbeat (die : BitVec 6)
  /-- R406: The adopter sees no heartbeat for 4 × 2^20 cycles. -/
  | heartbeatLost (adopter die : BitVec 6)
  /-- R406: The adopter disables the failed distributor, replays its journal and releases held events. -/
  | distributorAdoption (adopter die : BitVec 6)
  /-- R346: The security block forms and signs the scrub token and marks it signed. -/
  | tokenSign (die : BitVec 6) (rsaBad slhBad : BitVec 2)
  /-- R351: No checked delegated signature within 2^30 cycles; the security block signs slh itself. -/
  | delegatedSignTimeout (die : BitVec 6)
  /-- R410: A send stalled 2^24 cycles completes and the message is dropped. -/
  | smsgsendStallTimeout (c : BitVec 10)
  /-- R68: A context image is written and the group's resources are freed. -/
  | contextSaveComplete (c : BitVec 10)
  /-- R278: A restored group is admitted, its engine records queued and kind 5 records posted. -/
  | contextRestoreComplete (c : BitVec 10)
  /-- R327: Every 850,000 cycles the service core refills every enabled slot's budget. -/
  | budgetPeriod (c : BitVec 10)
  /-- R327: sbudget reaches 0 and raises the budget interrupt. -/
  | budgetExhausted (c : BitVec 10)
  /-- R411: The budget interrupt has been pending 85,000 cycles with sbten unchanged. -/
  | budgetInterruptUnserved (c : BitVec 10)
  /-- R331: Die 0's boot ROM trains HBM4, writes firmware ownership and loads and verifies distributor
    firmware. -/
  | bootStage1 (rsaOk slhOk : Bool) (certOk : SigOk)
  /-- R331: Die 0's distributor verifies and releases every other die's firmware. -/
  | bootStage2 (die : BitVec 6) (rsaOk slhOk : Bool)
  /-- R331: Each distributor trains HBM4, writes its tables, starts the boot scrub and its service cores. -/
  | bootStage3 (die : BitVec 6) (lockMap : Bool)
  /-- R331: M-mode firmware enters Peat and the shards take storage and network. -/
  | bootStage4 (c : BitVec 10)
  /-- R374: A die is fenced: boundaries closed, requests answered with errors, tenants aborted, partition re-
    formed. -/
  | dieFence (die : BitVec 6)
  /-- R371: A log slot is delivered on every path, releasing a held record into it. -/
  | errorRecordDelivered (die : BitVec 6) (slot : BitVec 12) (toHost : Bool)
  /-- R329: A message sent by a service core reaches the receive queue of its destination service core, is
    accepted, and raises the message interrupt. -/
  | messageArrival (src : MsgEnd) (dst : MsgEnd)
  /-- R258: Every selected instruction cache reports done for an ICINV, releasing the waiting fragment from
    op-wait. -/
  | icinvDone (g : Gid) (f : BitVec 5)
  /-- R259: Code lines fetched through the home L2 arrive at an L1 instruction cache, completing an IPIN's
    range so that sd receives the pin count. -/
  | instructionFetchFill (g : Gid) (f : BitVec 5)
  /-- R398: A failed copy or update halts its group and then leaves ec. -/
  | engineOperationFailed (g : Gid) (op : Nat) (cause : Byte) (addr : Dword)
  /-- R311: A service core access translates through the CTB and faults instead of parking. -/
  | serviceCoreAccess (c : BitVec 10) (a : SvcAccess)
  /-- R294: Distributor message 0x40 reads a queue-table entry and binds, unbinds or rejects the queue. -/
  | queueBinding (die : BitVec 6) (q : BitVec 10)
  /-- R343: Distributor message 0x42 saves the outgoing tenant's gangs and then commands Sluice. -/
  | tenantSwitch (die : BitVec 6) (payload : List Dword)
  /-- R345: Sluice clears the named state and frames and rewrites their ownership entries. -/
  | sluiceScrub (die : BitVec 6) (stuck : List (BitVec 43))
  /-- R332: A controller executes an NVMe Read. -/
  | nvmeRead (ctl : BitVec 3) (cid : Nat)
  /-- R332: A controller executes an NVMe Write. -/
  | nvmeWrite (ctl : BitVec 3) (cid : Nat)
  /-- R333: A controller executes an NVMe Flush. -/
  | nvmeFlush (ctl : BitVec 3) (cid : Nat)
  /-- R332: A controller executes Write Zeroes. -/
  | nvmeWriteZeroes (ctl : BitVec 3) (cid : Nat)
  /-- R332: A controller executes Dataset Management with deallocate. -/
  | nvmeDatasetManagement (ctl : BitVec 3) (cid : Nat)
  /-- R332: A completion is posted and raises the storage interrupt. -/
  | nvmeCompletion (ctl : BitVec 3) (cid : Nat) (status : NvmeStatus)
  /-- R417: A command has no completion 2^34 cycles after submission, or the controller reports fatal status.
    -/
  | nvmeCommandTimeout (ctl : BitVec 3) (fatal : Bool)
  /-- R418: A controller reset ends outstanding commands and marks files with write errors. -/
  | nvmeControllerReset (ctl : BitVec 3)
  /-- R419: A controller not ready 2^34 cycles after reset goes out of service. -/
  | nvmeReadyTimeout (ctl : BitVec 3)
  /-- R334: A transmit descriptor is sent with offloads. -/
  | frameTransmit (port : BitVec 3) (desc : TxDesc)
  /-- R391: A lost-permit drain ends and permits are reset. -/
  | permitDrainEnd (l : PermitLink)
  /-- R391: A drain not ended in 1,048,576 cycles fences the boundary or takes the link down. -/
  | permitDrainTimeout (l : PermitLink)
  /-- R352: A Lode link trains or retrains at the lower offered generation. -/
  | linkTraining (link : BitVec 4) (peerGen : BitVec 2) (ok : Bool)
  /-- R401: The die's power monitor reading falls to 126 W or below, so the controller resumes making grants.
    -/
  | powerReadingRecovered (die : BitVec 6)
  /-- R401: The die draws over 140 W averaged over 1 ms; new grants stop until it falls to 126 W. -/
  | powerOverLimit (die : BitVec 6)
  /-- R387: The MTU patrol-reads HBM4 sectors and writes back corrected errors. -/
  | hbmPatrolRead (sector : BitVec 38) (err : BitVec 2)
  /-- R396: An uncorrectable tile entry is set to V = 1 and recorded. -/
  | tileEntryEccError (c : BitVec 10) (tile : BitVec 3) (row col : BitVec 7)
  /-- R295: A write to the notify doorbell sets the queue's pending-kick bit and may claim a slot. -/
  | queueNotify (die : BitVec 6) (value : Word)
  /-- R351: A host's write to the signing doorbell makes the security block check the delegated signature. -/
  | signingDoorbell (die : BitVec 6) (value : Word)
  /-- R350: The security block produces a signed attestation report over a nonce. -/
  | attestationReport (die : BitVec 6) (nonce : List Byte) (rsaBad slhBad : BitVec 2)
  /-- R317: Write takes the next eligible ring entry for the service core. -/
  | sintake (c : BitVec 10)
  /-- R318: Writes a caller lane's 64-bit result and advances scsel.lane. -/
  | scres (c : BitVec 10) (v : Dword)
  /-- R319: Adds lanes to a handle's staged set without releasing them. -/
  | slresumeStage (c : BitVec 10) (v : Dword)
  /-- R319: Releases the staged lanes as one resumption, or retires a kind 3 or 4 record. -/
  | slresumeRelease (c : BitVec 10) (v : Dword)
  /-- R325: Selects a quag entry and line and starts that emulated line afresh. -/
  | sqsel (c : BitVec 10) (v : Dword)
  /-- R325: Writes the next doubleword of the emulated line. -/
  | sqdata (c : BitVec 10) (v : Dword)
  /-- R96: Answers a parked entry with retry: every member rewalks. -/
  | sqansRetry (c : BitVec 10) (entry : BitVec 10)
  /-- R96: Answers member loads from the supplied lines; others retry. -/
  | sqansEmulateLoad (c : BitVec 10) (entry : BitVec 10)
  /-- R96: Answers member stores as performed; others retry. -/
  | sqansEmulateStore (c : BitVec 10) (entry : BitVec 10)
  /-- R380: Ends every member without performing it. -/
  | sqansAbort (c : BitVec 10) (entry : BitVec 10)
  /-- R313: Invalidates the CTB and MTU table cache for every address space. -/
  | sctbinvAllSpaces (c : BitVec 10)
  /-- R313: Invalidates one page of one address space. -/
  | sctbinvPage (c : BitVec 10) (asn : BitVec 16) (vpn : BitVec 39)
  /-- R313: Invalidates every translation of one address space. -/
  | sctbinvSpace (c : BitVec 10) (asn : BitVec 16)
  /-- R329: Appends a payload doubleword to the message being built. -/
  | smsgdat (c : BitVec 10) (v : Dword)
  /-- R329: Sends the built message, stalling while 16 to that destination are unaccepted. -/
  | smsgsend (c : BitVec 10)
  /-- R330: Takes the oldest received message, an acquire at .mod. -/
  | smsgrcv (c : BitVec 10)
  /-- R313: Read returns the next payload doubleword of the message taken. -/
  | smsgrd (c : BitVec 10)
  /-- R315: Configures a ring slot's tenant, weight, size and base. -/
  | sring (c : BitVec 10) (v : Dword)
  /-- R313: Acts as MRESUME on a tile of the cluster. -/
  | smresume (c : BitVec 10) (v : Dword)
  /-- R67: Starts writing a halted group's context image. -/
  | sctxopSave (c : BitVec 10) (v : Dword)
  /-- R70: Starts reading and checking a context image and admits the group. -/
  | sctxopRestore (c : BitVec 10) (v : Dword)
  /-- R6: A write to a register with no row of its own stores its fields per its access codes. -/
  | registerWrite (r : RegName) (a : Agent) (v : Dword)
  /-- R301: Writes a tenant's share weight, storing 1 for 0. -/
  | shareTableWrite (die : BitVec 6) (a : Agent) (t : BitVec 12) (v : Byte)
  /-- R341: Writes a tenant-table entry, ignored if it would share slice groups or an array. -/
  | tcfgWrite (die : BitVec 6) (a : Agent) (n : BitVec 4) (v : Dword)
  /-- R336: Writes the firewall register within lock's limits and checks boundary agreement. -/
  | fwctlWrite (die : BitVec 6) (a : Agent) (v : Dword)
  /-- R342: Requests whole or split mode per cluster. -/
  | mmodeWrite (die : BitVec 6) (a : Agent) (v : Dword)
  /-- R356: Selects hardware or host-assisted functions; setting bit 3 makes the security block sign the
    delegation certificate. -/
  | fmodeWrite (die : BitVec 6) (a : Agent) (v : Dword)
  /-- R353: Configures a Lode link; a gmax write of 0 or 3 is ignored. -/
  | lcfgWrite (die : BitVec 6) (a : Agent) (v : Dword)
  /-- R385: Sets the parking timeout, applied at once to every parked entry. -/
  | qtmoWrite (die : BitVec 6) (a : Agent) (v : Dword)
  /-- R373: Sets fence bits, closing boundaries in both directions. -/
  | fenceRegisterWrite (die : BitVec 6) (a : Agent) (v : Dword)
  /-- R373: Sets the replace request, asserting the module's replace signal. -/
  | rreqWrite (die : BitVec 6) (a : Agent) (v : Dword)
  /-- R322: Allocates blocks of a size class, per-lane distinct. -/
  | callAlloc (c : BitVec 10) (h : BitVec 16)
  /-- R322: Frees a block. -/
  | callFree (c : BitVec 10) (h : BitVec 16)
  /-- R322: Maps memory with given protection and treatment. -/
  | callMmap (c : BitVec 10) (h : BitVec 16)
  /-- R322: Unmaps memory. -/
  | callMunmap (c : BitVec 10) (h : BitVec 16)
  /-- R322: Registers a user-level fault handler kernel. -/
  | callFaultreg (c : BitVec 10) (h : BitVec 16)
  /-- R322: Opens a file. -/
  | callOpen (c : BitVec 10) (h : BitVec 16)
  /-- R322: Reads from a file. -/
  | callRead (c : BitVec 10) (h : BitVec 16)
  /-- R333: Writes to a file. -/
  | callWrite (c : BitVec 10) (h : BitVec 16)
  /-- R333: Flushes a file's data to durability. -/
  | callFsync (c : BitVec 10) (h : BitVec 16)
  /-- R322: Closes a descriptor. -/
  | callClose (c : BitVec 10) (h : BitVec 16)
  /-- R322: Creates a TCP or UDP socket. -/
  | callSocket (c : BitVec 10) (h : BitVec 16)
  /-- R322: Sends on a socket. -/
  | callSend (c : BitVec 10) (h : BitVec 16)
  /-- R322: Receives on a socket. -/
  | callRecv (c : BitVec 10) (h : BitVec 16)
  /-- R322: Launches a grid and waits for its completion word. -/
  | callLaunchw (c : BitVec 10) (h : BitVec 16)
  /-- R322: Waits for a grid's completion word. -/
  | callGridw (c : BitVec 10) (h : BitVec 16)
  /-- R322: A call number not in the table returns −ENOSYS. -/
  | callUnassigned (c : BitVec 10) (h : BitVec 16)
  /-- R324: TRAPI code 1: a handler group answers its quag entry. -/
  | faultAnswer (c : BitVec 10) (h : BitVec 16)
  /-- R324: TRAPI code 2: charges the rest of the tenant's budget period. -/
  | yieldSlice (c : BitVec 10) (h : BitVec 16)
  /-- R326: Peat launches the registered handler grid for a fault of kind 0, 1 or 3. -/
  | faultHandlerLaunch (c : BitVec 10) (h : BitVec 16)
  /-- R312: Invalidates the service core's own instruction cache. -/
  | fenceI (c : BitVec 10)
  /-- R89: Module reset puts every register to reset and starts the boot ROM on die 0. -/
  | moduleReset
  /-- R332: A controller executes a supported admin command. -/
  | nvmeAdminCommand (ctl : BitVec 3) (cmd : NvmeAdmin)
  /-- R334: A received Ethernet frame is hashed and steered to a service core. -/
  | frameReceive (port : BitVec 3) (frame : List Byte)
  /-- R420: An Ethernet port's link goes down. -/
  | portLinkDown (port : BitVec 3)
  /-- R354: A Lode read request is translated, checked and performed at home L2. -/
  | lodeReadRequest (link : BitVec 4) (tag : BitVec 13) (va : Dword) (n : Byte)
  /-- R354: A Lode write request with byte mask is translated, checked and performed. -/
  | lodeWriteRequest (link : BitVec 4) (tag : BitVec 13) (va : Dword) (mask : BitVec 128) (data : List Byte)
  /-- R421: A response or permit arrives on a Lode link; an unknown tag is discarded. -/
  | lodeResponseReceived (link : BitVec 4) (tag : BitVec 13)
  /-- R354: A damaged flit is retried at link level. -/
  | lodeFlitRetry (link : BitVec 4)
  /-- R422: A link goes down after retry failure or a failed drain and performs only the intact prefix. -/
  | lodeLinkDown (link : BitVec 4) (cause : Byte)
  /-- R392: The audit interval expires and a marker flit is sent on a link. -/
  | permitAudit (l : PermitLink)
  /-- R391: The marker's counts are compared and a mismatch starts the lost-permit drain. -/
  | permitAuditCompare (l : PermitLink) (permits slots : Word)
  /-- R374: A die-to-die boundary loses its link and the neighbour fences the die. -/
  | boundaryLinkLoss (die : BitVec 6) (dir : BitVec 2)
  /-- R374: A request across a boundary goes unanswered 1,048,576 cycles and the neighbour fences the die. -/
  | neighbourRequestTimeout (die : BitVec 6) (dir : BitVec 2)
  /-- R416: A flit arriving across a boundary held closed is discarded. -/
  | closedBoundaryFlit (die : BitVec 6) (dir : BitVec 2)
  /-- R409: An uncorrectable error puts a cluster out of service. -/
  | serviceCoreFailure (c : BitVec 10)
  /-- R404: An uncorrectable distributor memory error stops the core and records cause 0x01. -/
  | distributorFailure (die : BitVec 6)
  /-- R420: An Ethernet port's link comes up again, ending the −ENETDOWN state of sockets bound to it. -/
  | portLinkUp (port : BitVec 3)
  /-- R333: The module loses power, and written data that is not durable in the NVMe volatile write cache may
    be lost. -/
  | modulePowerLoss
  /-- R408: A flit damaged on a die-to-die boundary is detected and retried at link level, with a corrected
    record. -/
  | boundaryFlitRetry (die : BitVec 6) (dir : BitVec 2)
deriving DecidableEq, Repr

end Sys2Proof
end

