-- ==== Sys2Proof/WellFormed.lean ====
section
/-!
DEFINITION. Well-formed instructions: every `sub`, `cond`, `op`, `code` and register-number field holds a value
the instruction's description assigns (07 R161, 09 R212, 10 R238), and the payloads of device steps have the
lengths their rules give.
-/

namespace Sys2Proof

/-- R242: the scope codes 1 .grp to 5 .sys. -/
def scopeAssigned (s : BitVec 3) : Bool := decide (1 ≤ s.toNat) && decide (s.toNat ≤ 5)

/-- R247: the control and operation fields of ATOM, FATOM and ATOMS; `far` for FATOM. -/
def atomicAssigned (far : Bool) (nr : BitVec 1) (scope : BitVec 3) (ord : BitVec 2) (op : BitVec 4) : Bool :=
  decide (scope.toNat ≤ 5) && ((scope == 0) == (ord == 0))
    && !(nr == 1 && (ord == 1 || ord == 3))
    && !(nr == 1 && (op == 8 || op == 9 || op == 12))
    && !(nr == 0 && op == 11)
    && (if far then decide (op.toNat ≤ 12) else decide (op.toNat ≤ 9))

/-- R231, R232: the format selector names an assigned format; a default format is known only at issue. -/
def fcvtAssigned (isrc dflt : BitVec 1) (code : BitVec 4) : Bool :=
  if dflt == 1 then code == 0
  else decide (1 ≤ code.toNat) && decide (code.toNat ≤ 11) && (isrc == 0 || decide (code.toNat ≤ 7))

/-- Every field of the instruction holds an assigned value. -/
def Instr.wellFormed : Instr → Bool
  | .smulh _ _ _ s => decide (s.toNat ≤ 2)
  | .sshr _ _ _ s | .smin _ _ _ s | .smax _ _ _ s => decide (s.toNat ≤ 1)
  | .scmp _ _ _ c => decide (c.toNat ≤ 9)
  | .sld _ _ _ o e z => decide (o.toNat ≤ 5) && !(z == 3 && e == 1)
  | .sst _ _ _ o _ => decide (o.toNat ≤ 5)
  | .brc c _ => c != 0
  | .rdsrScalar _ n => decide (2 ≤ n.toNat) && decide (n.toNat ≤ 0x12)
  | .rdsrLane _ _ n => decide (n.toNat ≤ 1)
  | .wrsr _ n => n == 0x0A || n == 0x0B
  | .vcmp _ c _ _ _ | .vcmpl _ c _ _ _ => decide (c.toNat ≤ 9)
  | .fcmp _ c _ _ _ | .fcmpl _ c _ _ _ => decide (c.toNat ≤ 6)
  | .vshli _ _ _ i | .vshri _ _ _ i | .vsari _ _ _ i => decide (i.toNat ≤ 31)
  | .vscan _ _ _ _ o => decide (o.toNat ≤ 5)
  | .plog _ o _ _ _ => decide (o.toNat ≤ 7)
  | .fcvt _ _ _ i f c => fcvtAssigned i f c
  | .frnd _ _ _ _ f c => if f == 1 then c == 0 else decide (c.toNat ≤ 11)
  | .fmxs _ _ _ f c => if f == 1 then c == 0 else decide (3 ≤ c.toNat) && decide (c.toNat ≤ 7)
  | .ldg _ _ _ _ u | .stg _ _ _ u => decide (u.toNat ≤ 11)
  | .pst _ _ n u => decide (u.toNat ≤ 11) && decide (n.toNat ≤ 61)
  | .ldmx _ _ _ n u | .stmx _ _ n u => decide (3 ≤ u.toNat) && decide (u.toNat ≤ 7) && decide (n.toNat ≤ 62)
  | .ldacq _ _ _ _ s | .strel _ _ _ s => scopeAssigned s
  | .fence s | .cinv _ _ _ s | .cflush _ _ _ s | .icinv _ _ s => scopeAssigned s
  | .atom _ _ _ r c o u | .atoms _ _ _ r c o u => atomicAssigned false r c o u
  | .fatom _ _ _ r c o u => atomicAssigned true r c o u
  | .cpy a _ => decide (a.toNat ≤ 58)
  | .fupd _ _ _ t o =>
      decide (t.toNat ≤ 1) && decide (o.toNat ≤ 6) && !(t == 1 && (o == 3 || o == 4 || o == 5))
  | .mrd _ _ _ _ u => decide (u.toNat ≤ 1)
  | .pushDelivery _ _ _ _ _ _ _ data => data.length == 128
  | .fillGrantReceived _ _ _ _ data => data.length == 128
  | .tenantSwitch _ payload => payload.length == 5
  | .gangRestorePlacement _ payload => payload.length == 6
  | .lodeReadRequest _ _ _ n => decide (1 ≤ n.toNat) && decide (n.toNat ≤ 128)
  | .lodeWriteRequest _ _ _ _ data => decide (1 ≤ data.length) && decide (data.length ≤ 128)
  | .sluiceScrub _ stuck => stuck.all fun p => p.toNat % 65536 == 0
  | .attestationReport _ nonce _ _ => nonce.length == 64
  | .frameReceive _ frame => decide (frame.length ≤ 9018)
  | _ => true

end Sys2Proof
end

