-- ==== Sys2Proof/Decode.lean ====
section
/-!
DEFINITION. Decoding and encoding of instruction words (07_encoding_assembly.md R160 to R162, R170 to R172).
A word is rejected by name: an unassigned, reserved or ILL opcode (R172), or a nonzero rsvd field (R161, R168).
A value a `sub`, `cond`, `op` or `code` field does not assign still decodes: its trap belongs to the
instruction's meaning, in the order of R169.
-/

namespace Sys2Proof

/-- Why a word is no instruction. Both raise the illegal-instruction trap when the word issues (R168, R172);
`truncated` is an L form whose literal is missing, which the clause check excludes (R157). -/
inductive Reject where
  | unassigned (op : Nat)
  | reserved (op : Nat)
  | truncated (op : Nat)
deriving DecidableEq, Repr

/-- R2: the `n` bits of `w` from bit `lo` up. -/
def fld (w lo n : Nat) : BitVec n := BitVec.ofNat n (w / 2 ^ lo)

/-- R7, R161: an rsvd field of `n` bits from bit `lo` is 0. -/
def rsv (w lo n : Nat) : Bool := w / 2 ^ lo % 2 ^ n == 0

/-- An instruction whose rsvd fields are all 0, or the rejection of R168. -/
def guardRsvd (ok : Bool) (op : Nat) (i : Instr) : Except Reject Instr :=
  if ok then .ok i else .error (.reserved op)

/-- R162: an L form reads the word after it. -/
def withLit (op : Nat) (lit : Option Word) (k : Word → Except Reject Instr) : Except Reject Instr :=
  match lit with
  | some l => k l
  | none => .error (.truncated op)

/-- R170: row 0x0_ of the opcode map. -/
def decodeRow0 (w op : Nat) : Except Reject Instr :=
  match op % 16 with
  | 0 => guardRsvd (rsv w 0 24) op (.nop)
  | 1 => guardRsvd (rsv w 0 6) op (.sadd (fld w 18 6) (fld w 12 6) (fld w 6 6))
  | 2 => guardRsvd (rsv w 0 6) op (.ssub (fld w 18 6) (fld w 12 6) (fld w 6 6))
  | 3 => guardRsvd (rsv w 0 6) op (.smul (fld w 18 6) (fld w 12 6) (fld w 6 6))
  | 4 => .ok (.smulh (fld w 18 6) (fld w 12 6) (fld w 6 6) (fld w 0 6))
  | 5 => guardRsvd (rsv w 0 6) op (.sand (fld w 18 6) (fld w 12 6) (fld w 6 6))
  | 6 => guardRsvd (rsv w 0 6) op (.sor (fld w 18 6) (fld w 12 6) (fld w 6 6))
  | 7 => guardRsvd (rsv w 0 6) op (.sxor (fld w 18 6) (fld w 12 6) (fld w 6 6))
  | 8 => guardRsvd (rsv w 0 6) op (.sshl (fld w 18 6) (fld w 12 6) (fld w 6 6))
  | 9 => .ok (.sshr (fld w 18 6) (fld w 12 6) (fld w 6 6) (fld w 0 6))
  | 10 => .ok (.smin (fld w 18 6) (fld w 12 6) (fld w 6 6) (fld w 0 6))
  | 11 => .ok (.smax (fld w 18 6) (fld w 12 6) (fld w 6 6) (fld w 0 6))
  | 12 => .ok (.scmp (fld w 18 6) (fld w 12 6) (fld w 6 6) (fld w 0 6))
  | 13 => .ok (.ssel (fld w 18 6) (fld w 12 6) (fld w 6 6) (fld w 0 6))
  | 14 => guardRsvd (rsv w 0 12) op (.sclz (fld w 18 6) (fld w 12 6))
  | _ => guardRsvd (rsv w 0 12) op (.spop (fld w 18 6) (fld w 12 6))

/-- R170: row 0x1_ of the opcode map. -/
def decodeRow1 (w op : Nat) (lit : Option Word) : Except Reject Instr :=
  match op % 16 with
  | 0 => .ok (.saddi (fld w 18 6) (fld w 0 18))
  | 1 => .ok (.smovi (fld w 18 6) (fld w 0 18))
  | 2 => .ok (.slui (fld w 18 6) (fld w 0 18))
  | 3 => withLit op lit fun l => guardRsvd (rsv w 0 18) op (.smovl (fld w 18 6) l)
  | 4 => withLit op lit fun l => guardRsvd (rsv w 0 18) op (.smovhl (fld w 18 6) l)
  | 5 => withLit op lit fun l => guardRsvd (rsv w 0 12) op (.saddl (fld w 18 6) (fld w 12 6) l)
  | 6 => .ok (.sld (fld w 18 6) (fld w 12 6) (fld w 6 6) (fld w 3 3) (fld w 2 1) (fld w 0 2))
  | 7 => guardRsvd (rsv w 2 1) op (.sst (fld w 18 6) (fld w 12 6) (fld w 6 6) (fld w 3 3) (fld w 0 2))
  | 8 => guardRsvd (rsv w 21 3) op (.br (fld w 0 21))
  | 9 => .ok (.brc (fld w 21 3) (fld w 0 21))
  | 10 => withLit op lit fun l => .ok (.brv (fld w 21 3) (fld w 0 21) l)
  | 11 => guardRsvd (rsv w 0 24) op (.join)
  | 12 => guardRsvd (rsv w 21 3) op (.call (fld w 0 21))
  | 13 => guardRsvd (rsv w 0 12 && rsv w 18 6) op (.ret (fld w 12 6))
  | 14 => guardRsvd (rsv w 0 12 && rsv w 18 6) op (.jmp (fld w 12 6))
  | _ => guardRsvd (rsv w 0 24) op (.yield)

/-- R170: row 0x2_ of the opcode map. -/
def decodeRow2 (w op : Nat) : Except Reject Instr :=
  match op % 16 with
  | 0 => guardRsvd (rsv w 0 6) op (.fmtset (fld w 18 6) (fld w 12 6) (fld w 6 6))
  | 1 => guardRsvd (rsv w 0 18) op (.fmtget (fld w 18 6))
  | 2 => guardRsvd (rsv w 6 12) op (.rdsrScalar (fld w 18 6) (fld w 0 6))
  | 3 => guardRsvd (rsv w 7 7) op (.rdsrLane (fld w 21 3) (fld w 14 7) (fld w 0 7))
  | 4 => guardRsvd (rsv w 6 6 && rsv w 18 6) op (.wrsr (fld w 12 6) (fld w 0 6))
  | 5 => guardRsvd (rsv w 2 10 && rsv w 18 6) op (.idxset (fld w 12 6) (fld w 0 2))
  | 6 => .ok (.launch (fld w 21 3) (fld w 14 7) (fld w 7 7) (fld w 0 7))
  | 7 => guardRsvd (rsv w 0 24) op (.barGrp)
  | 8 => guardRsvd (rsv w 0 24) op (.barGang)
  | 9 => guardRsvd (rsv w 0 24) op (.exit)
  | 10 => guardRsvd (rsv w 14 7) op (.sysc (fld w 21 3) (fld w 7 7) (fld w 0 7))
  | 11 => guardRsvd (rsv w 18 6) op (.brk (fld w 0 18))
  | 12 => .ok (.trapi (fld w 18 6) (fld w 0 18))
  | _ => .error (.unassigned op)

/-- R170: row 0x4_ of the opcode map. -/
def decodeRow4 (w op : Nat) : Except Reject Instr :=
  match op % 16 with
  | 0 => .ok (.vadd (fld w 21 3) (fld w 14 7) (fld w 7 7) (fld w 0 7))
  | 1 => .ok (.vsub (fld w 21 3) (fld w 14 7) (fld w 7 7) (fld w 0 7))
  | 2 => .ok (.vmul (fld w 21 3) (fld w 14 7) (fld w 7 7) (fld w 0 7))
  | 3 => .ok (.vmulh (fld w 21 3) (fld w 14 7) (fld w 7 7) (fld w 0 7))
  | 4 => .ok (.vmad (fld w 21 3) (fld w 14 7) (fld w 7 7) (fld w 0 7))
  | 5 => .ok (.vmin (fld w 21 3) (fld w 14 7) (fld w 7 7) (fld w 0 7))
  | 6 => .ok (.vmax (fld w 21 3) (fld w 14 7) (fld w 7 7) (fld w 0 7))
  | 7 => guardRsvd (rsv w 0 7) op (.vabs (fld w 21 3) (fld w 14 7) (fld w 7 7))
  | 8 => .ok (.vand (fld w 21 3) (fld w 14 7) (fld w 7 7) (fld w 0 7))
  | 9 => .ok (.vor (fld w 21 3) (fld w 14 7) (fld w 7 7) (fld w 0 7))
  | 10 => .ok (.vxor (fld w 21 3) (fld w 14 7) (fld w 7 7) (fld w 0 7))
  | 11 => guardRsvd (rsv w 0 7) op (.vnot (fld w 21 3) (fld w 14 7) (fld w 7 7))
  | 12 => .ok (.vshl (fld w 21 3) (fld w 14 7) (fld w 7 7) (fld w 0 7))
  | 13 => .ok (.vshr (fld w 21 3) (fld w 14 7) (fld w 7 7) (fld w 0 7))
  | 14 => .ok (.vsar (fld w 21 3) (fld w 14 7) (fld w 7 7) (fld w 0 7))
  | _ => .ok (.vrot (fld w 21 3) (fld w 14 7) (fld w 7 7) (fld w 0 7))

/-- R170: row 0x5_ of the opcode map. -/
def decodeRow5 (w op : Nat) : Except Reject Instr :=
  match op % 16 with
  | 0 => guardRsvd (rsv w 0 7) op (.vpopc (fld w 21 3) (fld w 14 7) (fld w 7 7))
  | 1 => guardRsvd (rsv w 0 7) op (.vclz (fld w 21 3) (fld w 14 7) (fld w 7 7))
  | 2 => .ok (.vcmp (fld w 21 3) (fld w 17 4) (fld w 14 3) (fld w 7 7) (fld w 0 7))
  | 3 => .ok (.vsel (fld w 21 3) (fld w 14 7) (fld w 7 7) (fld w 0 7))
  | 4 => guardRsvd (rsv w 0 7) op (.vmov (fld w 21 3) (fld w 14 7) (fld w 7 7))
  | 5 => guardRsvd (rsv w 10 4) op (.vmovx (fld w 21 3) (fld w 14 7) (fld w 9 1) (fld w 7 2) (fld w 0 7))
  | 6 => .ok (.vclmul (fld w 21 3) (fld w 14 7) (fld w 7 7) (fld w 0 7))
  | 7 => .ok (.vclmulh (fld w 21 3) (fld w 14 7) (fld w 7 7) (fld w 0 7))
  | 8 => .ok (.vreq (fld w 21 3) (fld w 14 7) (fld w 7 7) (fld w 0 7))
  | 9 => .ok (.vshfl (fld w 21 3) (fld w 14 7) (fld w 7 7) (fld w 0 7))
  | 10 => guardRsvd (rsv w 1 6) op (.vbcst (fld w 21 3) (fld w 14 7) (fld w 7 7) (fld w 0 1))
  | 11 => guardRsvd (rsv w 12 2) op (.vvote (fld w 21 3) (fld w 14 7) (fld w 10 2) (fld w 7 3) (fld w 0 7))
  | 12 => guardRsvd (rsv w 12 2) op (.vvoteW (fld w 21 3) (fld w 14 7) (fld w 10 2) (fld w 7 3) (fld w 0 7))
  | 13 => guardRsvd (rsv w 4 3 && rsv w 21 3) op (.vcomp (fld w 14 7) (fld w 7 7) (fld w 3 1) (fld w 0 3))
  | 14 => guardRsvd (rsv w 4 3 && rsv w 21 3) op (.vexp (fld w 14 7) (fld w 7 7) (fld w 3 1) (fld w 0 3))
  | _ => guardRsvd (rsv w 4 3) op (.vscan (fld w 21 3) (fld w 14 7) (fld w 7 7) (fld w 3 1) (fld w 0 3))

/-- R170: row 0x6_ of the opcode map. -/
def decodeRow6 (w op : Nat) (lit : Option Word) : Except Reject Instr :=
  match op % 16 with
  | 0 => .ok (.vaddi (fld w 21 3) (fld w 14 7) (fld w 7 7) (fld w 0 7))
  | 1 => .ok (.vshli (fld w 21 3) (fld w 14 7) (fld w 7 7) (fld w 0 7))
  | 2 => .ok (.vshri (fld w 21 3) (fld w 14 7) (fld w 7 7) (fld w 0 7))
  | 3 => .ok (.vsari (fld w 21 3) (fld w 14 7) (fld w 7 7) (fld w 0 7))
  | 4 => guardRsvd (rsv w 7 7) op (.vmovi (fld w 21 3) (fld w 14 7) (fld w 0 7))
  | 5 => withLit op lit fun l => guardRsvd (rsv w 0 7) op (.vaddl (fld w 21 3) (fld w 14 7) (fld w 7 7) l)
  | 6 => withLit op lit fun l => guardRsvd (rsv w 0 7) op (.vmull (fld w 21 3) (fld w 14 7) (fld w 7 7) l)
  | 7 => withLit op lit fun l => guardRsvd (rsv w 0 7) op (.vandl (fld w 21 3) (fld w 14 7) (fld w 7 7) l)
  | 8 => withLit op lit fun l => guardRsvd (rsv w 0 7) op (.vorl (fld w 21 3) (fld w 14 7) (fld w 7 7) l)
  | 9 => withLit op lit fun l => guardRsvd (rsv w 0 7) op (.vxorl (fld w 21 3) (fld w 14 7) (fld w 7 7) l)
  | 10 => withLit op lit fun l => guardRsvd (rsv w 0 14) op (.vmovl (fld w 21 3) (fld w 14 7) l)
  | 11 => withLit op lit fun l => guardRsvd (rsv w 0 7) op (.vcmpl (fld w 21 3) (fld w 17 4) (fld w 14 3) (fld w 7 7) l)
  | 12 => guardRsvd (rsv w 3 4 && rsv w 10 4) op (.plog (fld w 21 3) (fld w 17 4) (fld w 14 3) (fld w 7 3) (fld w 0 3))
  | 13 => guardRsvd (rsv w 0 7 && rsv w 10 4) op (.pmov (fld w 21 3) (fld w 14 7) (fld w 7 3))
  | _ => .error (.unassigned op)

/-- R170: row 0x7_ of the opcode map. -/
def decodeRow7 (w op : Nat) : Except Reject Instr :=
  match op % 16 with
  | 0 => .ok (.fadd (fld w 21 3) (fld w 14 7) (fld w 7 7) (fld w 0 7))
  | 1 => .ok (.fsub (fld w 21 3) (fld w 14 7) (fld w 7 7) (fld w 0 7))
  | 2 => .ok (.fmul (fld w 21 3) (fld w 14 7) (fld w 7 7) (fld w 0 7))
  | 3 => .ok (.ffma (fld w 21 3) (fld w 14 7) (fld w 7 7) (fld w 0 7))
  | 4 => .ok (.fmin (fld w 21 3) (fld w 14 7) (fld w 7 7) (fld w 0 7))
  | 5 => .ok (.fmax (fld w 21 3) (fld w 14 7) (fld w 7 7) (fld w 0 7))
  | 6 => guardRsvd (rsv w 0 7) op (.fabs (fld w 21 3) (fld w 14 7) (fld w 7 7))
  | 7 => guardRsvd (rsv w 0 7) op (.fneg (fld w 21 3) (fld w 14 7) (fld w 7 7))
  | 8 => .ok (.fcmp (fld w 21 3) (fld w 17 4) (fld w 14 3) (fld w 7 7) (fld w 0 7))
  | 9 => guardRsvd (rsv w 6 1) op (.fcvt (fld w 21 3) (fld w 14 7) (fld w 7 7) (fld w 5 1) (fld w 4 1) (fld w 0 4))
  | 10 => guardRsvd (rsv w 2 5) op (.fwiden (fld w 21 3) (fld w 14 7) (fld w 7 7) (fld w 1 1) (fld w 0 1))
  | 11 => .ok (.fscale (fld w 21 3) (fld w 14 7) (fld w 7 7) (fld w 0 7))
  | 12 => guardRsvd (rsv w 6 1) op (.frnd (fld w 21 3) (fld w 14 7) (fld w 7 7) (fld w 5 1) (fld w 4 1) (fld w 0 4))
  | 13 => guardRsvd (rsv w 5 2) op (.fmxs (fld w 21 3) (fld w 14 7) (fld w 7 7) (fld w 4 1) (fld w 0 4))
  | 14 => guardRsvd (rsv w 0 7) op (.fclass (fld w 21 3) (fld w 14 7) (fld w 7 7))
  | _ => guardRsvd (rsv w 1 6) op (if rsv w 0 1 then .fstkGet (fld w 21 3) (fld w 14 7) (fld w 7 7) else .fstkSet (fld w 21 3) (fld w 14 7) (fld w 7 7))

/-- R170: row 0x8_ of the opcode map. -/
def decodeRow8 (w op : Nat) (lit : Option Word) : Except Reject Instr :=
  match op % 16 with
  | 0 => guardRsvd (rsv w 0 7) op (.frcp (fld w 21 3) (fld w 14 7) (fld w 7 7))
  | 1 => guardRsvd (rsv w 0 7) op (.frsq (fld w 21 3) (fld w 14 7) (fld w 7 7))
  | 2 => guardRsvd (rsv w 0 7) op (.fexp2 (fld w 21 3) (fld w 14 7) (fld w 7 7))
  | 3 => guardRsvd (rsv w 0 7) op (.flog2 (fld w 21 3) (fld w 14 7) (fld w 7 7))
  | 4 => guardRsvd (rsv w 0 7) op (.ftanh (fld w 21 3) (fld w 14 7) (fld w 7 7))
  | 5 => withLit op lit fun l => guardRsvd (rsv w 0 7) op (.faddl (fld w 21 3) (fld w 14 7) (fld w 7 7) l)
  | 6 => withLit op lit fun l => guardRsvd (rsv w 0 7) op (.fmull (fld w 21 3) (fld w 14 7) (fld w 7 7) l)
  | 7 => withLit op lit fun l => .ok (.ffmal (fld w 21 3) (fld w 14 7) (fld w 7 7) (fld w 0 7) l)
  | 8 => withLit op lit fun l => guardRsvd (rsv w 0 7) op (.fcmpl (fld w 21 3) (fld w 17 4) (fld w 14 3) (fld w 7 7) l)
  | 9 => .ok (.faddp (fld w 21 3) (fld w 14 7) (fld w 7 7) (fld w 0 7))
  | 10 => .ok (.fsubp (fld w 21 3) (fld w 14 7) (fld w 7 7) (fld w 0 7))
  | 11 => .ok (.fmulp (fld w 21 3) (fld w 14 7) (fld w 7 7) (fld w 0 7))
  | 12 => .ok (.ffmap (fld w 21 3) (fld w 14 7) (fld w 7 7) (fld w 0 7))
  | 13 => .ok (.fminp (fld w 21 3) (fld w 14 7) (fld w 7 7) (fld w 0 7))
  | 14 => .ok (.fmaxp (fld w 21 3) (fld w 14 7) (fld w 7 7) (fld w 0 7))
  | _ => .error (.unassigned op)

/-- R170: row 0xA_ of the opcode map. -/
def decodeRowA (w op : Nat) : Except Reject Instr :=
  match op % 16 with
  | 0 => .ok (.ld (fld w 21 3) (fld w 17 4) (fld w 10 7) (fld w 4 6) (fld w 0 4))
  | 1 => guardRsvd (rsv w 17 4) op (.st (fld w 21 3) (fld w 10 7) (fld w 4 6) (fld w 0 4))
  | 2 => .ok (.ldg (fld w 21 3) (fld w 17 4) (fld w 10 7) (fld w 4 6) (fld w 0 4))
  | 3 => guardRsvd (rsv w 17 4) op (.stg (fld w 21 3) (fld w 10 7) (fld w 4 6) (fld w 0 4))
  | 4 => guardRsvd (rsv w 17 4) op (.pst (fld w 21 3) (fld w 10 7) (fld w 4 6) (fld w 0 4))
  | 5 => guardRsvd (rsv w 0 4) op (.ldx (fld w 21 3) (fld w 17 4) (fld w 10 7) (fld w 4 6))
  | 6 => guardRsvd (rsv w 0 4 && rsv w 17 4) op (.stx (fld w 21 3) (fld w 10 7) (fld w 4 6))
  | 7 => .ok (.ldmx (fld w 21 3) (fld w 17 4) (fld w 10 7) (fld w 4 6) (fld w 0 4))
  | 8 => guardRsvd (rsv w 17 4) op (.stmx (fld w 21 3) (fld w 10 7) (fld w 4 6) (fld w 0 4))
  | 9 => .ok (.lds (fld w 21 3) (fld w 17 4) (fld w 10 7) (fld w 4 6) (fld w 0 4))
  | 10 => guardRsvd (rsv w 17 4) op (.sts (fld w 21 3) (fld w 10 7) (fld w 4 6) (fld w 0 4))
  | 11 => guardRsvd (rsv w 3 1) op (.ldacq (fld w 21 3) (fld w 17 4) (fld w 10 7) (fld w 4 6) (fld w 0 3))
  | 12 => guardRsvd (rsv w 3 1 && rsv w 17 4) op (.strel (fld w 21 3) (fld w 10 7) (fld w 4 6) (fld w 0 3))
  | 13 => .ok (.atom (fld w 21 3) (fld w 17 4) (fld w 10 7) (fld w 9 1) (fld w 6 3) (fld w 4 2) (fld w 0 4))
  | 14 => .ok (.fatom (fld w 21 3) (fld w 17 4) (fld w 10 7) (fld w 9 1) (fld w 6 3) (fld w 4 2) (fld w 0 4))
  | _ => .ok (.atoms (fld w 21 3) (fld w 17 4) (fld w 10 7) (fld w 9 1) (fld w 6 3) (fld w 4 2) (fld w 0 4))

/-- R170: row 0xB_ of the opcode map. -/
def decodeRowB (w op : Nat) : Except Reject Instr :=
  match op % 16 with
  | 0 => guardRsvd (rsv w 3 21) op (.fence (fld w 0 3))
  | 1 => guardRsvd (rsv w 2 10 && rsv w 18 6) op (.cpy (fld w 12 6) (fld w 0 2))
  | 2 => guardRsvd (rsv w 0 18) op (.bcommit (fld w 18 6))
  | 3 => guardRsvd (rsv w 0 12 && rsv w 18 6) op (.bwait (fld w 12 6))
  | 4 => guardRsvd (rsv w 1 5) op (.pref (fld w 18 6) (fld w 12 6) (fld w 6 6) (fld w 0 1))
  | 5 => guardRsvd (rsv w 3 3) op (.cinv (fld w 18 6) (fld w 12 6) (fld w 6 6) (fld w 0 3))
  | 6 => guardRsvd (rsv w 3 3) op (.cflush (fld w 18 6) (fld w 12 6) (fld w 6 6) (fld w 0 3))
  | 7 => guardRsvd (rsv w 3 3 && rsv w 18 6) op (.icinv (fld w 12 6) (fld w 6 6) (fld w 0 3))
  | 8 => guardRsvd (rsv w 1 5 && rsv w 18 6) op (.ipref (fld w 12 6) (fld w 6 6) (fld w 0 1))
  | 9 => guardRsvd (rsv w 0 6) op (.ipin (fld w 18 6) (fld w 12 6) (fld w 6 6))
  | 10 => guardRsvd (rsv w 0 6 && rsv w 18 6) op (.iunpin (fld w 12 6) (fld w 6 6))
  | 11 => guardRsvd (rsv w 2 4) op (.pgset (fld w 18 6) (fld w 12 6) (fld w 6 6) (fld w 0 2))
  | 12 => .ok (.fupd (fld w 18 6) (fld w 12 6) (fld w 6 6) (fld w 4 2) (fld w 0 4))
  | _ => .error (.unassigned op)

/-- R170: row 0xD_ of the opcode map. -/
def decodeRowD (w op : Nat) : Except Reject Instr :=
  match op % 16 with
  | 0 => guardRsvd (rsv w 3 3 && rsv w 18 6) op (.mcfg (fld w 12 6) (fld w 6 6) (fld w 0 3))
  | 1 => guardRsvd (rsv w 3 9 && rsv w 18 6) op (.mzero (fld w 12 6) (fld w 0 3))
  | 2 => guardRsvd (rsv w 0 12 && rsv w 18 6) op (.mldw (fld w 12 6))
  | 3 => guardRsvd (rsv w 0 12 && rsv w 18 6) op (.mloop (fld w 12 6))
  | 4 => .ok (.mrd (fld w 21 3) (fld w 17 4) (fld w 10 7) (fld w 4 6) (fld w 0 4))
  | 5 => guardRsvd (rsv w 0 4) op (.mrds (fld w 21 3) (fld w 17 4) (fld w 10 7) (fld w 4 6))
  | 6 => guardRsvd (rsv w 3 15) op (.mstat (fld w 18 6) (fld w 0 3))
  | 7 => guardRsvd (rsv w 3 21) op (.mresume (fld w 0 3))
  | 8 => guardRsvd (rsv w 4 20) op (.mrel (fld w 3 1) (fld w 0 3))
  | _ => .error (.unassigned op)

/-- R170: the opcode map. Rows 0x3_, 0x9_, 0xC_ are unassigned, 0xE_ and 0xF_ reserved, 0xFF is ILL. -/
def decodeNat (w : Nat) (lit : Option Word) : Except Reject Instr :=
  let op := w / 2 ^ 24 % 256
  match op / 16 with
  | 0 => decodeRow0 w op
  | 1 => decodeRow1 w op lit
  | 2 => decodeRow2 w op
  | 4 => decodeRow4 w op
  | 5 => decodeRow5 w op
  | 6 => decodeRow6 w op lit
  | 7 => decodeRow7 w op
  | 8 => decodeRow8 w op lit
  | 10 => decodeRowA w op
  | 11 => decodeRowB w op
  | 13 => decodeRowD w op
  | _ => .error (.unassigned op)

/-- R160: the instruction a word stands for, with the word after it for an L form. -/
def decode (w : Word) (lit : Option Word) : Except Reject Instr := decodeNat w.toNat lit

/-- R2: the word whose bytes, lowest address first, are the first four of a list. -/
def wordOfBytes : List Byte → Option Word
  | b0 :: b1 :: b2 :: b3 :: _ => some (b3 ++ b2 ++ b1 ++ b0)
  | _ => none

/-- R155, R162: the instruction that starts at the first of a list of bytes, total on any bytes. -/
def decodeBytes (bs : List Byte) : Except Reject Instr :=
  match wordOfBytes bs with
  | none => .error (.truncated 0)
  | some w => decode w (wordOfBytes (bs.drop 4))

/-- R2: the four bytes of a word, lowest address first. -/
def bytesOfNat : Nat → Nat → List Byte
  | 0, _ => []
  | n + 1, w => BitVec.ofNat 8 w :: bytesOfNat n (w / 256)

/-- The instruction whose first `nbits` bits are `w`, every later bit 0 (the longest instruction has two words). -/
def decodeTableWord (nbits w : Nat) : Option Instr :=
  match decodeBytes (bytesOfNat 8 (w % 2 ^ nbits)) with
  | .ok i => some i
  | .error _ => none

/-- R157, R171: the opcodes that are branches. -/
def opIsBranch (op : Nat) : Bool :=
  op == 0x18 || op == 0x19 || op == 0x1A || op == 0x1B || op == 0x1C || op == 0x1D || op == 0x1E || op == 0x1F

/-- R162: the opcodes that take a trailing literal. -/
def opTakesLiteral (op : Nat) : Bool :=
  op == 0x13 || op == 0x14 || op == 0x15 || op == 0x1A || (0x65 ≤ op && op ≤ 0x6B) || (0x85 ≤ op && op ≤ 0x88)

/-- R170, R171: the class of an assigned opcode, none for an unassigned or reserved one. -/
def opClass (op : Nat) : Option Nat :=
  if op ≤ 0x25 || op == 0x27 || op == 0x28 then some 0
  else if op == 0x26 || op == 0x29 || op == 0x2A || op == 0x2B || op == 0x2C then some 4
  else if (0x40 ≤ op && op ≤ 0x6D) || (0x70 ≤ op && op ≤ 0x8E) then some 1
  else if 0xA0 ≤ op && op ≤ 0xBC then some 2
  else if 0xD0 ≤ op && op ≤ 0xD8 then some 3
  else none

/-- A word from its opcode and the fields below it, each with its lowest bit. -/
def mkWord (op : Nat) (fields : List (Nat × Nat)) : Nat :=
  op * 2 ^ 24 + (fields.map fun f => f.2 * 2 ^ f.1).sum

/-- R160: the word of an instruction that has one, from the same tables; none for a device step. -/
def encodeNat : Instr → Option Nat
  | .nop => some (mkWord 0x00 [])
  | .sadd d a b => some (mkWord 0x01 [(18, d.toNat), (12, a.toNat), (6, b.toNat)])
  | .ssub d a b => some (mkWord 0x02 [(18, d.toNat), (12, a.toNat), (6, b.toNat)])
  | .smul d a b => some (mkWord 0x03 [(18, d.toNat), (12, a.toNat), (6, b.toNat)])
  | .smulh d a b s => some (mkWord 0x04 [(18, d.toNat), (12, a.toNat), (6, b.toNat), (0, s.toNat)])
  | .sand d a b => some (mkWord 0x05 [(18, d.toNat), (12, a.toNat), (6, b.toNat)])
  | .sor d a b => some (mkWord 0x06 [(18, d.toNat), (12, a.toNat), (6, b.toNat)])
  | .sxor d a b => some (mkWord 0x07 [(18, d.toNat), (12, a.toNat), (6, b.toNat)])
  | .sshl d a b => some (mkWord 0x08 [(18, d.toNat), (12, a.toNat), (6, b.toNat)])
  | .sshr d a b s => some (mkWord 0x09 [(18, d.toNat), (12, a.toNat), (6, b.toNat), (0, s.toNat)])
  | .smin d a b s => some (mkWord 0x0A [(18, d.toNat), (12, a.toNat), (6, b.toNat), (0, s.toNat)])
  | .smax d a b s => some (mkWord 0x0B [(18, d.toNat), (12, a.toNat), (6, b.toNat), (0, s.toNat)])
  | .scmp d a b c => some (mkWord 0x0C [(18, d.toNat), (12, a.toNat), (6, b.toNat), (0, c.toNat)])
  | .ssel d a b c => some (mkWord 0x0D [(18, d.toNat), (12, a.toNat), (6, b.toNat), (0, c.toNat)])
  | .sclz d a => some (mkWord 0x0E [(18, d.toNat), (12, a.toNat)])
  | .spop d a => some (mkWord 0x0F [(18, d.toNat), (12, a.toNat)])
  | .saddi d i => some (mkWord 0x10 [(18, d.toNat), (0, i.toNat)])
  | .smovi d i => some (mkWord 0x11 [(18, d.toNat), (0, i.toNat)])
  | .slui d i => some (mkWord 0x12 [(18, d.toNat), (0, i.toNat)])
  | .smovl d _ => some (mkWord 0x13 [(18, d.toNat)])
  | .smovhl d _ => some (mkWord 0x14 [(18, d.toNat)])
  | .saddl d a _ => some (mkWord 0x15 [(18, d.toNat), (12, a.toNat)])
  | .sld d a b o e z => some (mkWord 0x16 [(18, d.toNat), (12, a.toNat), (6, b.toNat), (3, o.toNat), (2, e.toNat), (0, z.toNat)])
  | .sst d a b o z => some (mkWord 0x17 [(18, d.toNat), (12, a.toNat), (6, b.toNat), (3, o.toNat), (0, z.toNat)])
  | .br o => some (mkWord 0x18 [(0, o.toNat)])
  | .brc c o => some (mkWord 0x19 [(21, c.toNat), (0, o.toNat)])
  | .brv c o _ => some (mkWord 0x1A [(21, c.toNat), (0, o.toNat)])
  | .join => some (mkWord 0x1B [])
  | .call o => some (mkWord 0x1C [(0, o.toNat)])
  | .ret a => some (mkWord 0x1D [(12, a.toNat)])
  | .jmp a => some (mkWord 0x1E [(12, a.toNat)])
  | .yield => some (mkWord 0x1F [])
  | .fmtset d a b => some (mkWord 0x20 [(18, d.toNat), (12, a.toNat), (6, b.toNat)])
  | .fmtget d => some (mkWord 0x21 [(18, d.toNat)])
  | .rdsrScalar d n => some (mkWord 0x22 [(18, d.toNat), (0, n.toNat)])
  | .rdsrLane g d n => some (mkWord 0x23 [(21, g.toNat), (14, d.toNat), (0, n.toNat)])
  | .wrsr a n => some (mkWord 0x24 [(12, a.toNat), (0, n.toNat)])
  | .idxset a k => some (mkWord 0x25 [(12, a.toNat), (0, k.toNat)])
  | .launch g d a b => some (mkWord 0x26 [(21, g.toNat), (14, d.toNat), (7, a.toNat), (0, b.toNat)])
  | .barGrp => some (mkWord 0x27 [])
  | .barGang => some (mkWord 0x28 [])
  | .exit => some (mkWord 0x29 [])
  | .sysc g a n => some (mkWord 0x2A [(21, g.toNat), (7, a.toNat), (0, n.toNat)])
  | .brk c => some (mkWord 0x2B [(0, c.toNat)])
  | .trapi d c => some (mkWord 0x2C [(18, d.toNat), (0, c.toNat)])
  | .vadd g d a b => some (mkWord 0x40 [(21, g.toNat), (14, d.toNat), (7, a.toNat), (0, b.toNat)])
  | .vsub g d a b => some (mkWord 0x41 [(21, g.toNat), (14, d.toNat), (7, a.toNat), (0, b.toNat)])
  | .vmul g d a b => some (mkWord 0x42 [(21, g.toNat), (14, d.toNat), (7, a.toNat), (0, b.toNat)])
  | .vmulh g d a b => some (mkWord 0x43 [(21, g.toNat), (14, d.toNat), (7, a.toNat), (0, b.toNat)])
  | .vmad g d a b => some (mkWord 0x44 [(21, g.toNat), (14, d.toNat), (7, a.toNat), (0, b.toNat)])
  | .vmin g d a b => some (mkWord 0x45 [(21, g.toNat), (14, d.toNat), (7, a.toNat), (0, b.toNat)])
  | .vmax g d a b => some (mkWord 0x46 [(21, g.toNat), (14, d.toNat), (7, a.toNat), (0, b.toNat)])
  | .vabs g d a => some (mkWord 0x47 [(21, g.toNat), (14, d.toNat), (7, a.toNat)])
  | .vand g d a b => some (mkWord 0x48 [(21, g.toNat), (14, d.toNat), (7, a.toNat), (0, b.toNat)])
  | .vor g d a b => some (mkWord 0x49 [(21, g.toNat), (14, d.toNat), (7, a.toNat), (0, b.toNat)])
  | .vxor g d a b => some (mkWord 0x4A [(21, g.toNat), (14, d.toNat), (7, a.toNat), (0, b.toNat)])
  | .vnot g d a => some (mkWord 0x4B [(21, g.toNat), (14, d.toNat), (7, a.toNat)])
  | .vshl g d a b => some (mkWord 0x4C [(21, g.toNat), (14, d.toNat), (7, a.toNat), (0, b.toNat)])
  | .vshr g d a b => some (mkWord 0x4D [(21, g.toNat), (14, d.toNat), (7, a.toNat), (0, b.toNat)])
  | .vsar g d a b => some (mkWord 0x4E [(21, g.toNat), (14, d.toNat), (7, a.toNat), (0, b.toNat)])
  | .vrot g d a b => some (mkWord 0x4F [(21, g.toNat), (14, d.toNat), (7, a.toNat), (0, b.toNat)])
  | .vpopc g d a => some (mkWord 0x50 [(21, g.toNat), (14, d.toNat), (7, a.toNat)])
  | .vclz g d a => some (mkWord 0x51 [(21, g.toNat), (14, d.toNat), (7, a.toNat)])
  | .vcmp g c p a b => some (mkWord 0x52 [(21, g.toNat), (17, c.toNat), (14, p.toNat), (7, a.toNat), (0, b.toNat)])
  | .vsel p d a b => some (mkWord 0x53 [(21, p.toNat), (14, d.toNat), (7, a.toNat), (0, b.toNat)])
  | .vmov g d a => some (mkWord 0x54 [(21, g.toNat), (14, d.toNat), (7, a.toNat)])
  | .vmovx g d r k b => some (mkWord 0x55 [(21, g.toNat), (14, d.toNat), (9, r.toNat), (7, k.toNat), (0, b.toNat)])
  | .vclmul g d a b => some (mkWord 0x56 [(21, g.toNat), (14, d.toNat), (7, a.toNat), (0, b.toNat)])
  | .vclmulh g d a b => some (mkWord 0x57 [(21, g.toNat), (14, d.toNat), (7, a.toNat), (0, b.toNat)])
  | .vreq g d a b => some (mkWord 0x58 [(21, g.toNat), (14, d.toNat), (7, a.toNat), (0, b.toNat)])
  | .vshfl g d a b => some (mkWord 0x59 [(21, g.toNat), (14, d.toNat), (7, a.toNat), (0, b.toNat)])
  | .vbcst g d a m => some (mkWord 0x5A [(21, g.toNat), (14, d.toNat), (7, a.toNat), (0, m.toNat)])
  | .vvote g d o p b => some (mkWord 0x5B [(21, g.toNat), (14, d.toNat), (10, o.toNat), (7, p.toNat), (0, b.toNat)])
  | .vvoteW g d o p b => some (mkWord 0x5C [(21, g.toNat), (14, d.toNat), (10, o.toNat), (7, p.toNat), (0, b.toNat)])
  | .vcomp d a k p => some (mkWord 0x5D [(14, d.toNat), (7, a.toNat), (3, k.toNat), (0, p.toNat)])
  | .vexp d a k p => some (mkWord 0x5E [(14, d.toNat), (7, a.toNat), (3, k.toNat), (0, p.toNat)])
  | .vscan g d a e o => some (mkWord 0x5F [(21, g.toNat), (14, d.toNat), (7, a.toNat), (3, e.toNat), (0, o.toNat)])
  | .vaddi g d a i => some (mkWord 0x60 [(21, g.toNat), (14, d.toNat), (7, a.toNat), (0, i.toNat)])
  | .vshli g d a i => some (mkWord 0x61 [(21, g.toNat), (14, d.toNat), (7, a.toNat), (0, i.toNat)])
  | .vshri g d a i => some (mkWord 0x62 [(21, g.toNat), (14, d.toNat), (7, a.toNat), (0, i.toNat)])
  | .vsari g d a i => some (mkWord 0x63 [(21, g.toNat), (14, d.toNat), (7, a.toNat), (0, i.toNat)])
  | .vmovi g d i => some (mkWord 0x64 [(21, g.toNat), (14, d.toNat), (0, i.toNat)])
  | .vaddl g d a _ => some (mkWord 0x65 [(21, g.toNat), (14, d.toNat), (7, a.toNat)])
  | .vmull g d a _ => some (mkWord 0x66 [(21, g.toNat), (14, d.toNat), (7, a.toNat)])
  | .vandl g d a _ => some (mkWord 0x67 [(21, g.toNat), (14, d.toNat), (7, a.toNat)])
  | .vorl g d a _ => some (mkWord 0x68 [(21, g.toNat), (14, d.toNat), (7, a.toNat)])
  | .vxorl g d a _ => some (mkWord 0x69 [(21, g.toNat), (14, d.toNat), (7, a.toNat)])
  | .vmovl g d _ => some (mkWord 0x6A [(21, g.toNat), (14, d.toNat)])
  | .vcmpl g c p a _ => some (mkWord 0x6B [(21, g.toNat), (17, c.toNat), (14, p.toNat), (7, a.toNat)])
  | .plog g o p a b => some (mkWord 0x6C [(21, g.toNat), (17, o.toNat), (14, p.toNat), (7, a.toNat), (0, b.toNat)])
  | .pmov g d p => some (mkWord 0x6D [(21, g.toNat), (14, d.toNat), (7, p.toNat)])
  | .fadd g d a b => some (mkWord 0x70 [(21, g.toNat), (14, d.toNat), (7, a.toNat), (0, b.toNat)])
  | .fsub g d a b => some (mkWord 0x71 [(21, g.toNat), (14, d.toNat), (7, a.toNat), (0, b.toNat)])
  | .fmul g d a b => some (mkWord 0x72 [(21, g.toNat), (14, d.toNat), (7, a.toNat), (0, b.toNat)])
  | .ffma g d a b => some (mkWord 0x73 [(21, g.toNat), (14, d.toNat), (7, a.toNat), (0, b.toNat)])
  | .fmin g d a b => some (mkWord 0x74 [(21, g.toNat), (14, d.toNat), (7, a.toNat), (0, b.toNat)])
  | .fmax g d a b => some (mkWord 0x75 [(21, g.toNat), (14, d.toNat), (7, a.toNat), (0, b.toNat)])
  | .fabs g d a => some (mkWord 0x76 [(21, g.toNat), (14, d.toNat), (7, a.toNat)])
  | .fneg g d a => some (mkWord 0x77 [(21, g.toNat), (14, d.toNat), (7, a.toNat)])
  | .fcmp g c p a b => some (mkWord 0x78 [(21, g.toNat), (17, c.toNat), (14, p.toNat), (7, a.toNat), (0, b.toNat)])
  | .fcvt g d a i f c => some (mkWord 0x79 [(21, g.toNat), (14, d.toNat), (7, a.toNat), (5, i.toNat), (4, f.toNat), (0, c.toNat)])
  | .fwiden g d a s h => some (mkWord 0x7A [(21, g.toNat), (14, d.toNat), (7, a.toNat), (1, s.toNat), (0, h.toNat)])
  | .fscale g d a b => some (mkWord 0x7B [(21, g.toNat), (14, d.toNat), (7, a.toNat), (0, b.toNat)])
  | .frnd g d a i f c => some (mkWord 0x7C [(21, g.toNat), (14, d.toNat), (7, a.toNat), (5, i.toNat), (4, f.toNat), (0, c.toNat)])
  | .fmxs g d a f c => some (mkWord 0x7D [(21, g.toNat), (14, d.toNat), (7, a.toNat), (4, f.toNat), (0, c.toNat)])
  | .fclass g d a => some (mkWord 0x7E [(21, g.toNat), (14, d.toNat), (7, a.toNat)])
  | .fstkGet g d a => some (mkWord 0x7F [(21, g.toNat), (14, d.toNat), (7, a.toNat)])
  | .fstkSet g d a => some (mkWord 0x7F [(21, g.toNat), (14, d.toNat), (7, a.toNat), (0, 1)])
  | .frcp g d a => some (mkWord 0x80 [(21, g.toNat), (14, d.toNat), (7, a.toNat)])
  | .frsq g d a => some (mkWord 0x81 [(21, g.toNat), (14, d.toNat), (7, a.toNat)])
  | .fexp2 g d a => some (mkWord 0x82 [(21, g.toNat), (14, d.toNat), (7, a.toNat)])
  | .flog2 g d a => some (mkWord 0x83 [(21, g.toNat), (14, d.toNat), (7, a.toNat)])
  | .ftanh g d a => some (mkWord 0x84 [(21, g.toNat), (14, d.toNat), (7, a.toNat)])
  | .faddl g d a _ => some (mkWord 0x85 [(21, g.toNat), (14, d.toNat), (7, a.toNat)])
  | .fmull g d a _ => some (mkWord 0x86 [(21, g.toNat), (14, d.toNat), (7, a.toNat)])
  | .ffmal g d a b _ => some (mkWord 0x87 [(21, g.toNat), (14, d.toNat), (7, a.toNat), (0, b.toNat)])
  | .fcmpl g c p a _ => some (mkWord 0x88 [(21, g.toNat), (17, c.toNat), (14, p.toNat), (7, a.toNat)])
  | .faddp g d a b => some (mkWord 0x89 [(21, g.toNat), (14, d.toNat), (7, a.toNat), (0, b.toNat)])
  | .fsubp g d a b => some (mkWord 0x8A [(21, g.toNat), (14, d.toNat), (7, a.toNat), (0, b.toNat)])
  | .fmulp g d a b => some (mkWord 0x8B [(21, g.toNat), (14, d.toNat), (7, a.toNat), (0, b.toNat)])
  | .ffmap g d a b => some (mkWord 0x8C [(21, g.toNat), (14, d.toNat), (7, a.toNat), (0, b.toNat)])
  | .fminp g d a b => some (mkWord 0x8D [(21, g.toNat), (14, d.toNat), (7, a.toNat), (0, b.toNat)])
  | .fmaxp g d a b => some (mkWord 0x8E [(21, g.toNat), (14, d.toNat), (7, a.toNat), (0, b.toNat)])
  | .ld g l v n u => some (mkWord 0xA0 [(21, g.toNat), (17, l.toNat), (10, v.toNat), (4, n.toNat), (0, u.toNat)])
  | .st g v n u => some (mkWord 0xA1 [(21, g.toNat), (10, v.toNat), (4, n.toNat), (0, u.toNat)])
  | .ldg g l v n u => some (mkWord 0xA2 [(21, g.toNat), (17, l.toNat), (10, v.toNat), (4, n.toNat), (0, u.toNat)])
  | .stg g v n u => some (mkWord 0xA3 [(21, g.toNat), (10, v.toNat), (4, n.toNat), (0, u.toNat)])
  | .pst g v n u => some (mkWord 0xA4 [(21, g.toNat), (10, v.toNat), (4, n.toNat), (0, u.toNat)])
  | .ldx g l v n => some (mkWord 0xA5 [(21, g.toNat), (17, l.toNat), (10, v.toNat), (4, n.toNat)])
  | .stx g v n => some (mkWord 0xA6 [(21, g.toNat), (10, v.toNat), (4, n.toNat)])
  | .ldmx g l v n u => some (mkWord 0xA7 [(21, g.toNat), (17, l.toNat), (10, v.toNat), (4, n.toNat), (0, u.toNat)])
  | .stmx g v n u => some (mkWord 0xA8 [(21, g.toNat), (10, v.toNat), (4, n.toNat), (0, u.toNat)])
  | .lds g l v n u => some (mkWord 0xA9 [(21, g.toNat), (17, l.toNat), (10, v.toNat), (4, n.toNat), (0, u.toNat)])
  | .sts g v n u => some (mkWord 0xAA [(21, g.toNat), (10, v.toNat), (4, n.toNat), (0, u.toNat)])
  | .ldacq g l v n s => some (mkWord 0xAB [(21, g.toNat), (17, l.toNat), (10, v.toNat), (4, n.toNat), (0, s.toNat)])
  | .strel g v n s => some (mkWord 0xAC [(21, g.toNat), (10, v.toNat), (4, n.toNat), (0, s.toNat)])
  | .atom g l v r c o u => some (mkWord 0xAD [(21, g.toNat), (17, l.toNat), (10, v.toNat), (9, r.toNat), (6, c.toNat), (4, o.toNat), (0, u.toNat)])
  | .fatom g l v r c o u => some (mkWord 0xAE [(21, g.toNat), (17, l.toNat), (10, v.toNat), (9, r.toNat), (6, c.toNat), (4, o.toNat), (0, u.toNat)])
  | .atoms g l v r c o u => some (mkWord 0xAF [(21, g.toNat), (17, l.toNat), (10, v.toNat), (9, r.toNat), (6, c.toNat), (4, o.toNat), (0, u.toNat)])
  | .fence s => some (mkWord 0xB0 [(0, s.toNat)])
  | .cpy a r => some (mkWord 0xB1 [(12, a.toNat), (0, r.toNat)])
  | .bcommit d => some (mkWord 0xB2 [(18, d.toNat)])
  | .bwait a => some (mkWord 0xB3 [(12, a.toNat)])
  | .pref d a b l => some (mkWord 0xB4 [(18, d.toNat), (12, a.toNat), (6, b.toNat), (0, l.toNat)])
  | .cinv d a b s => some (mkWord 0xB5 [(18, d.toNat), (12, a.toNat), (6, b.toNat), (0, s.toNat)])
  | .cflush d a b s => some (mkWord 0xB6 [(18, d.toNat), (12, a.toNat), (6, b.toNat), (0, s.toNat)])
  | .icinv a b s => some (mkWord 0xB7 [(12, a.toNat), (6, b.toNat), (0, s.toNat)])
  | .ipref a b l => some (mkWord 0xB8 [(12, a.toNat), (6, b.toNat), (0, l.toNat)])
  | .ipin d a b => some (mkWord 0xB9 [(18, d.toNat), (12, a.toNat), (6, b.toNat)])
  | .iunpin a b => some (mkWord 0xBA [(12, a.toNat), (6, b.toNat)])
  | .pgset d a b j => some (mkWord 0xBB [(18, d.toNat), (12, a.toNat), (6, b.toNat), (0, j.toNat)])
  | .fupd d a b t o => some (mkWord 0xBC [(18, d.toNat), (12, a.toNat), (6, b.toNat), (4, t.toNat), (0, o.toNat)])
  | .mcfg a b t => some (mkWord 0xD0 [(12, a.toNat), (6, b.toNat), (0, t.toNat)])
  | .mzero a t => some (mkWord 0xD1 [(12, a.toNat), (0, t.toNat)])
  | .mldw a => some (mkWord 0xD2 [(12, a.toNat)])
  | .mloop a => some (mkWord 0xD3 [(12, a.toNat)])
  | .mrd g l v n u => some (mkWord 0xD4 [(21, g.toNat), (17, l.toNat), (10, v.toNat), (4, n.toNat), (0, u.toNat)])
  | .mrds g l v n => some (mkWord 0xD5 [(21, g.toNat), (17, l.toNat), (10, v.toNat), (4, n.toNat)])
  | .mstat d t => some (mkWord 0xD6 [(18, d.toNat), (0, t.toNat)])
  | .mresume t => some (mkWord 0xD7 [(0, t.toNat)])
  | .mrel a t => some (mkWord 0xD8 [(3, a.toNat), (0, t.toNat)])
  | _ => none

/-- R162: the trailing literal of an L form. -/
def literalOf : Instr → Option Word
  | .smovl _ l => some l
  | .smovhl _ l => some l
  | .saddl _ _ l => some l
  | .brv _ _ l => some l
  | .vaddl _ _ _ l => some l
  | .vmull _ _ _ l => some l
  | .vandl _ _ _ l => some l
  | .vorl _ _ _ l => some l
  | .vxorl _ _ _ l => some l
  | .vmovl _ _ l => some l
  | .vcmpl _ _ _ _ l => some l
  | .faddl _ _ _ l => some l
  | .fmull _ _ _ l => some l
  | .ffmal _ _ _ _ l => some l
  | .fcmpl _ _ _ _ l => some l
  | _ => none

/-- The words of an instruction, its literal after its word (R162); none for a device step. -/
def encode (i : Instr) : List Word :=
  match encodeNat i with
  | some w => BitVec.ofNat 32 w :: (literalOf i).toList
  | none => []

/-- Whether a table row is an instruction with a word, and not a device step. -/
def Instr.hasWord (i : Instr) : Bool := (encodeNat i).isSome

end Sys2Proof
end

