-- ==== Sys2Proof/Config.lean ====
section
/-!
DEFINITION. What an implementation fixes, and the values and orders the spec leaves open: opaque constants
that nothing in Lean can evaluate. A statement about one holds whatever it is (notes/assumptions).
-/

namespace Sys2Proof.Config

/-- Log 1: the choice among the moves that are possible at a step; the spec gives no order between
independent agents (R20, R51, R102, R109). -/
opaque pick : Nat → Nat

/-- Log 1: the cycles a die's counter advances during a step; the spec gives clocks and no latencies (R5, R20). -/
opaque elapsed : Nat → Nat → Nat

/-- Log 1: time goes on: of `perCycle` + 1 steps in a row, one at least advances every counter. -/
opaque perCycle : Nat

/-- Log 3: a scratchpad byte of a grant placed without zero fill (R72): by placement and offset. -/
opaque scratchJunk : Nat → Nat → Byte

/-- Log 5: the way a full cache set or translation buffer gives up (R78, R87, R98). -/
opaque victim : Nat → Nat

/-- Log 6: whether a fused multiply-add of a zero, an infinity and a quiet NaN signals NV: IEEE 754-2019
leaves it to the implementation (R134, R227). -/
opaque fmaInvalidWithQuietNan : Bool

/-- Log 7: bytes of signatures, by key, body and index (R346, R349 to R351). -/
opaque rsaSignature : List Byte → Nat → Byte
opaque slhSignature : List Byte → Nat → Byte
/-- Log 7: SHA-384 (R346, R350). -/
opaque sha384 : List Byte → Nat → Byte
/-- Log 7: whether an SLH-DSA signature verifies over a body under a public key (R351). -/
opaque slhVerify : List Byte → List Byte → List Byte → Bool

/-- Log 7: the chained hash of the firmware images loaded on a die (R350). -/
opaque firmwareHash : Nat → Nat → Byte

/-- Log 8: the receive hash of a frame's 5-tuple (R334). -/
opaque frameHash : List Byte → BitVec 12

/-- Log 9: bytes that the spec allows to be either of two values (R398, R402, R418): true takes the new one. -/
opaque takeNew : Nat → Nat → Bool

/-- Log 10: bytes an NVMe controller returns whose layout the NVMe specification gives and this spec does not. -/
opaque nvmeData : Nat → Nat → Byte

/-- Log 18: the cause of a record of class 0x06 or 0x30, for which the spec gives none (R374, R391), by class; and the permits
of a die-to-die boundary (R391). -/
opaque unstatedCause : Nat → Byte
opaque boundaryPermits : Nat
/-- Log 18: where a die's firmware image lies while it is verified (R331, R413). -/
opaque imageAddr : Nat → Nat

/-- Log 32: the block of the boot area's header, and the blocks that a header names (R331). -/
opaque bootHeader : Nat
opaque bootBlocks : List Byte → List Nat

/-- Log 11: values of Peat's own policy that the spec leaves to Peat (R322): addresses of mappings and the like. -/
opaque peatChoice : Nat → Nat

/-- Log 44: a tenant's quota of blocks of a class, and the number of its first block, before Peat's first alloc (R322), by
tenant · 16 + class. -/
opaque peatQuota : Nat → Nat
opaque peatRun : Nat → Nat

/-- Log 53: the capacity of a die's power controller that firmware writes at boot (R308, R401); what a K-step adds to the
performance counter of its half (R262). -/
opaque powerCap : Nat → Nat
opaque perfStep : Nat → Nat

/-- Log 54: cycles that an instruction of a service core takes beyond one (R310); where its firmware starts (R331). -/
opaque svcCycles : Nat → Nat
opaque svcEntry : Nat → Nat

/-- Log 12: whether a prefetch of a line is carried out (R256, R259). -/
opaque prefetches : Nat → Bool

/-- Log 16: bytes of a distributor's checkpoint, whose layout the spec does not give (R405): by the state that it covers and offset. -/
opaque checkpoint {α : Type} (covers : α) : Nat → Byte

end Sys2Proof.Config
end

