-- ==== Sys2Proof/Machine/SMap.lean ====
section
/-!
DEFINITION. Sparse maps from natural numbers: lists of (key, value) pairs with keys strictly rising and no
entry equal to the value an unlisted key has, so that equal maps are equal lists. Memory (04 R74), register
files and the tables of the module are held in this form.
-/

namespace Sys2Proof.Machine

/-- A sparse map; what an unlisted key reads as is given at each use. -/
abbrev SMap (α : Type) := List (Nat × α)

namespace SMap

/-- The value at key `k`, `d` where none is listed. -/
def get {α : Type} (d : α) : SMap α → Nat → α
  | [], _ => d
  | (k', v) :: m, k => if k' = k then v else get d m k

/-- Whether a key is listed. -/
def has {α : Type} : SMap α → Nat → Bool
  | [], _ => false
  | (k', _) :: m, k => k' == k || has m k

/-- The value at a listed key. -/
def find {α : Type} : SMap α → Nat → Option α
  | [], _ => none
  | (k', v) :: m, k => if k' = k then some v else find m k

/-- Remove key `k`. -/
def erase {α : Type} : SMap α → Nat → SMap α
  | [], _ => []
  | (k', v) :: m, k => if k' = k then erase m k else (k', v) :: erase m k

/-- List `v` at key `k`, in rising order of keys. -/
def put {α : Type} : SMap α → Nat → α → SMap α
  | [], k, v => [(k, v)]
  | (k', v') :: m, k, v =>
    if k < k' then (k, v) :: (k', v') :: m
    else if k' = k then (k, v) :: m
    else (k', v') :: put m k v

/-- Set key `k` to `v`, keeping the canonical form: a value equal to the default `d` is not listed. -/
def set {α : Type} [DecidableEq α] (d : α) (m : SMap α) (k : Nat) (v : α) : SMap α :=
  if v = d then erase m k else put m k v

/-- Drop every key from `lo` up to but not including `hi`. -/
def dropRange {α : Type} (m : SMap α) (lo hi : Nat) : SMap α :=
  m.filter fun e => decide (e.1 < lo) || decide (hi ≤ e.1)

/-- The keys listed, in rising order. -/
def keys {α : Type} (m : SMap α) : List Nat := m.map (·.1)

/-- The first natural number below `n` that is not listed. -/
def firstFree {α : Type} (m : SMap α) (n : Nat) : Option Nat :=
  (List.range n).find? fun k => !has m k

/-- The canonical form: keys strictly rising, no value equal to the default of its key. -/
def wf {α : Type} [DecidableEq α] (d : Nat → α) : SMap α → Bool
  | [] => true
  | [(k, v)] => decide (v ≠ d k)
  | (k, v) :: (k', v') :: m => decide (k < k') && decide (v ≠ d k) && wf d ((k', v') :: m)

end SMap

end Sys2Proof.Machine
end

