-- ==== Sys2Proof/Machine/State.lean ====
section
/-!
DEFINITION. The state of the module, as plain data: every piece of state the spec gives, and the model's own
bookkeeping (the events in flight, the actions of outside agents, the step counter). `INVENTORY.md`, heading
State, lists each with its rule and its reset value.
-/

namespace Sys2Proof.Machine

/-- Why the machine stops. -/
inductive Fault where
  /-- Raised by the meaning of an instruction when no resident fragment is issuing: the state is one that no
  step reaches, since `step` names the issuing fragment before it runs an instruction. Safe. -/
  | noIssuer
deriving DecidableEq, Repr

/-- Why an instruction has no meaning. -/
inductive Refusal where
  /-- Raised by the dispatch of an instruction that has no meaning yet; safe, it only stops a run. -/
  | notModelled (mnemonic : String)
deriving DecidableEq, Repr

/-! ### Groups (02, 03) -/

/-- R54: a v-register of one lane: 32 data bits and the sticky bit S. -/
structure VReg where
  data : Word
  s : Bool
deriving DecidableEq, Repr

/-- R38: the states of a fragment; `halted` is the group's (see `Group.halt`). -/
inductive FragState where
  | ready | clauseWait | opWait | splitWait | joinWait | barWait | gangBarWait | callWait | memPark
deriving DecidableEq, Repr

/-- What a fragment in op-wait or mem-park waits for, when it is not a lookahead window. -/
inductive Hold where
  | none
  | fetch
  | launch (rd : Nat) (lanes : Mask) (addr : Nat) (record : List Byte) (batch op : Nat)   -- a LAUNCH, its record once it is read, its batch (R202, R254), its place in the issue order (R101)
  | icinv (lo n scope : Nat)
  | ipin (sd lo n : Nat)
  | translate (op : Nat)       -- a load's lanes have not all translated (R164)
  | counter (k : Nat)          -- lc (0), sc (1) or ec (2) at its limit (R62)
  | lag                        -- BCOMMIT at a batch lag of 15 (R254)
  | batch (n : Nat)            -- BWAIT (R255)
  | drain (upto : Nat)         -- a release waits for the operations older than `upto` (R103)
  | fence (upto : Nat)         -- a FENCE waits for them, and nothing younger is performed before it (R104)
  | unit                       -- a matrix instruction waits for the reservation table or a loop (R274, R284)
deriving DecidableEq, Repr

/-- R164: an open lookahead window: the operation it waits for, the instructions it still admits, the pending registers. -/
structure Window where
  op : Nat
  pc : Dword
  left : Nat
  regs : List Nat
deriving DecidableEq, Repr

/-- R39, R68: the call a fragment in call-wait waits for. -/
structure CallWait where
  kind : Nat       -- 1 SYSC, 2 TRAPI
  reg : Nat
  call : Nat
  callers : Mask
  handle : Option Nat
deriving DecidableEq, Repr

/-- R32: a fragment entry of the split table. -/
structure Frag where
  pc : Dword
  hdr : Dword
  inClause : Bool          -- the clause at hdr has begun (R157, R158)
  reread : Bool            -- restored in mid-clause: the clause is read again from hdr (R158)
  words : List Word        -- the clause's words as read (R158)
  mask : Mask
  fmt : Word
  join : Option Nat
  state : FragState
  hold : Hold
  windows : List Window
  replay : Mask            -- nonzero: the instruction at pc is performed only for these lanes (R67)
  stamp : Nat              -- age in the scheduler's order (R51)
  run : Nat                -- clauses issued since it last became youngest (R51)
  call : Option CallWait
deriving DecidableEq, Repr

/-- R32: a join entry of the split table. -/
structure Join where
  rcv : Dword
  savedFmt : Word
  parent : Option Nat
  pending : Nat
deriving DecidableEq, Repr

/-- What has become of one lane's access (R40, R96, R380, R388): `need` until it is performed, `expired` when a
parking timeout ended it. -/
inductive LaneSt where
  | need | done | aborted | expired | poisoned
deriving DecidableEq, Repr

/-- A run of bytes of one line that a lane reads: its virtual address, its length, once translated its physical
address, its treatment (0 T, 1 I, 2 U) and its leaf's L2C, and once read its bytes. For a scratchpad access `va` is the offset. -/
structure Span where
  va : Nat
  len : Nat
  pa : Option Nat
  tr : Nat
  data : Option (List Byte)
  l2c : Bool
deriving DecidableEq, Repr

/-- One lane's access: the byte ranges it reads, or the location of an atomic with its operands. -/
structure LaneAcc where
  lane : Nat
  spans : List Span
  st : LaneSt
  opd : Word
  opdS : Bool
  cmp : Word
  old : Word                    -- an atomic's result
  fl : Byte                     -- flags that the lane's result sets
deriving DecidableEq, Repr

/-- R108: where an atomic is performed. -/
inductive AtomUnit where
  | near | far | scratch
deriving DecidableEq, Repr

/-- What a load writes (R188, R239, R243, R244, R249, R247, R284, R285). -/
inductive LoadKind where
  | scalar (size : Nat) (zext : Bool)
  | typed (sub : Nat)
  | spill
  | mx (code : Nat)
  | scratch (code : Nat)
  | atomic (unit : AtomUnit) (op : Nat)
  | tile (raw : Bool) (sub tile row col : Nat)
deriving DecidableEq, Repr

/-- R62: a load, returning atomic or tile readout that has issued and is not complete. -/
structure LoadOp where
  id : Nat
  frag : Nat
  pc : Dword
  kind : LoadKind
  rd : Nat
  base : Nat
  lanes : List LaneAcc
  fmt : Word
  acq : Option Nat
  rel : Option Nat
  hdr : Dword                   -- header of the clause that holds pc
  window : Nat                  -- its lookahead field (R164)
  opened : Bool                 -- every lane has translated: the fragment has gone on (R164)
  poisonSeq : Option Nat        -- seq of the record of its poisoned lanes, once it is formed (R378)
deriving DecidableEq, Repr

/-- A write of the bits of `mask` of one byte. -/
structure ByteWrite where
  addr : Nat
  mask : Byte
  val : Byte
deriving DecidableEq, Repr

/-- One lane's part of a store-queue entry. -/
structure LaneStore where
  lane : Nat
  writes : List ByteWrite
  st : LaneSt
  opd : Word
  opdS : Bool
  cmp : Word
deriving DecidableEq, Repr

/-- R101, R257: what a store-queue entry does when it is performed. -/
inductive StoreKind where
  | plain
  | push (targets : List Nat)
  | scratch
  | atomic (unit : AtomUnit) (op : Nat)
  | maint (flush : Bool) (scope lo n : Nat)
deriving DecidableEq, Repr

/-- R90: the ownership decision of one frame, held with a translation: shared read-only; PT. -/
structure FrameOwn where
  shared : Bool
  pt : Bool
deriving DecidableEq, Repr

/-- R87, R90: a translation, with the ownership decisions of the frames of its page that accesses have touched, by 64 KiB page
number. DEDUCED: log 38. -/
structure CtbEntry where
  asn : BitVec 16
  vpn : Nat
  level : Nat                   -- level of the leaf: the page's size
  frame : Nat                   -- PA[42:16] of the 64 KiB frame
  r : Bool
  w : Bool
  x : Bool
  tr : Nat                      -- 0 T, 1 I, 2 U
  l2c : Bool
  psh : Bool
  frames : SMap FrameOwn
  tenant : BitVec 12
  priv : Bool                   -- obtained by a service core in S- or M-mode, for no one else
  written : Bool
deriving DecidableEq, Repr

/-- R101, R382: an entry of a group's store queue. -/
structure StoreOp where
  id : Nat
  pc : Dword
  kind : StoreKind
  lanes : List LaneStore
  fmt : Word
  rel : Option Nat
  performed : Bool
  answers : List (Nat × Nat)     -- a push: the (core, line) pairs not yet installed or refused
  homeLines : List Nat           -- a push: lines whose home write is done
  leaves : List (Nat × CtbEntry) -- the translation of each page that has one: nothing is written before all have (R382)
deriving DecidableEq, Repr

/-- R101, R383: a store queue, with the group's identity kept past its retirement. -/
structure StoreQ where
  gid : Nat
  tenant : BitVec 12
  asn : BitVec 16
  grid : Word
  gang : Word
  live : Bool                   -- the group is resident
  saved : Bool                  -- the group is saved; its parked stores wait (R67)
  retIdx : Option Nat           -- its entry in the core's retired-group record
  ents : List StoreOp
deriving DecidableEq, Repr

/-- R251: the six scalars of a copy, and its direction. -/
structure CopyDesc where
  dir : Nat
  dst : Nat
  src : Nat
  e0 : Nat
  e1 : Nat
  e2 : Nat
  ss1 : Int
  ss2 : Int
  ds1 : Int
  ds2 : Int
deriving DecidableEq, Repr

/-- R251, R253: an engine operation of a group. -/
inductive EngKind where
  | copy (d : CopyDesc)
  | fupd (op typ : Nat) (dst src count : Nat) (rm : Nat)
deriving DecidableEq, Repr

/-- R62, R252: an engine operation that has issued and not completed. -/
structure EngOp where
  id : Nat
  pc : Dword
  kind : EngKind
  batch : Nat
  ticket : Option Nat           -- its power grant or request (R309)
  skip : List Nat               -- pages whose writes the service core has performed (emulate-store)
  failed : Option (Nat × Nat × Bool)   -- cause, address, ended by a timeout
deriving DecidableEq, Repr

/-- R375, R302, R378: a group's halt: for a fault (class, cause) or for a save; `posted` once its ring record of kind 4 is. -/
structure Halt where
  cls : Nat
  cause : Nat
  pc : Dword
  save : Bool
  posted : Bool
deriving DecidableEq, Repr

/-- A resident group (02 R26 to R53, 03 R54 to R65). -/
structure Group where
  lanes : Nat
  regs : Nat
  tenant : BitVec 12
  asn : BitVec 16
  grid : Word
  gang : Word
  index : BitVec 4
  depth : BitVec 4
  v : SMap VReg                 -- register r of lane l at key 1024 r + l
  p : SMap Mask                 -- p1 to p7, a bit for each lane
  x : SMap Byte                 -- xk of lane l at key 1024 k + l
  s : SMap Dword
  flags : Byte
  idx : SMap Word
  ob : BitVec 16
  cb : BitVec 16
  batch : SMap Nat              -- outstanding members of each batch (R63, R254)
  frags : SMap Frag
  joins : SMap Join
  loads : List LoadOp
  sq : Nat                      -- its store queue
  engs : List EngOp
  halt : Option Halt
  nextOp : Nat
  stamp : Nat
  instrs : Nat                  -- instructions issued (R303)
  demand : Bool
  seqGiven : Option Nat         -- demand-token: the token it waits for, given when it came to its die (R348)
  saving : Bool                 -- sctxop is writing its image
  stalled : Bool                -- its fault's record waits for a slot (R371)
deriving DecidableEq, Repr

/-! ### Cores and caches (04 R78, R97, R98, 05) -/

/-- R113, R116: the states of an L1 line that is present. -/
inductive LineSt where
  | s | m | v | vp
deriving DecidableEq, Repr

/-- R78: a line of an L1 data cache; `psn` marks the sectors that were poisoned when it was filled (R388), `dirty` the
bytes written since it was granted in M: the ones a write-back writes (R107). -/
structure L1Line where
  st : LineSt
  psn : BitVec 4
  dirty : BitVec 128
  data : List Byte
deriving DecidableEq, Repr

/-- R113, R119: a fill that is pending: the loads (group, operation) that wait on it, and the newest number of an
invalidation, grant or push that the cache has taken meanwhile. -/
structure Miss where
  waiters : List (Nat × Nat)
  inval : Option Word
  since : Nat                   -- the die's clock at the request (R374)
deriving DecidableEq, Repr

/-- An L1 data cache: of a SIMT core (index 0 to 3 of its cluster) or of the service core (index 4). -/
structure Cache where
  lines : SMap L1Line           -- by line number PA / 128
  miss : SMap Miss              -- fills pending at home
  charge : SMap Nat             -- unconsumed lines: the source cluster each is charged to (R123)
deriving DecidableEq, Repr

/-- R383: an entry of the retired-group record. -/
structure RetEnt where
  gid : Nat
  tenant : BitVec 12
  grid : Word
  gang : Word
  serial : Nat
deriving DecidableEq, Repr

/-- A SIMT core (01 R15). -/
structure Core where
  icache : SMap (List Byte)     -- L1 instruction lines by PA / 128 (R97, R98)
  pins : List Nat
  refusals : Word               -- R124
  retired : List RetEnt         -- R383, newest last
  retSerial : Nat
  turn : Option (Nat × Nat)     -- the group and fragment whose clause is issuing (R51)
  pass : SMap Nat               -- stride pass of each tenant that competes; at key 4096 the virtual time of the last choice (R51)
deriving DecidableEq, Repr

/-! ### Clusters (01 R14) -/

/-- R72: how a placed grant's bytes came to be: zero filled, or undefined (by placement). -/
structure ScratchFill where
  lo : Nat
  hi : Nat
  junk : Option Nat
deriving DecidableEq, Repr

/-- R47: a gang's grant in a cluster. -/
structure Grant where
  grid : Word
  gang : Word
  base : Nat
  size : Nat
deriving DecidableEq, Repr

/-- R66: an entry of an accumulator tile. -/
structure TEntry where
  acc : BitVec 96
  s : Bool
  v : Bool
deriving DecidableEq, Repr

/-- R66: an accumulator tile: its header and its entries, (i, j) at key 128 i + j. -/
structure Tile where
  ae : BitVec 16
  ovf : Bool
  ferr : Bool
  ents : SMap TEntry
deriving DecidableEq, Repr

/-- R271: the operations of the reservation table. -/
inductive ResKind where
  | mcfg | mzero | mldw | mloop
deriving DecidableEq, Repr

/-- R277, R286: the state of a table entry. -/
inductive ResSt where
  | queued | running | held | suspended
deriving DecidableEq, Repr

/-- The scratchpad's contents at a moment: what a loop or its staging may still read (R276, R282). -/
structure Snap where
  scratch : SMap Byte
  fills : List ScratchFill
deriving DecidableEq, Repr

/-- R282: planes staged by an MLDW: its group, its descriptor, and the scratchpad it read. -/
structure Staged where
  gid : Nat
  desc : List Dword
  snap : Snap
deriving DecidableEq, Repr

/-- R271 to R278: an entry of the reservation table. -/
structure ResOp where
  gid : Nat
  id : Nat
  pc : Dword
  kind : ResKind
  tile : Nat
  tiles : Byte                  -- its tile set
  args : List Dword             -- MLOOP, MLDW: the seven scalars with dfl resolved; MZERO: sa; MCFG: sa, sb
  done : Nat
  st : ResSt
  ticket : Option Nat           -- its power grant or request (R309)
  batch : Nat
  passed : Nat                  -- times passed over while eligible (R274)
  after : Option (Nat × Nat)    -- a loop: the MRESUME that queued it again: its group and its place in the issue order (R99)
  abandon : Bool                -- abandoned at the end of the current K-step (R288)
  snap : Option Snap            -- the scratchpad at its first K-step's grant (R276)
  stg : Option Snap             -- the staging its step 0 uses (R282)
deriving DecidableEq, Repr

/-- R316: a record in a call ring. -/
structure RingRec where
  off : Nat
  size : Nat
  kind : Nat
  handle : Nat
  taken : Bool
  retired : Bool
deriving DecidableEq, Repr

/-- R315, R327: a ring slot. -/
structure RingSlot where
  tenant : BitVec 12
  weight : Byte
  size : BitVec 3
  base : Word
  wpos : Nat                    -- where the next record goes
  recs : List RingRec           -- oldest first, pad records included
  budget : Nat
deriving DecidableEq, Repr

/-- R316: a record that waits for ring space or for an enabled slot. -/
structure WaitRec where
  tenant : BitVec 12
  kind : Nat
  handle : Nat
  bytes : List Byte
deriving DecidableEq, Repr

/-- R317 to R319: what a live handle stands for. -/
structure Handle where
  kind : Nat
  gid : Nat
  frag : Nat
  entry : Nat                   -- kind 3: the quag entry
  callers : Mask
  staged : Mask
  held : List Mask              -- resumptions held for want of an entry (R39)
  resumed : Mask                -- callers that have resumed (R318)
deriving DecidableEq, Repr

/-- R329: a message: header and payload. -/
structure Msg where
  hdr : Dword
  body : List Dword
deriving DecidableEq, Repr

/-- R310: the modes of a service core. -/
inductive Mode where
  | m | s | u
deriving DecidableEq, Repr

/-- A service core: the Maelem CSRs (R313) and the RISC-V side (R310 to R314). -/
structure Svc where
  sdroot : Dword
  intake : Dword
  scsel : Dword
  ringSel : Nat
  sqsel : Dword
  sqbuf : List Dword            -- doublewords written since the last write of sqsel (R325)
  ctbPending : Bool
  smsgdst : Dword
  msgBuild : List Dword
  sendAccepted : Bool
  sendStalled : Option Msg      -- a stalled write of smsgsend (R329)
  stallClock : Nat
  rcv : List (MsgEnd × Msg)     -- the receive queue, oldest first
  msg : Dword                   -- header of the message taken
  msgRest : List Dword
  sbten : Nat
  budgetPendingSince : Option Nat
  sctxa : Dword
  sctxop : BitVec 2
  sctxGid : Gid
  lastSlot : Nat
  periodStart : Nat
  chargedAt : Nat               -- the clock up to which the charged slot's budget has been counted down (R327)
  floodSlots : List Nat         -- handles of the records that waited for ring space at the period's start (R411)
  mode : Mode
  pc : Dword
  x : SMap Dword
  f : SMap Dword                -- f0 to f31 (R310)
  fcsr : Byte                   -- rounding mode and flags of F and D (R310)
  running : Bool                -- it executes the instruction at pc (R331)
  accs : List Instr             -- the access that waits for its line; later actions wait for it (R126, R319, R330)
  sie : Dword
  scause : Dword
  stval : Dword
  sepc : Dword
  stvec : Dword
  resv : Option Nat             -- the line of a load-reserve (R126)
  csrs : SMap Dword             -- the other CSRs of the Privileged Architecture (R310)
  icache : SMap (List Byte)
deriving DecidableEq, Repr

/-- R306: what is awaited at an identity: a group of a restored gang, and whether its service core has been told. -/
structure Awaited where
  grid : Nat
  gang : Nat
  index : Nat
  reported : Bool
deriving DecidableEq, Repr

/-- A cluster. -/
structure Cluster where
  scratch : SMap Byte
  fills : List ScratchFill
  spoison : List Nat            -- poisoned scratchpad words (R387)
  grants : List Grant
  tiles : SMap Tile
  table : List ResOp            -- reservation table, in table order
  staged : List Staged
  ctb : List CtbEntry
  filter : SMap (BitVec 5)      -- holders of each T line (R112)
  rings : SMap RingSlot
  waiting : List WaitRec
  handles : SMap Handle
  nextHandle : Nat
  restored : SMap Awaited       -- identities that restored gangs await (R306)
  svc : Svc
  out : Bool                    -- out of service (R409)
  perf : SMap Nat               -- performance counter of each array half (R262, R345)
deriving DecidableEq, Repr

/-! ### Dies -/

/-- R94: the states of a quag entry. -/
inductive QuagSt where
  | parked | scrubWait | rewalk
deriving DecidableEq, Repr

/-- R92 to R96: a quag entry. -/
structure Quag where
  st : QuagSt
  asn : BitVec 16
  vpn : Nat
  cluster : Nat
  tenant : BitVec 12
  va : Nat
  gid : Nat
  kind : Nat
  access : Nat
  level : Nat
  clock : Nat
  pc : Dword
  members : List (MemRef × Nat) -- the accesses, each with its page
  lines : SMap (List Dword)     -- lines supplied for emulate-load (R325)
  frame : Nat                   -- scrub-wait: the frame whose ownership entry is read again
deriving DecidableEq, Repr

/-- R96: how an access without a translation was answered: lines supplied for its page, its store performed for it, or
ended, by a timeout or not. -/
inductive Answer where
  | lines (m : SMap (List Dword))
  | ended (timed : Bool)
deriving DecidableEq, Repr

/-- An answer that an access of a fetch, an engine or a distributor has yet to take. -/
structure Answered where
  who : MemRef
  vpn : Nat
  ans : Answer
deriving DecidableEq, Repr

/-- R92, R412: an access that waits in the walk queue for quag room. -/
structure WalkWait where
  cluster : Nat
  asn : BitVec 16
  vpn : Nat
  who : MemRef
deriving DecidableEq, Repr

/-- R112: an entry of a home directory: die mask, and for each line of the region the die holding it in M. -/
structure HomeEnt where
  dies : BitVec 64
  m : SMap Nat
deriving DecidableEq, Repr

/-- R114: an ownership request or fill that waits at home for its acknowledgements. -/
structure HomeTxn where
  line : Nat
  cache : Nat
  own : Bool
  acks : List Nat               -- caches whose acknowledgement is awaited
  since : Nat                   -- the home's clock at the request (R374)
deriving DecidableEq, Repr

/-- R366: an error record. -/
structure ErrRec where
  seq : Nat
  sev : Nat
  cls : Nat
  cause : Nat
  flags : Nat
  tenant : Nat
  clock : Nat
  gid : Nat
  unit : Nat
  pc : Nat
  addr : Nat
  detail : Nat
deriving DecidableEq, Repr

/-- The fragment whose instruction is issuing. -/
structure Cur where
  gid : Nat
  frag : Nat
deriving DecidableEq, Repr

/-- A move: who issues, the instruction or event, and whether it is the next of the outside agents' actions. DESIGN CHOICE: log 31. -/
structure Move where
  cur : Option Cur
  instr : Instr
  input : Bool
deriving DecidableEq, Repr

/-- R371: a record that waits for its slot, and what it stalls: the halt of a group (identity, call and pc), or a move. -/
structure HeldRec where
  r : ErrRec
  halt : Option (Nat × Nat × Nat)
  move : Option Move
deriving DecidableEq, Repr

/-- R371: a record that has been formed, and the stalled move that raised it and has still to run. -/
structure Credit where
  r : ErrRec
  move : Move
deriving DecidableEq, Repr

/-- R429: a suppression interval: key (class, cause, item), its start and the occurrences counted since. -/
structure Rate where
  key : Nat × Nat × Nat
  start : Nat
  count : Nat
deriving DecidableEq, Repr

/-- R294: a bound queue. -/
structure QBind where
  base : Nat
  dies : BitVec 64
  asn : BitVec 16
  tenant : BitVec 12
  size : Nat
  preemptible : Bool
  prio : Nat
  head : Option Nat             -- none until the ring has first been read
  record : List Byte            -- the record at head, once it is read (R291)
deriving DecidableEq, Repr

/-- R297: a die's ticket counter for a grid. -/
structure Ticket where
  rank : Nat
  c : Nat
  h : Nat
  front : List Nat              -- gang indices returned by a flush (R304)
  tried : List Nat              -- peers that refused (R298)
  stealing : Bool
deriving DecidableEq, Repr

/-- R299: the part of a placement in one cluster: the base of the grant there, and the groups: index and identity. -/
structure Place where
  cluster : Nat
  base : Nat
  groups : List (Nat × Nat)
deriving DecidableEq, Repr

/-- R299: a placement over several dies on its way: the peers that have reserved their part, and those that have
committed it. -/
structure Pending where
  grid : Nat
  gang : Nat
  tmask : Byte
  places : List Place
  reserved : List Nat
  committed : List Nat
deriving DecidableEq, Repr

/-- R292: the completion word of a rejected record, still to be written, with what an aborted write records. -/
structure Rej where
  cluster : Nat
  asn : BitVec 16
  tenant : BitVec 12
  gid : Nat
  va : Nat
  word : Dword
  detail : Nat
deriving DecidableEq, Repr

/-- R405: a journal entry the distributor has written. -/
structure JEnt where
  typ : Nat
  queue : Nat
  v32 : Nat
  v64 : Nat
deriving DecidableEq, Repr

/-- R343: a tenant switch in progress. -/
structure Switch where
  tout : Nat
  tin : Nat
  cores : Dword
  halves : Word
  list : Nat
  n : Nat
  gangs : List (Nat × Nat)      -- gangs whose saves are awaited
  freed : List (Nat × Nat × Nat × Byte)   -- cluster, base and size of each grant freed, and the tiles (R345)
  dies : BitVec 64              -- dies that take part in the same scrub (R346)
  closed : Bool                 -- one of them has formed its token: no other die joins
deriving DecidableEq, Repr

/-- R344: a scrub command. -/
structure Scrub where
  boot : Bool                   -- the boot scrub, whose list is one entry of the die's own (R346)
  tout : Nat
  tin : Nat
  dies : BitVec 64
  closed : Bool
  cores : Dword
  halves : Word
  list : Nat
  n : Nat
  freed : List (Nat × Nat × Nat × Byte)
deriving DecidableEq, Repr

/-- R405: the state of a distributor that its checkpoint covers, with the jseq it is stamped with. -/
structure Ckpt where
  jseq : Nat
  binds : SMap QBind
  kick : BitVec 1024
  slots : List (Nat × Nat)
  accepted : Nat
  tickets : SMap Ticket
  tokens : List (Nat × Nat)
  grids : List Nat              -- the live grids it has accepted
deriving DecidableEq, Repr

/-- R407: an event held for an adopter: one in flight, or the retirement of a gang. -/
inductive HeldEv where
  | event (i : Instr)
  | gangEnd (grid gang : Nat)
deriving DecidableEq, Repr

/-- R293 to R309, R404 to R407: a die's distributor. -/
structure Dist where
  alive : Bool
  disabled : Bool               -- distributor-disable set by its adopter (R406)
  adopter : Option Nat          -- the die that serves for it
  adopting : List Nat
  binds : SMap QBind
  kick : BitVec 1024
  slots : List (Nat × Nat)      -- slots in use with their queues, at most 64, in rotation order
  accepted : Nat                -- grids accepted, for identifiers (R292)
  tickets : SMap Ticket
  tokens : List (Nat × Nat)     -- tickets taken and not yet placed: grid, gang
  pending : List Pending        -- R299: placements over several dies on their way
  restores : List (Nat × Nat)   -- R306: saved gangs that wait for room: grid and gang
  blocked : List (Nat × Nat)    -- R304: grid and cluster of a drain, whose room no gang of the grid takes
  held : List HeldEv            -- events held for an adopter (R407)
  jseq : Nat
  journal : List JEnt           -- entries since the last checkpoint
  ckpt : Option Ckpt            -- the last checkpoint (R405)
  beat : Nat                    -- clock of its last heartbeat
  seen : SMap Nat               -- clock at which a neighbour's heartbeat was last seen
  switch : Option Switch
  waits : SMap Nat              -- clock since which a gang of a queue's record waits for room, by grid (R303)
deriving DecidableEq, Repr

/-- R391: one link direction's permits. -/
structure Permits where
  counts : Nat × Nat            -- permits and slots as the last audit that differed found them
  draining : Option Nat         -- the clock at which a drain began
deriving DecidableEq, Repr

/-- R308, R309: the die power controller. -/
structure Power where
  cap : Nat
  units : Nat
  held : List (Nat × Nat)       -- ticket, cost
  queue : List (Nat × Nat)      -- ticket, cost, oldest first
  next : Nat
  overSince : Option Nat        -- since when the reading is above the limit (R401)
deriving DecidableEq, Repr

/-- A compute die. -/
structure Die where
  clockBase : Nat               -- the module step at the die's reset (R20)
  errctl : Dword
  rreq : Dword
  fence : Dword
  shut : BitVec 4               -- boundaries closed because the parts differ (R416)
  qtmo : Dword
  auditctl : Dword
  mhealth : Dword
  fwctl : Dword
  fmode : Dword
  mmodeReq : BitVec 16
  mmodeCur : BitVec 16
  lcfg : Dword
  tcfg : SMap Dword
  shares : SMap Byte
  seq : Nat                     -- error records formed (R368)
  dropped : Nat
  undelivered : SMap Nat        -- slots with paths still to take their record: [0] message, [1] host
  heldRecs : List HeldRec       -- records that wait for their slot (R371)
  credits : List Credit         -- records formed before their operation could go on (R371)
  rates : List Rate
  quag : SMap Quag
  walkQ : List WalkWait
  tcache : SMap Nat             -- MTU table-entry cache (R87): entry by asn · 2^43 + its physical address
  l2 : SMap (List Nat)          -- R79: the lines in each set of a slice's bank, at most 8
  dieDir : SMap (BitVec 16)     -- R112: cluster mask of each region
  home : SMap HomeEnt
  homeSeq : Word
  txns : List HomeTxn
  power : Power
  dist : Dist
  scrub : Option Scrub
  tokSeq : Nat
  tokens : List Nat             -- tokens formed and not yet signed
  signed : List Nat             -- sequence numbers marked signed
  tokAsk : SMap Nat             -- clock of the first request to the host for a delegated signature (R351)
  tokTries : SMap Nat
  firstSeq : SMap Nat           -- R348: the token each tenant took at its first instruction
  staging : SMap Byte           -- signing staging (R351)
  permits : SMap Permits        -- by direction (R391)
  audited : SMap (Nat × Bool)   -- each direction: clock of its last audit, and whether that marker still travels (R391, R392)
  watch : List (Instr × Nat)    -- requests across its boundaries, with the clock since when it times them (R374)
  report : List Byte            -- the last attestation report (R350)
  started : Bool                -- the distributor's firmware is released (R331)
deriving DecidableEq, Repr

/-! ### Grids and gangs (02, 12) -/

/-- R289: a kernel descriptor. -/
structure KDesc where
  entry : Dword
  lanes : Nat
  regs : Nat
  groups : Nat
  cls : Nat
  tiles : Nat
  idem : Bool
  zero : Bool
  scratch : Nat
  fmt : Word
  wi : Nat
  wk : Nat
deriving DecidableEq, Repr

/-- The life of a gang (R299, R302 to R306, R403). -/
inductive GangSt where
  | placed | draining | halting | halted | saved | restoring
deriving DecidableEq, Repr

/-- Why a gang halts. -/
inductive HaltWhy where
  | none | save | flush | switch | abort
deriving DecidableEq, Repr

/-- A gang of a grid (R45 to R47, R299). -/
structure Gang where
  st : GangSt
  why : HaltWhy
  groups : List (Option Nat)    -- the packed identity of each group; none once it retired or is saved
  retired : BitVec 16           -- groups whose lanes have all exited
  places : List (Nat × Nat × BitVec 16)   -- clusters held: cluster, base of the grant, mask of groups
  tmask : Byte
  bgen : BitVec 16
  barr : BitVec 16
  dieMsgs : BitVec 64           -- R43: dies whose arrival message the root die holds
  relWait : BitVec 16           -- groups the root die has released whose release message is on its way
  root : Nat
  haltClock : SMap Nat          -- by die: its counter when the halt began (R20)
  since : Nat                   -- clock at which a drain began
  instrs : Nat
  ksteps : Nat
  childGrids : List Nat         -- live grids launched by its groups
  saves : List Nat              -- groups whose images are written and that are not restored
deriving DecidableEq, Repr

/-- A live grid (R48 to R50, R290 to R292). -/
structure Grid where
  desc : KDesc
  e0 : Nat
  e1 : Nat
  e2 : Nat
  args : List Dword
  tenant : BitVec 12
  asn : BitVec 16
  depth : Nat
  die : Nat                     -- accepting die
  dies : List Nat
  doneVa : Nat
  demand : Bool
  queue : Option (Nat × Bool × Nat)  -- queue number, preemptible, priority
  parent : Option (Nat × Nat × Nat)  -- launching grid, gang, group identity
  batch : Option (Nat × Nat)    -- the launching group's index in its gang, and the batch (R203)
  gangs : SMap Gang
  retiredGangs : Nat
  children : Nat
  aborted : Bool
  completing : Bool             -- the completion word's write is parked or due
deriving DecidableEq, Repr

/-! ### Storage, network and hosts (13 R332 to R334, 14 R352 to R356) -/

/-- R332: the I/O commands. -/
inductive NvmeOp where
  | read | write | flush | writeZeroes | deallocate
deriving DecidableEq, Repr

/-- R333: the part of a file call that one command carries out: the bytes of a file at an offset, and the caller's buffer. -/
structure FileJob where
  file : Nat
  off : Nat
  len : Nat
  asn : BitVec 16
  va : Nat
deriving DecidableEq, Repr

/-- R332: an outstanding command. -/
structure NvmeCmd where
  cid : Nat
  core : Nat
  op : NvmeOp
  nsid : Nat
  lba : Nat
  n : Nat
  prps : List Nat
  fua : Bool
  clock : Nat
  status : Option NvmeStatus    -- how it ended, once it has been executed
  job : Option FileJob          -- what it does for a file call
  covers : List (Nat × Nat)     -- a Flush: the files it covers, with the writes that each had reported (R418)
deriving DecidableEq, Repr

/-- R332, R333, R417 to R419: an NVMe controller. -/
structure Nvme where
  enabled : Bool
  ready : Bool
  cfs : Bool
  out : Bool
  resetClock : Nat
  spaces : SMap (Nat × Bool)    -- namespace: blocks, attached
  media : SMap (List Byte)      -- durable blocks, by namespace · 2^40 + LBA
  cache : SMap (List Byte)      -- the volatile write cache
  cmds : List NvmeCmd
  cqs : List Nat                -- service cores with an I/O completion queue
  queues : List Nat             -- service cores with an I/O queue pair
  completions : List (Nat × Nat × NvmeStatus)  -- service core, command, status, oldest first
  features : SMap Nat
  async : Nat
  admin : List (Word × NvmeStatus)  -- admin completions not yet taken: dword 0 and status, oldest first
deriving DecidableEq, Repr

/-- R334, R420: an Ethernet port. -/
structure Port where
  up : Bool
  steer : SMap Nat              -- 4,096 entries: a service core each
  badSteer : List Nat           -- entries already recorded (R420 cause 0x03)
  rx : SMap (List (List Byte))  -- receive queues by service core
  tx : List (List Byte)         -- frames sent
  fcsErrors : Nat
deriving DecidableEq, Repr

/-- R352 to R354: a Lode link. -/
structure Link where
  up : Bool
  outstanding : List Nat        -- tags of transactions the module has outstanding
  retries : Nat
  fails : Nat                   -- failed trainings in a row
  responses : List (Nat × Nat × List Byte)  -- tag, status, data
  records : SMap (Nat × Nat)    -- by tag: die and slot of an error record sent and not yet acknowledged (R371)
deriving DecidableEq, Repr

/-- R370, R351, R356: an event sent to a host over a link. -/
inductive HostEvent where
  | record (die slot link : Nat) (bytes : List Byte)
  | signing (die seq : Nat)
  | ring (cluster handle : Nat)
  | fault (die entry : Nat)
  | kick (die : Nat)
deriving DecidableEq, Repr

/-- R322: an open file of Peat. DESIGN CHOICE: log 26. -/
structure FileEnt where
  tenant : Nat
  path : List Byte
  data : List Byte              -- the bytes as calls read them
  durable : List Byte           -- the bytes a power loss leaves
  cut : Option (List Byte)      -- those it would leave had a truncation that is still on its way been carried out
  ctl : Nat
  reported : Nat                -- writes that have reported (R333)
  flushed : Nat                 -- of those, the ones that a completed Flush covers (R418)
  writeErr : Bool               -- R418
deriving DecidableEq, Repr

/-- R322: a descriptor. -/
inductive FdEnt where
  | file (tenant id flags : Nat)
  | sock (tenant family kind port owner : Nat) (reset : Bool) (rx : List Byte)   -- its owner: the service core of the shard that serves it (R334)
deriving DecidableEq, Repr

/-- What a caller's lane waits for: a grid, commands of a controller, or the transmission of a descriptor's frame. -/
inductive WaitOn where
  | grid (id : Nat)
  | cmds (ctl : Nat) (left : List Nat) (err : Bool) (value : Nat) (file : Option Nat)   -- and the file of a write that is not durable once it reports
  | frame (id : Nat) (value : Nat)
deriving DecidableEq, Repr

/-- R320, R322: a lane of a call that Peat serves, by the group's place in its gang, and its result once it has one. -/
structure PeatWait where
  grid : Nat
  gang : Nat
  index : Nat
  lane : Nat
  on : WaitOn
  res : Option Dword
deriving DecidableEq, Repr

/-- R322 to R326: what the spec gives the multikernel. -/
structure Peat where
  quota : SMap Nat              -- blocks left, by tenant · 16 + class, once a call has changed them (log 44)
  run : SMap Nat                -- next free block address, likewise
  blocks : SMap Nat             -- class + 1 of each allocated block, by tenant · 2^64 + address
  maps : List (Nat × Nat × Nat × Nat)   -- asn, first page, pages, protection
  handlers : SMap (Nat × Nat)   -- by asn: kinds, kernel descriptor address
  files : SMap FileEnt
  fds : SMap FdEnt
  waits : List PeatWait
  handlerGrids : List (Nat × Nat × Nat × Nat)   -- handler grid, its die and quag entry, and when that access parked (R326)
  completions : SMap Dword      -- completion words of retired grids Peat has seen
deriving DecidableEq, Repr

/-- The module. -/
structure State where
  mem : List Host.Cell
  poison : List Nat
  groups : SMap Group
  queues : SMap StoreQ
  nextQueue : Nat
  cores : SMap Core
  caches : SMap Cache
  clusters : SMap Cluster
  dies : SMap Die
  grids : SMap Grid
  rejections : SMap Rej
  answers : List Answered
  nvme : SMap Nvme
  ports : SMap Port
  links : SMap Link
  peat : Peat
  hostOut : List HostEvent
  hostWait : List (Nat × HostEvent)      -- events of a die that wait for a link (R423)
  chans : List (MsgEnd × MsgEnd × Msg)   -- messages in flight, oldest first (R329, R330)
  boot : Nat
  cur : Option Cur
  moving : Option Move                   -- the move at hand
  formed : List (Nat × HeldRec × Bool)   -- the records that the move at hand has formed: die, record, whether it is held (R371)
  due : List Instr
  inputs : List Instr
  tick : Nat
  fresh : Nat
deriving DecidableEq, Repr

/-! ### Reset (00 R6, and the reset column of each map) -/

/-- R54: a v-register at admission. -/
def VReg.zero : VReg := ⟨0, false⟩

/-- R66: a tile entry at reset, and after MZERO. -/
def TEntry.zero : TEntry := ⟨0, false, false⟩

/-- R66: a tile at reset. -/
def Tile.reset : Tile := ⟨0, false, false, []⟩

/-- R78, R113: an empty cache. -/
def Cache.reset : Cache := ⟨[], [], []⟩

/-- A core at reset. -/
def Core.reset : Core := ⟨[], [], 0, [], 0, none, []⟩

/-- R315: a ring slot at reset: disabled. -/
def RingSlot.reset : RingSlot := ⟨0, 0, 0, 0, 0, [], 0⟩

/-- R313: a service core at reset. PRESUMED: log 4. -/
def Svc.reset : Svc :=
  { sdroot := 0, intake := 0, scsel := 0, ringSel := 0, sqsel := 0, sqbuf := [], ctbPending := false, smsgdst := 0,
    msgBuild := [], sendAccepted := false, sendStalled := none, stallClock := 0, rcv := [], msg := 0, msgRest := [],
    sbten := 0, budgetPendingSince := none, sctxa := 0, sctxop := 0, sctxGid := 0, lastSlot := 15, periodStart := 0,
    chargedAt := 0, floodSlots := [], mode := .m, pc := 0, x := [], f := [], fcsr := 0, running := false,
    accs := [], sie := 0, scause := 0, stval := 0, sepc := 0, stvec := 0,
    resv := none, csrs := [], icache := [] }

/-- A cluster at reset; its first handle is 1 (DESIGN CHOICE, log 4). -/
def Cluster.reset : Cluster :=
  { scratch := [], fills := [], spoison := [], grants := [], tiles := [], table := [], staged := [], ctb := [],
    filter := [], rings := [], waiting := [], handles := [], nextHandle := 1, restored := [], svc := Svc.reset,
    out := false, perf := [] }

/-- R293 to R297: a distributor at reset. -/
def Dist.reset : Dist :=
  { alive := true, disabled := false, adopter := none, adopting := [], binds := [], kick := 0, slots := [],
    accepted := 0, tickets := [], tokens := [], pending := [], restores := [], blocked := [], held := [], jseq := 0, journal := [], ckpt := none, beat := 0,
    seen := [], switch := none, waits := [] }

/-- R369: the lowest-numbered neighbour of die d in the 8 × 8 mesh (R11). -/
def lowNeighbour (d : Nat) : Nat :=
  if 8 ≤ d then d - 8 else if d % 8 ≠ 0 then d - 1 else d + 1

/-- A die at reset, with the reset columns of its registers' maps; the first power ticket and the home's first sequence number
are 1 (DESIGN CHOICE, log 4). -/
def Die.reset (d : Nat) : Die :=
  { clockBase := 0
    errctl := BitVec.ofNat 64 (1 * 2 ^ 54 + 16 * lowNeighbour d * 2 ^ 32 + 16 * d)
    rreq := 0, fence := 0, shut := 0
    qtmo := BitVec.ofNat 64 (2 ^ 63 + 0x5000)
    auditctl := BitVec.ofNat 64 (2 ^ 63 + 0x10 * 2 ^ 32)
    mhealth := 0, fwctl := 0, fmode := 0, mmodeReq := 0, mmodeCur := 0
    lcfg := if d ≤ 6 || (57 ≤ d && d ≤ 63) then BitVec.ofNat 64 (2 * 2 ^ 58) else 0
    tcfg := [], shares := [], seq := 0, dropped := 0, undelivered := [], heldRecs := [], credits := [], rates := [], quag := [],
    walkQ := [], tcache := [], l2 := [], dieDir := [], home := [], homeSeq := 0, txns := [],
    power := { cap := 96, units := 0, held := [], queue := [], next := 1, overSince := none }
    dist := Dist.reset, scrub := none, tokSeq := 0, tokens := [], signed := [], tokAsk := [], tokTries := [],
    firstSeq := [], staging := [], permits := [], audited := [], watch := [], report := [], started := false }

/-- R22: blocks of 4,096 bytes behind a controller, 7.68 TB. -/
def ctlBlocks : Nat := 1875000000

/-- R332: a controller at reset: namespace 1 holds all its blocks (DESIGN CHOICE, log 10). -/
def Nvme.reset : Nvme :=
  { enabled := false, ready := false, cfs := false, out := false, resetClock := 0, spaces := [(1, ctlBlocks, true)], media := [],
    cache := [], cmds := [], cqs := [], queues := [], completions := [], features := [], async := 0, admin := [] }

/-- R334: a port at reset; its link comes up with PORT_LINK_UP. -/
def Port.reset : Port := ⟨false, [], [], [], [], 0⟩

/-- R352, R353: an untrained link. -/
def Link.reset : Link := ⟨false, [], 0, 0, [], []⟩

/-- R322: Peat before it starts. -/
def Peat.reset : Peat := ⟨[], [], [], [], [], [], [], [], [], []⟩

/-- The module right after module reset (R89, R331): every register at its reset value, nothing resident, the
boot ROM of die 0 about to run stage 1. -/
def State.reset : State :=
  { mem := [], poison := [], groups := [], queues := [], nextQueue := 1, cores := [], caches := [], clusters := [],
    dies := [], grids := [], rejections := [], answers := [], nvme := [], ports := [], links := [], peat := Peat.reset, hostOut := [], hostWait := [], chans := [],
    boot := 0, cur := none, moving := none, formed := [], due := [.bootStage1 true true ⟨true, true⟩], inputs := [], tick := 0, fresh := 0 }

end Sys2Proof.Machine
end

