-- ==== Sys2Proof/Machine/Ops.lean ====
section
/-!
DEFINITION. The named operations every meaning is built from: time, physical memory, access to the parts of the
state, error records and ring records, taking an exception, and the issue of an instruction.
-/

namespace Sys2Proof.Machine

/-- What a meaning answers. -/
abbrev Out := Host.Outcome State Fault Refusal

/-! ### Identifiers (R18, R19) -/

/-- R17, R19: the global core of a packed group identity, of 4,096. -/
def gidCore (gid : Nat) : Nat := gid / 64
/-- R17, R19: its global cluster, of 1,024: each has a matrix engine and a service core. -/
def gidCluster (gid : Nat) : Nat := gid / 256
/-- R17, R19: its die, of 64: each has a distributor. -/
def gidDie (gid : Nat) : Nat := gid / 4096
/-- R19: its slot. -/
def gidSlot (gid : Nat) : Nat := gid % 64

/-- The L1 data cache of a global core: caches are keyed 5 · cluster + index, index 4 being the service core's. -/
def cacheOfCore (core : Nat) : Nat := 5 * (core / 4) + core % 4
/-- The data cache of a service core (R117). -/
def cacheOfSvc (c : Nat) : Nat := 5 * c + 4

/-! ### Masks (R29) -/

/-- The lanes of a mask below `n`, in ascending order (R8). -/
def lanesOf (m : Mask) (n : Nat) : List Nat := (List.range n).filter fun l => m.getLsbD l

/-- The mask of a list of lanes. -/
def maskOf (ls : List Nat) : Mask := ls.foldl (fun m l => m ||| BitVec.twoPow 1024 l) 0

/-- The lowest lane of a mask, 1,024 if it is empty. -/
def lowestLane (m : Mask) : Nat := ((List.range 1024).find? fun l => m.getLsbD l).getD 1024

/-- R29: bit k of the mask summary is 1 exactly when mask word k is nonzero. -/
def msum (m : Mask) : Word :=
  (List.range 32).foldl (fun w k => if (m.extractLsb' (32 * k) 32) = 0 then w else w ||| BitVec.twoPow 32 k) 0

/-! ### Parts of the state -/

namespace State

/-- A die. -/
def die (s : State) (d : Nat) : Die := s.dies.get (Die.reset d) d
def putDie (s : State) (d : Nat) (x : Die) : State := { s with dies := s.dies.put d x }
def modDie (s : State) (d : Nat) (f : Die → Die) : State := s.putDie d (f (s.die d))

/-- A cluster. -/
def cluster (s : State) (c : Nat) : Cluster := s.clusters.get Cluster.reset c
def putCluster (s : State) (c : Nat) (x : Cluster) : State := { s with clusters := s.clusters.put c x }
def modCluster (s : State) (c : Nat) (f : Cluster → Cluster) : State := s.putCluster c (f (s.cluster c))

/-- A service core. -/
def svc (s : State) (c : Nat) : Svc := (s.cluster c).svc
def modSvc (s : State) (c : Nat) (f : Svc → Svc) : State := s.modCluster c fun x => { x with svc := f x.svc }

/-- A SIMT core. -/
def core (s : State) (k : Nat) : Core := s.cores.get Core.reset k
def putCore (s : State) (k : Nat) (x : Core) : State := { s with cores := s.cores.put k x }
def modCore (s : State) (k : Nat) (f : Core → Core) : State := s.putCore k (f (s.core k))

/-- An L1 data cache. -/
def cache (s : State) (k : Nat) : Cache := s.caches.get Cache.reset k
def putCache (s : State) (k : Nat) (x : Cache) : State := { s with caches := s.caches.put k x }
def modCache (s : State) (k : Nat) (f : Cache → Cache) : State := s.putCache k (f (s.cache k))

/-- A resident group. -/
def group? (s : State) (g : Nat) : Option Group := s.groups.find g
def putGroup (s : State) (g : Nat) (x : Group) : State := { s with groups := s.groups.put g x }
def modGroup (s : State) (g : Nat) (f : Group → Group) : State :=
  match s.group? g with
  | some x => s.putGroup g (f x)
  | none => s

/-- A store queue. -/
def queue? (s : State) (q : Nat) : Option StoreQ := s.queues.find q
def putQueue (s : State) (q : Nat) (x : StoreQ) : State := { s with queues := s.queues.put q x }
def modQueue (s : State) (q : Nat) (f : StoreQ → StoreQ) : State :=
  match s.queue? q with
  | some x => s.putQueue q (f x)
  | none => s

/-- A live grid, and a gang of it. -/
def grid? (s : State) (g : Nat) : Option Grid := s.grids.find g
def putGrid (s : State) (g : Nat) (x : Grid) : State := { s with grids := s.grids.put g x }
def modGrid (s : State) (g : Nat) (f : Grid → Grid) : State :=
  match s.grid? g with
  | some x => s.putGrid g (f x)
  | none => s
def gang? (s : State) (grid gang : Nat) : Option Gang := (s.grid? grid).bind fun g => g.gangs.find gang
def modGang (s : State) (grid gang : Nat) (f : Gang → Gang) : State :=
  s.modGrid grid fun g =>
    match g.gangs.find gang with
    | some x => { g with gangs := g.gangs.put gang (f x) }
    | none => g

/-- An event set going; an event already in flight stays one event. -/
def addDue (s : State) (e : Instr) : State := if e ∈ s.due then s else { s with due := s.due ++ [e] }
/-- An event that has happened, or no longer can. -/
def dropDue (s : State) (e : Instr) : State := { s with due := s.due.erase e }

/-- A number no step has used before. -/
def nextFresh (s : State) : Nat × State := (s.fresh, { s with fresh := s.fresh + 1 })

end State

/-! ### Time (R20) -/

/-- The cycles that a die's clock has advanced in the first `t` steps. -/
def elapsedSum (d : Nat) : Nat → Nat
  | 0 => 0
  | t + 1 => elapsedSum d t + Config.elapsed d t + if (t + 1) % (Config.perCycle + 1) = 0 then 1 else 0

/-- R20: a die's cycle counter, before its wrap modulo 2^64. -/
def State.clock (s : State) (d : Nat) : Nat := elapsedSum d s.tick - elapsedSum d (s.die d).clockBase

/-! ### Physical memory (R2, R74, R89) -/

/-- R74: the die that a physical address names, and the offset in its window. -/
def paDie (pa : Nat) : Nat := pa / 2 ^ 37
def paOff (pa : Nat) : Nat := pa % 2 ^ 37

/-- R17, R74: the offsets backed by HBM4 end here; the hole follows. -/
def hbmBytes : Nat := 128000000000
/-- R74: whether a physical address lies in a hole. -/
def inHole (pa : Nat) : Bool := decide (hbmBytes ≤ paOff pa)
/-- R74: frames of a die. -/
def dieFrames : Nat := 1953125

/-- R74, R347, R351: the offsets of the firmware area whose frames are shared read-only: the token log and the
delegation certificate. -/
def sharedFirmware (off : Nat) : Bool :=
  decide (0x04000000 ≤ off) && decide (off < 0x04210000)

/-- R89: the ownership state that module reset gives frame `f` of a die: firmware, shared read-only or scrub-pending. -/
def resetOwnState (f : Nat) : Nat :=
  if f < 2048 then (if sharedFirmware (f * 65536) then 3 else 4) else 2

/-- R77: the home channel of an address within its die, and with it the L2 slice; its stack; its bank; R79: its set. -/
def homeChannel (pa : Nat) : Nat := 4 * (pa / 2 ^ 16 % 16) + pa / 2 ^ 7 % 4
def homeStack (pa : Nat) : Nat := homeChannel pa / 32
def homeBank (pa : Nat) : Nat := pa / 2 ^ 9 % 16
def homeSet (pa : Nat) : Nat := 8 * (pa / 2 ^ 20 % 8) + pa / 2 ^ 13 % 8

/-- R17, R79: the set of a line among the 64 slices of its die, of 16 banks of 64 sets. -/
def l2Set (line : Nat) : Nat := (homeChannel (128 * line) * 16 + homeBank (128 * line)) * 64 + homeSet (128 * line)

/-- R75: the offsets of a die's register frames. -/
def regFrame (off : Nat) : Bool := off / 65536 ∈ [0x200, 0x300, 0x430, 0x580]

/-- What an unlisted byte of memory reads as (DESIGN CHOICE, log 2): 0, but for the ownership table, which reads as module reset
leaves it (R89). -/
def memDefault (pa : Nat) : Byte :=
  if paOff pa < 8 * dieFrames ∧ paOff pa % 8 = 1 then BitVec.ofNat 8 (resetOwnState (paOff pa / 8) * 16) else 0

/-- The canonical form of memory: addresses strictly rising, no entry equal to what an unlisted address reads as. -/
abbrev Memory.wf (m : List Host.Cell) : Bool := SMap.wf memDefault m

/-- One byte of physical memory. -/
def State.readByte (s : State) (pa : Nat) : Byte := SMap.get (memDefault pa) s.mem pa
def State.writeByte (s : State) (pa : Nat) (b : Byte) : State := { s with mem := SMap.set (memDefault pa) s.mem pa b }

/-- Bytes from `pa` up. -/
def State.readBytes (s : State) (pa : Nat) : Nat → List Byte
  | 0 => []
  | n + 1 => s.readByte pa :: s.readBytes (pa + 1) n
def State.writeBytes (s : State) (pa : Nat) : List Byte → State
  | [] => s
  | b :: bs => (s.writeByte pa b).writeBytes (pa + 1) bs

/-- R2: the little-endian value of a list of bytes. -/
def leNat : List Byte → Nat
  | [] => 0
  | b :: bs => b.toNat + 256 * leNat bs

/-- R2: the `n` low bytes of a value, lowest first. -/
def leBytes : Nat → Nat → List Byte
  | 0, _ => []
  | n + 1, v => BitVec.ofNat 8 v :: leBytes n (v / 256)

/-- A little-endian value of `n` bytes in memory. -/
def State.readNat (s : State) (pa n : Nat) : Nat := leNat (s.readBytes pa n)
def State.writeNat (s : State) (pa n v : Nat) : State := s.writeBytes pa (leBytes n v)

/-- R388: whether one write covers a sector wholly. -/
def coversSector (ws : List (Nat × Byte)) (k : Nat) : Bool := (List.range 32).all fun i => ws.any fun w => w.1 == 32 * k + i

/-- The bytes of a line after the writes that fall in it. -/
def patchBytes (line : Nat) (data : List Byte) (ws : List (Nat × Byte)) : List Byte :=
  ws.foldl (fun d w => if w.1 / 128 = line then d.set (w.1 % 128) w.2 else d) data

/-- A write of bytes into a cached copy of a line, made at home. -/
def L1Line.patch (l : L1Line) (line : Nat) (ws : List (Nat × Byte)) : L1Line :=
  { l with data := patchBytes line l.data ws
           psn := [0, 1, 2, 3].foldl (fun m i => if coversSector ws (4 * line + i) then m &&& ~~~(BitVec.twoPow 4 i) else m) l.psn }

/-- A write of bytes into a line held in M: a write-back writes them. -/
def L1Line.store (l : L1Line) (line : Nat) (ws : List (Nat × Byte)) : L1Line :=
  { l.patch line ws with dirty := ws.foldl (fun m w => if w.1 / 128 = line then m ||| BitVec.twoPow 128 (w.1 % 128) else m) l.dirty }

/-- A line on its way to a cache takes the bytes of a write at its home (R107). -/
def patchFlight (ws : List (Nat × Byte)) (i : Instr) : Instr :=
  match i with
  | .fillGrantReceived cache line m seq data => .fillGrantReceived cache line m seq (patchBytes line data ws)
  | .pushDelivery q op core line src t refuse data => .pushDelivery q op core line src t refuse (patchBytes line data ws)
  | i => i

/-- R126: reservations of service cores on the lines that `hit` names end. -/
def State.breakResv (s : State) (hit : Nat → Nat → Bool) : State :=
  { s with clusters := s.clusters.map fun (e : Nat × Cluster) =>
      match e.2.svc.resv with
      | some l => if hit e.1 l then (e.1, { e.2 with svc := { e.2.svc with resv := none } }) else e
      | none => e }

/-- R388: bytes written at home; a sector that one write covers wholly loses its mark. -/
def State.writeHome (s : State) (ws : List (Nat × Byte)) : State :=
  let s := s.breakResv fun _ l => ws.any fun w => w.1 / 128 == l
  let s := ws.foldl (fun s w => s.writeByte w.1 w.2) s
  if s.poison.isEmpty then s else { s with poison := s.poison.filter fun k => !coversSector ws k }

/-- A write by a block of the die at its memory (the logs, the journal, the MTU's D bits): every cached copy of its
bytes, and every copy on its way to a cache, takes them. -/
def State.deviceWrite (s : State) (pa : Nat) (bs : List Byte) : State :=
  let ws := bs.zipIdx.map fun e => (pa + e.2, e.1)
  let lines := (ws.map fun w => w.1 / 128).eraseDups
  let s := s.writeHome ws
  { s with
    due := s.due.map (patchFlight ws)
    caches := s.caches.map fun (e : Nat × Cache) =>
      if lines.any fun l => e.2.lines.has l then
        (e.1, { e.2 with lines := e.2.lines.map fun (q : Nat × L1Line) => if q.1 ∈ lines then (q.1, q.2.patch q.1 ws) else q })
      else e }

/-- R79: a line enters its set in L2; a full set gives one up (DESIGN CHOICE, log 5). -/
def Die.l2Put (x : Die) (line k : Nat) : Die :=
  let ls := x.l2.get [] (l2Set line)
  if line ∈ ls then x else
  let ls := if ls.length < 8 then ls else ls.eraseIdx (Config.victim k % 8)
  { x with l2 := x.l2.put (l2Set line) (ls ++ [line]) }

/-- R79: an access at home through a leaf with L2C = 1 leaves its line in L2. -/
def State.l2Use (s : State) (line : Nat) (l2c : Bool) : State :=
  if l2c then { s.modDie (paDie (128 * line)) fun x => x.l2Put line s.fresh with fresh := s.fresh + 1 } else s

/-- Zero every byte from `lo` up to `hi` (R345). -/
def State.zeroRange (s : State) (lo hi : Nat) : State := { s with mem := SMap.dropRange s.mem lo hi }

/-! ### Scratchpad (R72) -/

/-- A byte at an absolute offset of a cluster's scratchpad: what was written; else what the last fill that
covers it left: zero, or after placement without zero fill a free value (R72; DESIGN CHOICE, log 3). -/
def Cluster.sbyte (c : Cluster) (off : Nat) : Byte :=
  match c.scratch.find off with
  | some b => b
  | none =>
    match c.fills.find? fun f => decide (f.lo ≤ off) && decide (off < f.hi) with
    | some ⟨_, _, some j⟩ => Config.scratchJunk j off
    | _ => 0

def Cluster.setSbyte (c : Cluster) (off : Nat) (b : Byte) : Cluster := { c with scratch := c.scratch.put off b }

def Cluster.sbytes (c : Cluster) (off : Nat) : Nat → List Byte
  | 0 => []
  | n + 1 => c.sbyte off :: c.sbytes (off + 1) n
def Cluster.setSbytes (c : Cluster) (off : Nat) : List Byte → Cluster
  | [] => c
  | b :: bs => (c.setSbyte off b).setSbytes (off + 1) bs

/-- A range of the scratchpad takes a fill: zero, or undefined contents (R72). -/
def Cluster.fill (c : Cluster) (lo hi : Nat) (junk : Option Nat) : Cluster :=
  { c with scratch := c.scratch.dropRange lo hi
           fills := ⟨lo, hi, junk⟩ :: c.fills.filter (fun f => !(decide (lo ≤ f.lo) && decide (f.hi ≤ hi)))
           spoison := c.spoison.filter fun w => !(decide (lo ≤ 4 * w) && decide (4 * w < hi)) }

/-- R47: a gang's grant in a cluster: base and size; (0, 0) where it holds none. -/
def Cluster.grantOf (c : Cluster) (grid gang : Word) : Nat × Nat :=
  match c.grants.find? fun g => g.grid == grid && g.gang == gang with
  | some g => (g.base, g.size)
  | none => (0, 0)

/-! ### Error records (R364 to R371, R429) -/

/-- R367: the unit word of a record. -/
def unitOf (kind index : Nat) : Nat := kind * 2 ^ 28 + index % 65536

/-- R77, R367: the L2 slice, and the HBM4 stack, of a physical address. -/
def l2Unit (pa : Nat) : Nat := unitOf 5 (64 * paDie pa + homeChannel pa)
def hbmUnit (pa : Nat) : Nat := unitOf 6 (2 * paDie pa + homeStack pa)

/-- R366: where slot `seq mod 4,096` of a die's log lies. -/
def logSlot (d seq : Nat) : Nat := d * 2 ^ 37 + 0x05000000 + 64 * (seq % 4096)

/-- R366: bytes 0x00 to 0x37 of a record. -/
def ErrRec.bytes (r : ErrRec) (d : Nat) : List Byte :=
  leBytes 1 1 ++ leBytes 1 r.sev ++ leBytes 1 r.cls ++ leBytes 1 r.cause ++ leBytes 1 d ++ leBytes 1 r.flags
    ++ leBytes 2 r.tenant ++ leBytes 8 r.seq ++ leBytes 8 r.clock ++ leBytes 4 r.gid ++ leBytes 4 r.unit
    ++ leBytes 8 r.pc ++ leBytes 8 r.addr ++ leBytes 8 r.detail

/-- R369: fields of errctl. -/
def Die.hen (x : Die) : Bool := x.errctl.getLsbD 63
def Die.hlink (x : Die) : Nat := (x.errctl.extractLsb' 56 4).toNat
def Die.hsev (x : Die) : Nat := (x.errctl.extractLsb' 54 2).toNat
def Die.msev (x : Die) : Nat := (x.errctl.extractLsb' 52 2).toNat
def Die.errAlt (x : Die) : Nat := (x.errctl.extractLsb' 32 10).toNat
def Die.errSc (x : Die) : Nat := (x.errctl.extractLsb' 0 10).toNat

/-- R11: the die that neighbour direction 0 to 3 (−dx, +dx, −dy, +dy) leads to, if there is one. -/
def neighbour (d dir : Nat) : Option Nat :=
  match dir with
  | 0 => if d % 8 = 0 then none else some (d - 1)
  | 1 => if d % 8 = 7 then none else some (d + 1)
  | 2 => if d < 8 then none else some (d - 8)
  | _ => if 56 ≤ d then none else some (d + 8)

/-- R12: the direction of the next hop from die a towards die b: along dx, then along dy. -/
def hopDir (a b : Nat) : Nat :=
  if a % 8 < b % 8 then 1 else if b % 8 < a % 8 then 0 else if a < b then 3 else 2

/-- R24, R353: the die that Lode link n terminates on: links 0 to 6 on dies 0 to 6, links 7 to 13 on dies 57 to 63. -/
def linkDie (n : Nat) : Nat := if n < 7 then n else 50 + n

/-- R336: fields of fwctl: the partition a die belongs to and its closed boundaries. -/
def Die.part (x : Die) : Nat := (x.fwctl.extractLsb' 8 6).toNat
def Die.closed (x : Die) (dir : Nat) : Bool := x.fwctl.getLsbD dir || x.fence.getLsbD dir || x.shut.getLsbD dir

/-- R12: the boundaries on the route from die a to die b, each as the die before it, its direction and the die behind it; `n` bounds
the hops. -/
def routeIn : Nat → Nat → Nat → List (Nat × Nat × Nat)
  | 0, _, _ => []
  | n + 1, a, b =>
    if a = b then [] else
    match neighbour a (hopDir a b) with
    | none => []
    | some c => (a, hopDir a b, c) :: routeIn n c b
def route (a b : Nat) : List (Nat × Nat × Nat) := routeIn 14 a b

/-- R338, R373, R416: the first boundary on the route from die a to die b that is closed or fenced: the die that holds it closed,
its direction there, and whether that is the far side, which discards what arrives. -/
def State.block (s : State) (a b : Nat) : Option (Nat × Nat × Bool) :=
  (route a b).findSome? fun h =>
    if (s.die h.1).closed h.2.1 then some (h.1, h.2.1, false)
    else if (s.die h.2.2).closed (h.2.1 ^^^ 1) then some (h.2.2, h.2.1 ^^^ 1, true)
    else none

/-- R12: a message from die a gets to die b; a request does, and its response gets back by its own route. -/
def State.sends (s : State) (a b : Nat) : Bool := (s.block a b).isNone
def State.reach (s : State) (a b : Nat) : Bool := s.sends a b && s.sends b a

/-- R338: both dies belong to one partition. -/
def State.samePart (s : State) (a b : Nat) : Bool := decide ((s.die a).part = (s.die b).part)

/-- The lowest-numbered enabled Lode link of a die's partition that is up (R351, R356, R423). -/
def State.hostLink (s : State) (d : Nat) : Option Nat :=
  (List.range 14).find? fun n =>
    (s.links.get Link.reset n).up && (s.die (linkDie n)).lcfg.getLsbD 63 && s.samePart d (linkDie n)

/-- R371: the paths that must take a record. -/
def Die.paths (x : Die) (r : ErrRec) : Nat :=
  (if x.msev ≤ r.sev then 1 else 0) + (if x.hen && decide (x.hsev ≤ r.sev) && decide (x.hlink ≤ 13) then 2 else 0)

/-- R338: the dies share a partition, and requests and responses pass between them. -/
def State.linked (s : State) (a b : Nat) : Bool := s.samePart a b && s.reach a b

/-- R12: an event that is a message on its way from one die to another: its class of traffic, the die it left and the die it goes
to. The spec names no classes: each kind of message is one (DESIGN CHOICE, log 55). -/
def State.flow (s : State) (i : Instr) : Option (Nat × Nat × Nat) :=
  let root := fun (grid gang : Word) => ((s.gang? grid.toNat gang.toNat).map fun x => x.root).getD 0
  match i with
  | .pushDelivery _ _ core _ src _ _ _ => some (0, src.toNat / 16, core.toNat / 64)
  | .fillGrantReceived cache line _ _ _ => some (1, paDie (128 * line), cache / 80)
  | .invalidationReceived cache line _ => some (2, paDie (128 * line), cache / 80)
  | .recallReceived cache line _ => some (3, paDie (128 * line), cache / 80)
  | .stealRequest die _ thief => some (4, thief.toNat, die.toNat)
  | .stealReply die _ peer _ _ _ => some (5, peer.toNat, die.toNat)
  | .gangBarrierArrivalMessage grid gang die => some (6, die.toNat, root grid gang)
  | .gangBarrierReleaseMessage grid gang die => some (7, root grid gang, die.toNat)
  | .placementReservation peer die _ _ _ => some (8, die.toNat, peer.toNat)
  | _ => none

/-- R12: the events that may come next, in the order they were sent: of each class from one die to another, the oldest. -/
def State.inOrder (s : State) : List (Nat × Nat × Nat) → List Instr → List Instr
  | _, [] => []
  | seen, i :: is =>
    match s.flow i with
    | some (k, a, b) => if a ≠ b ∧ (k, a, b) ∈ seen then s.inOrder seen is else i :: s.inOrder ((k, a, b) :: seen) is
    | none => i :: s.inOrder seen is

/-- R391: a direction of a link is drained: it sends nothing new. -/
def State.draining (s : State) (d key : Nat) : Bool := (((s.die d).permits.find key).bind fun p => p.draining).isSome

/-- R391: a route crosses the boundary of die d in a direction. -/
def crosses (d dir a b : Nat) : Bool := (route a b).any fun h => h.1 == d && h.2.1 == dir

/-- R391: the transactions outstanding that a boundary direction passes: messages on their way, and requests that wait at their home
for its acknowledgements. -/
def State.crossing (s : State) (d dir : Nat) : Nat :=
  (s.due.filter fun i => (s.flow i).any fun f => crosses d dir f.2.1 f.2.2).length
    + (s.dies.map fun e => (e.2.txns.filter fun t => crosses d dir (t.cache / 80) e.1).length).sum

/-- R391: die a sends die b nothing new: a boundary on the way is drained, or has no permit left. The number of permits is not the
spec's (log 18). -/
def State.heldBack (s : State) (a b : Nat) : Bool :=
  (route a b).any fun h => s.draining h.1 h.2.1 || decide (Config.boundaryPermits < s.crossing h.1 h.2.1)

/-- A byte as a block of the die reads it: that of a copy held in M, else that at home (R80). -/
def State.deviceByte (s : State) (pa : Nat) : Byte :=
  match s.caches.findSome? fun (e : Nat × Cache) => (e.2.lines.find (pa / 128)).bind fun (l : L1Line) =>
      if l.st = .m && s.linked (paDie pa) (e.1 / 80) then some l else none with
  | some l => l.data.getD (pa % 128) 0
  | none => s.readByte pa

/-- Bytes, and a little-endian value, as a block of the die reads them. -/
def State.deviceBytes (s : State) (pa n : Nat) : List Byte := (List.range n).map fun i => s.deviceByte (pa + i)
def State.deviceNat (s : State) (pa n : Nat) : Nat := leNat (s.deviceBytes pa n)

/-- R370: the message that carries a record: its header and its 56 bytes. -/
def recordMsg (d : Nat) (bs : List Byte) : Msg :=
  ⟨BitVec.ofNat 64 (0xEE * 2 ^ 40 + 7 * 2 ^ 32 + 1024 + d), (List.range 7).map fun i => BitVec.ofNat 64 (leNat ((bs.drop (8 * i)).take 8))⟩

/-- R370: a message in flight that carries a record of a die; its slot in the die's log. -/
def recordOf (e : MsgEnd × MsgEnd × Msg) : Option (Nat × Nat) :=
  match e.1 with
  | .dist d => if e.2.2.hdr.extractLsb' 40 8 = 0xEE then some (d.toNat, ((e.2.2.body.getD 1 0).toNat % 4096)) else none
  | .svc _ => none

/-- R366, R370, R371: the record's bytes go into its slot, commit last, and it sets out on its paths; a record that was still on
its way from that slot is lost. DEDUCED: log 33. -/
def State.writeRecord (s : State) (d : Nat) (r : ErrRec) : State :=
  let x := s.die d
  let p := x.paths r
  let s := s.deviceWrite (logSlot d r.seq) (r.bytes d ++ leBytes 8 r.seq)
  let s := s.modDie d fun x => { x with undelivered := x.undelivered.set 0 (r.seq % 4096) p }
  let out := fun (host : Bool) => Instr.errorRecordDelivered (BitVec.ofNat 6 d) (BitVec.ofNat 12 (r.seq % 4096)) host
  let s := (s.dropDue (out false)).dropDue (out true)
  let s := { s with
    chans := s.chans.filter fun e => recordOf e != some (d, r.seq % 4096)
    links := s.links.map fun e => (e.1, { e.2 with records := e.2.records.filter fun a => a.2 != (d, r.seq % 4096) }) }
  let c := if r.sev = 3 then x.errAlt else x.errSc
  let s := if p % 2 = 1 then
    { s with chans := s.chans ++ [(MsgEnd.dist (BitVec.ofNat 6 d), MsgEnd.svc (BitVec.ofNat 10 c), recordMsg d (r.bytes d))] }.addDue (out false) else s
  if 2 ≤ p then s.addDue (out true) else s

/-- The live grids of a tenant that run on a die. -/
def State.tenantGrids (s : State) (tenant d : Nat) : List Nat :=
  (s.grids.filter fun e => decide (e.2.tenant.toNat = tenant) && decide (d ∈ e.2.dies)).map (·.1)

/-- R402: the live grids of a tenant that have a gang on a die. -/
def State.gangGrids (s : State) (tenant d : Nat) : List Nat :=
  (s.grids.filter fun e => decide (e.2.tenant.toNat = tenant) && e.2.gangs.any fun x => x.2.places.any fun p => p.1 / 16 == d).map (·.1)

/-- R364: the grids that a record of severity 2 names. -/
def State.fatalGrids (s : State) (d : Nat) (r : ErrRec) : List Nat :=
  if r.cls = 0x13 ∧ r.cause = 3 then s.gangGrids r.tenant d else s.tenantGrids r.tenant d

/-- R364, R373: what a severity brings with it: the tenant's grids on the die are aborted with status 4, or the
replace request is set and the die is fenced. -/
def State.severity (s : State) (d : Nat) (r : ErrRec) : State :=
  if r.sev = 2 then
    (s.fatalGrids d r).foldl (fun s g => s.addDue (.gridAbort (BitVec.ofNat 6 d) (BitVec.ofNat 32 g))) s
  else if r.sev = 3 then
    let s := s.modDie d fun x =>
      { x with rreq := x.rreq ||| BitVec.twoPow 64 48 ||| (if x.rreq.getLsbD 63 then 0
                        else BitVec.twoPow 64 63 ||| BitVec.ofNat 64 (r.seq % 2 ^ 48)) }
    if r.flags / 16 % 2 = 1 then s else s.addDue (.dieFence (BitVec.ofNat 6 d))
  else s

/-- R371: the record that a move of die d has formed before it was stalled, if it is this one but for seq and clock. -/
def State.credit (s : State) (d : Nat) (r : ErrRec) : Option Credit :=
  s.moving.bind fun m => (s.die d).credits.find? fun c => decide (c.move = m) && decide ({ c.r with seq := r.seq, clock := r.clock } = r)

/-- R365 to R368, R371: a die forms a record. `r.seq`, `r.clock` are filled in here. A corrected record whose slot is
still undelivered is dropped; one of severity 1 or 2 is held until the slot is delivered, and with it what it brings
about, the halt of a group among it; one of severity 3 is written over it. Whether it is held is answered too.
DEDUCED: log 33. -/
def State.formRecord (s : State) (d : Nat) (r : ErrRec) (halt : Option (Nat × Nat × Nat)) (move : Option Move) : Bool × State :=
  match s.credit d r with
  | some c => (false, s.modDie d fun x => { x with credits := x.credits.erase c })
  | none =>
    let x := s.die d
    let r := { r with seq := x.seq + 1, clock := s.clock d % 2 ^ 64 }
    let s := s.modDie d fun x => { x with seq := x.seq + 1 }
    let busy := x.undelivered.has (r.seq % 4096)
    let holds := busy && decide (1 ≤ r.sev) && decide (r.sev ≤ 2)
    let h : HeldRec := { r := r, halt := halt, move := move }
    let s := { s with formed := s.formed ++ [(d, h, holds)] }
    (holds,
      if holds then s.modDie d fun x => { x with heldRecs := x.heldRecs ++ [h] }
      else if busy && r.sev == 0 then s.modDie d fun x => { x with dropped := min (x.dropped + 1) 0xFFFF }
      else (s.writeRecord d r).severity d r)

/-- A record of something that halts no group. -/
def State.record (s : State) (d : Nat) (r : ErrRec) : State := (s.formRecord d r none none).2

/-- A record with its fields, before the die adds seq and clock; `flags[3]` is set when addr is nonzero. -/
def mkRec (sev cls cause flags tenant gid unit pc addr detail : Nat) : ErrRec :=
  { seq := 0, sev := sev, cls := cls, cause := cause, flags := flags, tenant := tenant, clock := 0, gid := gid,
    unit := unit, pc := pc, addr := addr, detail := detail }

/-- R429: the end of an interval that opened at a clock: of class 0x21 the end of the budget period (R327), else 2^20 cycles on. -/
def rateEnd (cls start : Nat) : Nat := if cls = 0x21 then (start / 850000 + 1) * 850000 else start + 2 ^ 20

/-- R429: a cause recorded at most once in an interval; `mk` makes the record from the count of occurrences. DEDUCED: log 33. -/
def State.rated (s : State) (d : Nat) (key : Nat × Nat × Nat) (mk : Nat → ErrRec) : State :=
  let x := s.die d
  let now := s.clock d
  match x.rates.find? fun r => r.key == key with
  | some r =>
    if now < rateEnd key.1 r.start then
      s.modDie d fun x => { x with rates := x.rates.map fun q => if q.key == key then { q with count := q.count + 1 } else q }
    else
      (s.modDie d fun x => { x with rates := x.rates.map fun q => if q.key == key then ⟨key, now, 0⟩ else q }).record d
        (mk (r.count + 1))
  | none => (s.modDie d fun x => { x with rates := x.rates ++ [⟨key, now, 0⟩] }).record d (mk 1)

/-- R416, R429: a record of class 0x23 at a boundary of die d. -/
def State.boundaryRecord (s : State) (d dir cause : Nat) : State :=
  s.rated d (0x23, cause, 4 * d + dir) fun n => mkRec 1 0x23 cause 0 0 0 (unitOf 9 (4 * d + dir)) 0 0 n

/-- R338, R416, R429: what die a does not send to die b, or die b's answer to it, is recorded at the closed boundary: not sent
where the near side is closed, discarded on arrival where only the far side is. -/
def State.notSent (s : State) (a b : Nat) : State :=
  match (s.block a b).orElse fun _ => s.block b a with
  | some (d, dir, far) => s.boundaryRecord d dir (if far then 2 else 1)
  | none => s

/-- R338, R416: an access of die a to die b that the walk ended with fault kind 4: it is recorded where a closed boundary is why. -/
def State.notWalked (s : State) (a b : Nat) : State := if s.linked a b then s else s.notSent a b

/-! ### Call rings (R315 to R317) -/

/-- R315: bytes of a ring. -/
def RingSlot.bytes (r : RingSlot) : Nat := 2 ^ (15 + r.size.toNat)

/-- R315: room a record of `n` bytes needs at the write position, and the room there is; in a ring that holds no record
the pads are reclaimed as soon as they are written. -/
def RingSlot.need (r : RingSlot) (n : Nat) : Nat := if r.wpos + n ≤ r.bytes then n else r.bytes - r.wpos + n
def RingSlot.room (r : RingSlot) : Nat :=
  match r.recs with
  | [] => r.bytes
  | q :: _ => (q.off + r.bytes - r.wpos) % r.bytes
def RingSlot.fits (r : RingSlot) (n : Nat) : Bool := if r.recs.isEmpty then decide (n ≤ r.bytes) else decide (r.need n ≤ r.room)

/-- R315: space is reclaimed in ring order, as far as the oldest unretired record; one that retired before it was taken, its group
saved, is reclaimed with it and never taken (DESIGN CHOICE, log 50). -/
def RingSlot.reclaim (r : RingSlot) : RingSlot := { r with recs := r.recs.dropWhile fun q => q.retired }

/-- R315: the pad records that fill `n` bytes from offset `off`, each at most 65,472 bytes; fuel bounds their number. -/
def padRecs : Nat → Nat → Nat → List RingRec
  | 0, _, _ => []
  | k + 1, off, n =>
    if n = 0 then [] else
    let m := min n 65472
    ⟨off, m, 0, 0, true, true⟩ :: padRecs k (off + m) (n - m)

/-- R316: a record's bytes, its size a multiple of 64; the clock field is filled in when it is written to its ring. -/
def ringBytes (kind wkind gid pc call tenant ncall value : Nat) (rest : List Byte) : List Byte :=
  let size := (64 + rest.length + 63) / 64 * 64
  leBytes 1 kind ++ leBytes 1 wkind ++ leBytes 2 size ++ leBytes 4 gid ++ leBytes 8 pc ++ leBytes 4 call
    ++ leBytes 2 tenant ++ leBytes 2 ncall ++ leBytes 8 value ++ List.replicate 32 0
    ++ rest ++ List.replicate (size - 64 - rest.length) 0

/-- R316: a ring record with the clock at which it is written. -/
def stampClock (bs : List Byte) (now : Nat) : List Byte := bs.take 32 ++ leBytes 8 now ++ bs.drop 40

/-- R315: the pads that stand before a record of `n` bytes which would cross the ring's end. -/
def RingSlot.pads (r : RingSlot) (n : Nat) : List RingRec := if r.wpos + n ≤ r.bytes then [] else padRecs 64 r.wpos (r.bytes - r.wpos)

/-- R315: put a record at the write position of slot `k`, after pads where it would cross the end. -/
def Cluster.placeRec (c : Cluster) (k : Nat) (w : WaitRec) (now : Nat) : Cluster :=
  let r := c.rings.get RingSlot.reset k
  let n := w.bytes.length
  let pads := r.pads n
  let c := pads.foldl (fun c p => c.setSbytes (r.base.toNat + p.off) (stampClock (ringBytes 0 0 0 0 0 0 0 0 [] |>.set 2 (BitVec.ofNat 8 p.size)
              |>.set 3 (BitVec.ofNat 8 (p.size / 256))) now)) c
  let at' := if r.wpos + n ≤ r.bytes then r.wpos else 0
  let c := c.setSbytes (r.base.toNat + at') (stampClock w.bytes now)
  let r := { r with wpos := (at' + n) % r.bytes, recs := r.recs ++ pads ++ [⟨at', n, w.kind, w.handle, false, false⟩] }
  { c with rings := c.rings.put k r }

/-- R315: the enabled slot that serves a tenant. -/
def Cluster.slotOf (c : Cluster) (tenant : BitVec 12) : Option Nat :=
  (List.range 16).find? fun k =>
    let r := c.rings.get RingSlot.reset k
    decide (r.weight ≠ 0) && r.tenant == tenant

/-- R315: write the waiting records that now fit, oldest first for each tenant. -/
def Cluster.drainRings (c : Cluster) (now : Nat) : Cluster :=
  let go := c.waiting.foldl (fun (st : Cluster × List WaitRec) w =>
    let c := st.1
    if st.2.any fun v => v.tenant == w.tenant then (c, st.2 ++ [w]) else
    match c.slotOf w.tenant with
    | some k =>
      let r := (c.rings.get RingSlot.reset k).reclaim
      if r.fits w.bytes.length then ({ c with rings := c.rings.put k r }.placeRec k w now, st.2)
      else (c, st.2 ++ [w])
    | none => (c, st.2 ++ [w])) (c, [])
  { go.1 with waiting := go.2 }

/-- R317: a handle that names no live record. -/
def Cluster.freeHandle (c : Cluster) : Nat :=
  ((List.range 65535).find? fun i => !c.handles.has ((c.nextHandle - 1 + i) % 65535 + 1)).elim 0
    fun i => (c.nextHandle - 1 + i) % 65535 + 1

/-- R354: a transaction of the module takes a tag, one of the 8,192 permits of its direction, until its response comes. -/
def Link.spend (x : Link) : Option Link :=
  if 8192 ≤ x.outstanding.length then none
  else ((List.range 8192).find? fun t => decide (t ∉ x.outstanding)).map fun t => { x with outstanding := x.outstanding ++ [t] }

/-- R354, R370, R371, R391: an event leaves on a link, if the link is up, is not drained and a permit is to be had; of an error
record the link's acknowledgement is awaited under the event's tag. DEDUCED: log 29. -/
def State.sendOn (s : State) (n : Nat) (e : HostEvent) : Option State :=
  let x := s.links.get Link.reset n
  if x.up && !s.draining (linkDie n) (4 + n) then
    x.spend.map fun y =>
      let y := match e with
        | .record die slot _ _ => { y with records := y.records.put (y.outstanding.getLastD 0) (die, slot) }
        | _ => y
      { s with links := s.links.put n y, hostOut := s.hostOut ++ [e] }
  else none

/-- R356, R423: an event of a host-assisted function of die d goes to the host, or waits for a link and a permit. -/
def State.tellHost (s : State) (d : Nat) (e : HostEvent) : State :=
  if s.hostWait.any fun w => w.1 == d then { s with hostWait := s.hostWait ++ [(d, e)] }
  else ((s.hostLink d).bind fun n => s.sendOn n e).getD { s with hostWait := s.hostWait ++ [(d, e)] }

/-- R423: a link has come up or has a permit again: the events that waited leave, in their order. -/
def State.flushHost (s : State) : State :=
  s.hostWait.foldl (fun s w => s.tellHost w.1 w.2) { s with hostWait := [] }

/-- R356: a ring record of a file call: a SYSC, or a restored call, with one of the numbers of R322's file calls. -/
def fileCall (kind : Nat) (bytes : List Byte) : Bool :=
  let n := leNat ((bytes.drop 16).take 4)
  (kind == 1 || (kind == 5 && bytes.getD 1 0 == 1)) && decide (6 ≤ n) && decide (n ≤ 10)

/-- R316, R317, R356: post a record, with a handle of its own, in its tenant's ring; it waits where it does not fit. Under
host-assisted calls the host is told of it, and under host-assisted storage of a file call. -/
def State.postRing (s : State) (c : Nat) (tenant : BitVec 12) (h : Handle) (bytes : List Byte) : Nat × State :=
  let x := s.cluster c
  let n := x.freeHandle
  let w : WaitRec := ⟨tenant, h.kind, n, bytes⟩
  let x : Cluster := { x with handles := x.handles.put n h, nextHandle := n % 65535 + 1, waiting := x.waiting ++ [w] }
  let s := s.putCluster c (x.drainRings (s.clock (c / 16)))
  let mode := (s.die (c / 16)).fmode
  (n, if mode.getLsbD 4 || (mode.getLsbD 5 && fileCall h.kind bytes) then s.tellHost (c / 16) (.ring c n) else s)

/-! ### Taking an exception (R375, R376, R378) -/

/-- A precise fault: its class and cause, and the fields of its record (R377). -/
structure Exc where
  cls : Nat
  cause : Nat
  pc : Nat
  addr : Nat
  detail : Nat
deriving DecidableEq, Repr

/-- R309: a request joins the die's queue; its ticket. -/
def State.askPower (s : State) (d cost : Nat) : Nat × State :=
  let n := (s.die d).power.next
  (n, (s.modDie d fun x => { x with power := { x.power with next := n + 1, queue := x.power.queue ++ [(n, cost)] } }).addDue
    (.powerGrant (BitVec.ofNat 6 d)))

/-- R309: whether an operation that asked holds its grant; one that needs none goes ahead. -/
def State.powered (s : State) (d : Nat) (ticket : Option Nat) : Bool :=
  match ticket with
  | none => true
  | some t => (s.die d).power.held.any fun h => h.1 == t

/-- R309: an operation completes, stops or is abandoned: a request not yet granted is withdrawn, a grant is released. -/
def State.endPower (s : State) (d : Nat) (ticket : Option Nat) : State :=
  match ticket with
  | none => s
  | some t =>
    if s.powered d (some t) then s.addDue (.powerRelease (BitVec.ofNat 6 d) t)
    else s.modDie d fun x => { x with power := { x.power with queue := x.power.queue.filter fun q => q.1 != t } }

/-! ### The stop of a group's matrix operations (R277, R278) -/

/-- R277, R278: at a halt the group's MLDW operations complete and their staging goes; its queued loops stop: suspended
by a save, held otherwise; one that a save finds before its first step stays queued (R362). A K-step that runs
completes first. What the loop may still read of the past ends with it (R276). -/
def State.stopEngine (s : State) (gid : Nat) (save : Bool) : State :=
  let c := gidCluster gid
  let x := s.cluster c
  let stops := fun (r : ResOp) => r.gid == gid && r.kind == .mloop && r.st == .queued
  let s := (x.table.filter stops).foldl (fun s r => s.endPower (gidDie gid) r.ticket) s
  s.modCluster c fun x =>
    { x with staged := x.staged.filter fun e => e.gid != gid
             table := (x.table.filter fun r => !(r.gid == gid && r.kind == .mldw)).map fun r =>
               if stops r then
                 { r with st := if !save then .held else if r.done = 0 ∧ r.snap = none then .queued else .suspended, ticket := none, snap := none }
               else r }

/-- R367: the unit of a SIMT core. -/
def coreUnit (gid : Nat) : Nat := unitOf 0 (gidCore gid)

/-- R51: a fragment of the group that leaves ready gives up the rest of its turn. -/
def State.endTurn (s : State) (gid : Nat) : State :=
  s.modCore (gidCore gid) fun k => if (k.turn.map (·.1)) = some gid then { k with turn := none } else k

/-- R372, R375: the halt of a group: no instruction of it issues any more, and a kind 4 ring record goes to its
service core. A group that is already halted takes no second halt, and posts the record if it was halted for a save and has
posted none (R378, R400). -/
def State.haltGroup (s : State) (gid call pc : Nat) : State :=
  match s.group? gid with
  | none => s
  | some g =>
    let h : Halt := g.halt.getD ⟨call / 256, call % 256, BitVec.ofNat 64 pc, false, false⟩
    if h.posted then s else
    let s := s.putGroup gid { g with halt := some { h with posted := true } }
    let s := if g.halt.isSome then s else (s.stopEngine gid false).endTurn gid
    (s.postRing (gidCluster gid) g.tenant ⟨4, gid, 0, 0, 0, 0, [], 0⟩ (ringBytes 4 0 gid pc call g.tenant.toNat 0 0 [])).2

/-- R371, R375: a record, and the halt of a group that it tells of: at once, or once a held record is written. Until
then the group issues nothing. -/
def State.recordHalt (s : State) (d : Nat) (r : ErrRec) (gid call pc : Nat) : State :=
  let (held, s) := s.formRecord d r (some (gid, call, pc)) none
  if held then s.modGroup gid fun g => { g with stalled := true } else s.haltGroup gid call pc

/-- R371: the slot of a held record has been delivered: the record is written, and what it brings about comes about: the halt of a
group, or the move that it stalled goes on. -/
def State.releaseHeld (s : State) (d slot : Nat) : State :=
  match (s.die d).heldRecs.find? fun h => h.r.seq % 4096 == slot with
  | none => s
  | some h =>
    let s := ((s.modDie d fun x => { x with heldRecs := x.heldRecs.erase h }).writeRecord d h.r).severity d h.r
    match h.move, h.halt with
    | some m, _ => s.modDie d fun x => { x with credits := x.credits ++ [⟨h.r, m⟩] }
    | none, some (gid, call, pc) => (s.modGroup gid fun g => { g with stalled := false }).haltGroup gid call pc
    | none, none => s

/-- R371: a path has taken the record of a slot; when the last one has, a record that waits for the slot is written. -/
def State.pathTaken (s : State) (d slot bit : Nat) : State :=
  let x := s.die d
  let left := x.undelivered.get 0 slot - bit
  let s := s.modDie d fun x => { x with undelivered := x.undelivered.set 0 slot left }
  if left ≠ 0 then s else s.releaseHeld d slot

/-- R371: a record is formed for a move that it stalls; one that need not wait counts as formed when the move goes on. -/
def State.formStalled (s : State) (m : Move) (d : Nat) (r : ErrRec) : State :=
  match s.formRecord d r none (some m) with
  | (true, s) => s
  | (false, t) => t.modDie d fun x => { x with credits := x.credits ++ [⟨{ r with seq := x.seq }, m⟩] }

/-- R371: a move that a held record stalls. -/
def State.stalls (s : State) (m : Move) : Bool := s.dies.any fun e => e.2.heldRecs.any fun h => h.move == some m

/-- R371: the state after a move: `t`, with nothing of its records left over; or, where a record of it that halts no group must be
held, the state before it with the records up to that one formed. DEDUCED: log 33. -/
def State.afterMove (s : State) (m : Move) (t : State) : State :=
  if t.formed.any fun e => e.2.2 && e.2.1.halt.isNone then
    let n := (t.formed.findIdx fun e => e.2.2) + 1
    { (t.formed.take n).foldl (fun s e => s.formStalled m e.1 e.2.1.r) s with moving := none, formed := [], cur := none }
  else if t.dies.any fun e => e.2.credits.any fun c => decide (c.move = m) then
    { t with dies := t.dies.map fun e => (e.1, { e.2 with credits := e.2.credits.filter fun c => decide (c.move ≠ m) }) }
  else t

/-- R366, R377: the record of a fault of a group. -/
def Exc.record (e : Exc) (gid : Nat) (g : Group) : ErrRec :=
  mkRec 1 e.cls e.cause (6 + if e.addr = 0 then 0 else 8) g.tenant.toNat gid (coreUnit gid) e.pc e.addr e.detail

/-- R375, R378: TAKING AN EXCEPTION. The core writes one error record of severity 1 for the fault, and the group
halts with the fault's class and cause in its ring record. The fragments keep their pcs; `Exc.pc` is the address
the fault's table gives. The return from it is a save and a restore by the service core (R376): `execSctxopRestore`. -/
def State.takeException (s : State) (gid : Nat) (e : Exc) : State :=
  match s.group? gid with
  | none => s
  | some g => s.recordHalt (gidDie gid) (e.record gid g) gid (256 * e.cls + e.cause) e.pc

/-! ### The issuing fragment -/

/-- The group and fragment whose instruction is issuing. -/
structure Ctx where
  gid : Nat
  fid : Nat
  g : Group
  f : Frag
deriving DecidableEq, Repr

/-- The issuing fragment, if it is resident. -/
def State.ctx? (s : State) : Option Ctx :=
  match s.cur with
  | none => none
  | some c =>
    match s.group? c.gid with
    | none => none
    | some g =>
      match g.frags.find c.frag with
      | none => none
      | some f => some ⟨c.gid, c.frag, g, f⟩

namespace Group

/-- R58: a scalar; s0 reads 0. -/
def sreg (g : Group) (n : Nat) : Dword := if n = 0 then 0 else g.s.get 0 n
/-- R58: a write of a scalar; a write to s0 is discarded. -/
def setS (g : Group) (n : Nat) (v : Dword) : Group := if n = 0 then g else { g with s := g.s.set 0 n v }

/-- R54: register r of lane l. -/
def vreg (g : Group) (l r : Nat) : VReg := g.v.get VReg.zero (1024 * r + l)
def setV (g : Group) (l r : Nat) (x : VReg) : Group := { g with v := g.v.set VReg.zero (1024 * r + l) x }

/-- R54: a predicate; p0 is true in every lane. -/
def pred (g : Group) (n : Nat) : Mask := if n = 0 then BitVec.allOnes 1024 else g.p.get 0 n
/-- R54: write a predicate in the lanes of `m`; a write to p0 is discarded. -/
def setP (g : Group) (n : Nat) (m val : Mask) : Group :=
  if n = 0 then g else { g with p := g.p.set 0 n ((g.pred n &&& ~~~m) ||| (val &&& m)) }

/-- R54: index register k of lane l. -/
def xreg (g : Group) (l k : Nat) : Byte := g.x.get 0 (1024 * k + l)

/-- R56: the window of index register k. -/
def idxEn (g : Group) (k : Nat) : Bool := (g.idx.get 0 k).getLsbD 15
def idxHi (g : Group) (k : Nat) : Nat := ((g.idx.get 0 k).extractLsb' 8 7).toNat
def idxLo (g : Group) (k : Nat) : Nat := ((g.idx.get 0 k).extractLsb' 0 7).toNat

def frag (g : Group) (fid : Nat) (d : Frag) : Frag := (g.frags.find fid).getD d
def modFrag (g : Group) (fid : Nat) (f : Frag → Frag) : Group :=
  match g.frags.find fid with
  | some x => { g with frags := g.frags.put fid (f x) }
  | none => g

/-- R62: lc. -/
def lc (g : Group) : Nat := g.loads.length

/-- R63: the batch lag. -/
def lag (g : Group) : Nat := (g.ob - 1 - g.cb).toNat

/-- R63: batch n is complete. -/
def batchDone (g : Group) (n : BitVec 16) : Bool := decide ((g.cb - n).toNat < 0x8000)

/-- R63: cb advances over every closed batch whose members have all completed. -/
def advanceCb : Nat → Group → Group
  | 0, g => g
  | k + 1, g =>
    if g.lag = 0 then g
    else if g.batch.get 0 (g.cb + 1).toNat = 0 then advanceCb k { g with cb := g.cb + 1 }
    else g

/-- R254: a member joins the open batch. -/
def joinBatch (g : Group) : Group :=
  { g with batch := g.batch.set 0 g.ob.toNat (g.batch.get 0 g.ob.toNat + 1) }

/-- R63, R254: a member of batch b completes. -/
def leaveBatch (g : Group) (b : Nat) : Group :=
  advanceCb 16 { g with batch := g.batch.set 0 b (g.batch.get 0 b - 1) }

end Group

/-- R62: sc, the entries of the group's store queue that are not complete. -/
def State.sc (s : State) (g : Group) : Nat := ((s.queue? g.sq).map fun q => q.ents.length).getD 0

/-- R62, R279: ec: copies and updates of the group and its operations in the reservation table. -/
def State.ec (s : State) (gid : Nat) (g : Group) : Nat :=
  g.engs.length + ((s.cluster (gidCluster gid)).table.filter fun r => r.gid == gid).length

/-- The counter of index k: lc, sc, ec (R62). -/
def State.counter (s : State) (gid : Nat) (g : Group) : Nat → Nat
  | 0 => g.lc
  | 1 => s.sc g
  | _ => s.ec gid g

/-- R62: its limit. -/
def counterLimit : Nat → Nat
  | 0 => 63
  | 1 => 63
  | _ => 15

/-- R32: split-table entries in use on a core. -/
def State.poolUsed (s : State) (core : Nat) : Nat :=
  (s.groups.map fun e => if gidCore e.1 = core then e.2.frags.length + e.2.joins.length else 0).sum

/-- R101, R202: a LAUNCH's record, read as a load of the group, that has not been read and precedes an access in issue order. -/
def Group.launchBefore (g : Group) (id : Nat) : Bool :=
  g.frags.any fun f => match f.2.hold with | .launch _ _ _ [] _ op => decide (op < id) | _ => false

/-- R103: every operation of the group older than `upto` has been performed and every older push answered. -/
def State.drained (s : State) (g : Group) (upto : Nat) : Bool :=
  (g.loads.all fun l => decide (upto ≤ l.id)) && !g.launchBefore upto &&
    ((s.queue? g.sq).map fun q => q.ents.all fun e => decide (upto ≤ e.id)).getD true

/-! ### Fragments' waits (R38, R159, R166) -/

/-- R166: a window of the fragment has ended and its operation has not completed. -/
def Frag.windowOver (f : Frag) : Bool := f.windows.any fun w => w.left == 0

/-- R156: the waits of a clause header are met. -/
def State.headerMet (s : State) (gid : Nat) (g : Group) (h : Word) : Bool :=
  let wlag := (h.extractLsb' 20 4).toNat
  let wec := (h.extractLsb' 16 4).toNat
  let wsc := (h.extractLsb' 12 4).toNat
  let wlc := (h.extractLsb' 8 4).toNat
  decide (g.lag ≤ wlag) && decide (s.ec gid g ≤ wec) && (wsc == 15 || decide (s.sc g ≤ wsc))
    && (wlc == 15 || decide (g.lc ≤ wlc))

/-- The clause's header word as read, the first of the fragment's words. -/
def Frag.header (f : Frag) : Word := f.words.headD 0

/-- Whether what a fragment in op-wait or clause-wait waits for has come about. -/
def State.waitOver (s : State) (gid : Nat) (g : Group) (f : Frag) : Bool :=
  match f.state with
  | .clauseWait => s.headerMet gid g f.header
  | .opWait =>
    match f.hold with
    | .none => !f.windowOver
    | .counter k => decide (s.counter gid g k < counterLimit k)
    | .lag => decide (g.lag < 15)
    | .batch n => g.batchDone (BitVec.ofNat 16 n)
    | .drain n => s.drained g n
    | .fence n => s.drained g n
    | .unit => true
    | _ => false
  | _ => false

/-- The fragments of a group whose wait is over become ready (R38). -/
def State.wake (s : State) (gid : Nat) : State :=
  match s.group? gid with
  | none => s
  | some g =>
    s.putGroup gid { g with frags := g.frags.map fun e =>
      if (s.waitOver gid g e.2) = true then (e.1, { e.2 with state := .ready }) else e }

/-- R31: a group whose lanes have all exited retires once lc and ec are 0. -/
def State.checkRetire (s : State) (gid : Nat) : State :=
  match s.group? gid with
  | none => s
  | some g =>
    if g.frags.isEmpty && decide (g.lc = 0) && decide (s.ec gid g = 0) then
      s.addDue (.groupRetire (BitVec.ofNat 18 gid))
    else s

/-! ### The issue of an instruction (R164 to R169) -/

/-- A vector register that an instruction names: by number, or indexed through xk with a base (R57). -/
inductive VRef where
  | v (n : Nat)
  | x (k base : Nat)
deriving DecidableEq, Repr

/-- R57: the register a reference names in a lane. -/
def VRef.num (g : Group) (l : Nat) : VRef → Nat
  | .v n => n
  | .x k b => (g.xreg l k).toNat + b

/-- R27, R57: the reference is legal in a lane. -/
def VRef.ok (g : Group) (l : Nat) (r : VRef) : Bool :=
  let e := r.num g l
  match r with
  | .v _ => decide (e < g.regs)
  | .x k _ => g.idxEn k && decide (g.idxLo k ≤ e) && decide (e ≤ g.idxHi k) && decide (e < g.regs)

/-- What R169 checks before an instruction's own conditions: whether its sub is assigned, the vector registers
it names in the order of R377, its guard, the counter it moves, and its length in bytes. -/
structure Req where
  assigned : Bool
  regs : List VRef
  guard : Nat
  ctr : Option Nat
  len : Nat
deriving DecidableEq, Repr

/-- A lane and the number of the first register that fails there. -/
def firstBad (lanes : List Nat) (regs : List VRef) (g : Group) (bad : Nat → VRef → Bool) : Option (Nat × Nat) :=
  lanes.findSome? fun l => (regs.find? fun r => bad l r).map fun r => (l, r.num g l)

namespace Ctx

/-- The active lanes: those of the fragment, or of its replay mask (R67). -/
def active (c : Ctx) : Mask := if c.f.replay = 0 then c.f.mask else c.f.replay
/-- R161: the active lanes in which a guard holds. -/
def guarded (c : Ctx) (gd : Nat) : Mask := c.active &&& c.g.pred gd
/-- The lanes as a list. -/
def lanes (c : Ctx) (gd : Nat) : List Nat := lanesOf (c.guarded gd) c.g.lanes
def activeLanes (c : Ctx) : List Nat := lanesOf c.active c.g.lanes
/-- The pc as a number. -/
def pc (c : Ctx) : Nat := c.f.pc.toNat
/-- R158: a word of the clause as read; word 0 is the header. -/
def word (c : Ctx) (a : Nat) : Word := c.f.words.getD ((a - c.f.hdr.toNat) / 4) 0
/-- The instruction word. -/
def iword (c : Ctx) : Word := c.word c.pc
/-- R59: fields of the fragment's fmt. -/
def rm (c : Ctx) : Nat := (c.f.fmt.extractLsb' 0 3).toNat
def sat (c : Ctx) : Bool := c.f.fmt.getLsbD 3
def te (c : Ctx) : Byte := c.f.fmt.extractLsb' 16 8
def fa (c : Ctx) : Nat := (c.f.fmt.extractLsb' 4 4).toNat
def fb (c : Ctx) : Nat := (c.f.fmt.extractLsb' 8 4).toNat
def fc (c : Ctx) : Nat := (c.f.fmt.extractLsb' 12 4).toNat

end Ctx

/-- R165: the first register of the instruction that an open window has pending: the window's instruction and the register. -/
def Ctx.violation (c : Ctx) (regs : List VRef) : Option (Nat × Nat) :=
  (firstBad c.activeLanes regs c.g fun l r => c.f.windows.any fun w => decide (r.num c.g l ∈ w.regs)).bind fun e =>
    (c.f.windows.find? fun w => decide (e.2 ∈ w.regs)).map fun w => (w.pc.toNat, e.2)

/-- R161, R377: the lowest lane with a register that does not exist, and that register. -/
def Ctx.outOfBounds (c : Ctx) (regs : List VRef) : Option (Nat × Nat) :=
  firstBad c.activeLanes regs c.g fun l r => !r.ok c.g l

/-- R164: the instruction counts in every open window of its fragment, and of the fragments that share it. -/
def Group.countWindows (g : Group) (fid : Nat) : Group :=
  match g.frags.find fid with
  | none => g
  | some f =>
    if f.windows.isEmpty then g else
    { g with frags := g.frags.map fun e =>
        (e.1, { e.2 with windows := e.2.windows.map fun w =>
          if f.windows.any fun v => v.op == w.op then { w with left := w.left - 1 } else w }) }

/-- R155: whether the address lies past the last word of the clause. -/
def Frag.pastEnd (f : Frag) (a : Nat) : Bool := decide (f.hdr.toNat + 4 * f.words.length ≤ a)

/-- R51: after a clause the turn ends; a fragment that has issued eight clauses in a row, or whose clause had the
yield bit set, becomes the youngest of its tenant. -/
def State.endClause (s : State) (gid fid : Nat) (yields : Bool) : State :=
  let s := s.modCore (gidCore gid) fun k => if k.turn = some (gid, fid) then { k with turn := none } else k
  match s.group? gid with
  | none => s
  | some g =>
    match g.frags.find fid with
    | none => s
    | some f =>
      if yields || decide (8 ≤ f.run + 1) then
        { s.putGroup gid { g with frags := g.frags.put fid { f with run := 0, stamp := s.fresh } } with
          fresh := s.fresh + 1 }
      else s.putGroup gid { g with frags := g.frags.put fid { f with run := f.run + 1 } }

/-- The fragment goes on at `a`: in its clause, or at the header of the next one when `leaves` (R155). -/
def Frag.goTo (f : Frag) (a : Dword) (leaves : Bool) : Frag :=
  { f with pc := a, hdr := if leaves then a else f.hdr, inClause := !leaves && !f.reread, words := if leaves then [] else f.words,
           hold := .none, replay := 0, state := if f.state = .opWait then .ready else f.state }

/-- The instruction is done: the group's new state is stored, the instruction counts in the open windows and in
the instructions issued, and its fragment goes on `len` bytes further, ending its clause if that was the last word. -/
def State.commit (s : State) (c : Ctx) (len : Nat) (g : Group) : State :=
  let g := g.countWindows c.fid
  let a := c.f.pc + BitVec.ofNat 64 len
  let ends := c.f.pastEnd (c.pc + len)
  let g := g.modFrag c.fid fun f => f.goTo a ends
  let s := s.putGroup c.gid { g with instrs := g.instrs + 1 }
  if ends then s.endClause c.gid c.fid (c.f.header.getLsbD 7) else s

/-- An instruction that held its fragment is over: the fragment is ready after it (R38, R40). One restored in call-wait
reads its clause again (R158, R320). -/
def State.advanceFrag (s : State) (gid fid len : Nat) : State :=
  match (s.group? gid).bind fun g => g.frags.find fid with
  | none => s
  | some f =>
    let ends := f.pastEnd (f.pc.toNat + len) && !f.reread
    let s := s.modGroup gid fun g => g.modFrag fid fun f => { f.goTo (f.pc + BitVec.ofNat 64 len) ends with state := .ready }
    if ends then s.endClause gid fid (f.header.getLsbD 7) else s

/-- The fragment waits in op-wait, its instruction not issued (R38), and its turn is over (R51). -/
def State.opWait (s : State) (c : Ctx) (h : Hold) : State :=
  (s.putGroup c.gid (c.g.modFrag c.fid fun f => { f with state := .opWait, hold := h })).endTurn c.gid

/-- A fault of the issuing instruction: it has no effect, and its group halts (R375). -/
def State.trap (s : State) (c : Ctx) (cause addr detail : Nat) : State :=
  s.takeException c.gid ⟨1, cause, c.pc, addr, detail⟩

/-- R61: flags are set, never cleared; an enabled one halts the group after the instruction, with an arithmetic trap. -/
def State.commitFlags (s : State) (c : Ctx) (len : Nat) (g : Group) (fl : Byte) : State :=
  let s := s.commit c len { g with flags := g.flags ||| fl }
  if fl &&& c.te = 0 then s else s.takeException c.gid ⟨1, 0x0D, c.pc, 0, (fl &&& c.te).toNat⟩

/-- R164 to R169: the issue of an instruction. It waits for a window that has ended; it traps on an unassigned
sub, on a pending register and on a register out of bounds; a guarded-off instruction only counts (R167); an
instruction that would take a counter past its limit waits (R62); else `eff` is its own effect, which checks its
own conditions. What is assigned may depend on the fragment's fmt (R212). -/
def issueBy (req : Ctx → Req) (eff : Ctx → State → State) (s : State) : Out :=
  match s.ctx? with
  | none => .fault .noIssuer
  | some c =>
    let q := req c
    if c.f.windowOver then .next (s.opWait c .none)
    else if !q.assigned then .next (s.trap c 0x03 0 c.iword.toNat)
    else
      match c.violation q.regs with
      | some (wpc, r) => .next (s.trap c 0x04 wpc r)
      | none =>
        match c.outOfBounds q.regs with
        | some (l, r) => .next (s.trap c 0x05 0 (l + 65536 * r))
        | none =>
          if c.guarded q.guard = 0 then .next (s.commit c q.len c.g)
          else
            match q.ctr with
            | some k =>
              if s.counter c.gid c.g k < counterLimit k then .next (eff c s) else .next (s.opWait c (.counter k))
            | none => .next (eff c s)

/-- The issue of an instruction whose encoding alone says what is assigned. -/
def issue (q : Req) (eff : Ctx → State → State) (s : State) : Out := issueBy (fun _ => q) eff s

/-- An instruction without guard, vector registers or counter (R183). -/
def plainReq (ok : Bool) : Req := ⟨ok, [], 0, none, 4⟩

end Sys2Proof.Machine
end

