-- ==== Sys2Proof/Machine/Operands.lean ====
section
/-!
DEFINITION. Operand forms: sign extension, branch targets, effective addresses, conditions, and the reads of
vector operands (R154, R161 to R163, R173, R184, R188, R208).
-/

namespace Sys2Proof.Machine

/-- R154: sext of an n-bit field to a doubleword. -/
def sextD {n : Nat} (x : BitVec n) : Dword := x.signExtend 64
/-- R154: sext to a word. -/
def sextW {n : Nat} (x : BitVec n) : Word := x.signExtend 32

/-- R173: branch_target(a, off) = a + 4 · sext(off, 21). -/
def branchTarget (a : Dword) (off : BitVec 21) : Dword := a + sextD off * 4
/-- R163: BRV's reconvergence address, a + 4 · sext(literal, 32). -/
def reconvergence (a : Dword) (lit : Word) : Dword := a + sextD lit * 4

/-- R184, R216: the conditions eq, ne, lt, le, gt, ge, ltu, leu, gtu, geu. -/
def condHolds {n : Nat} (cc : Nat) (a b : BitVec n) : Bool :=
  match cc with
  | 0 => a == b
  | 1 => a != b
  | 2 => a.slt b
  | 3 => a.sle b
  | 4 => b.slt a
  | 5 => b.sle a
  | 6 => a.ult b
  | 7 => a.ule b
  | 8 => b.ult a
  | _ => b.ule a

/-- The number of leading zero bits of an n-bit value. -/
def clz {n : Nat} (a : BitVec n) : Nat := if a = 0 then n else n - 1 - a.toNat.log2
/-- The number of 1 bits. -/
def popc {n : Nat} (a : BitVec n) : Nat := ((List.range n).filter fun i => a.getLsbD i).length

/-- The smaller and the larger of two values, signed or unsigned. -/
def minBv {n : Nat} (signed : Bool) (a b : BitVec n) : BitVec n :=
  if (if signed then a.sle b else a.ule b) then a else b
def maxBv {n : Nat} (signed : Bool) (a b : BitVec n) : BitVec n :=
  if (if signed then b.sle a else b.ule a) then a else b

/-- Bits [2n−1:n] of a product of two n-bit values, each read as signed or unsigned. -/
def mulHigh {n : Nat} (sa sb : Bool) (a b : BitVec n) : BitVec n :=
  let x : Int := if sa then a.toInt else a.toNat
  let y : Int := if sb then b.toInt else b.toNat
  BitVec.ofInt n ((x * y) / 2 ^ n)

/-- A vector register reference of a 7-bit field. -/
def vr (f : BitVec 7) : VRef := .v f.toNat
/-- The reference `k` registers above it (R238). -/
def vrUp (f : BitVec 7) (k : Nat) : VRef := .v (f.toNat + k)

/-- A vector operand of lane l. -/
def Ctx.v (c : Ctx) (l : Nat) (f : BitVec 7) : VReg := c.g.vreg l f.toNat
/-- Its data bits. -/
def Ctx.vd (c : Ctx) (l : Nat) (f : BitVec 7) : Word := (c.v l f).data
/-- A scalar operand. -/
def Ctx.s (c : Ctx) (f : BitVec 6) : Dword := c.g.sreg f.toNat

/-- R9, R208: write a register in each of the given lanes, every lane's value taken from the state before. -/
def Group.writeV (g : Group) (r : Nat) (lanes : List Nat) (val : Nat → VReg) : Group :=
  lanes.foldl (fun g l => g.setV l r (val l)) g

/-- R216: write a predicate in each of the given lanes. -/
def Group.writeP (g : Group) (n : Nat) (lanes : List Nat) (val : Nat → Bool) : Group :=
  g.setP n (maskOf lanes) (maskOf (lanes.filter val))

end Sys2Proof.Machine
end

