-- ==== Sys2Proof/Machine/Num.lean ====
section
/-!
DEFINITION. Number formats and rounding, exactly: decoding, encoding, round-to-odd, the final rounding, and
floating-point arithmetic (06 R128 to R154). A finite value is a sign, a natural m and an exponent e: m · 2^e.
-/

namespace Sys2Proof.Machine

/-- A value read from a code: `sig` marks a signalling NaN. -/
inductive FVal where
  | nan (neg sig : Bool)
  | inf (neg : Bool)
  | fin (neg : Bool) (m : Nat) (e : Int)
deriving DecidableEq, Repr

/-- R128: a floating-point element format: field widths, the largest finite magnitude code, and the codes of the
magnitudes ∞ and NaN where it has them. -/
structure FloatFmt where
  eb : Nat
  mb : Nat
  bias : Nat
  maxCode : Nat
  inf : Option Nat
  nan : Option Nat
deriving DecidableEq, Repr

/-- R128, R60: the floating-point formats by element-format code. -/
def floatFmt : Nat → FloatFmt
  | 0 => ⟨8, 23, 127, 0x7F7FFFFF, some 0x7F800000, some 0x7FC00000⟩
  | 1 => ⟨8, 7, 127, 0x7F7F, some 0x7F80, some 0x7FC0⟩
  | 2 => ⟨5, 10, 15, 0x7BFF, some 0x7C00, some 0x7E00⟩
  | 3 => ⟨4, 3, 7, 0x7E, none, some 0x7F⟩
  | 4 => ⟨5, 2, 15, 0x7B, some 0x7C, some 0x7E⟩
  | 5 => ⟨2, 3, 1, 0x1F, none, none⟩
  | 6 => ⟨3, 2, 3, 0x1F, none, none⟩
  | _ => ⟨2, 1, 1, 0x7, none, none⟩

namespace FloatFmt

/-- R128: emin = 1 − b. -/
def emin (f : FloatFmt) : Int := 1 - f.bias
/-- The sign's place: code bits below it are the magnitude. -/
def signBit (f : FloatFmt) : Nat := 2 ^ (f.eb + f.mb)
def width (f : FloatFmt) : Nat := f.eb + f.mb + 1

/-- R128: the value of a code. A quiet NaN has the top mantissa bit set; E4M3's NaN is quiet. -/
def decode (f : FloatFmt) (code : Nat) : FVal :=
  let neg := decide (f.signBit ≤ code % (2 * f.signBit))
  let mag := code % f.signBit
  if mag ≤ f.maxCode then
    let e := mag / 2 ^ f.mb
    let m := mag % 2 ^ f.mb
    if e = 0 then .fin neg m (f.emin - f.mb) else .fin neg (2 ^ f.mb + m) ((e : Int) - f.bias - f.mb)
  else if some mag = f.inf then .inf neg
  else .nan neg (f.inf.isSome && decide (mag % 2 ^ f.mb < 2 ^ (f.mb - 1)))

/-- The magnitude code of k · 2^t, for a value on the format's grid with no upper bound. -/
def magCode (f : FloatFmt) (k : Nat) (t : Int) : Nat :=
  if k = 0 then 0 else
  let top : Int := k.log2 + t
  if top < f.emin then k * 2 ^ (t - (f.emin - f.mb)).toNat
  else
    let frac := if k.log2 ≤ f.mb then k * 2 ^ (f.mb - k.log2) else k / 2 ^ (k.log2 - f.mb)
    (top + f.bias).toNat * 2 ^ f.mb + (frac - 2 ^ f.mb)

/-- A code from its sign and magnitude code. -/
def code (f : FloatFmt) (neg : Bool) (mag : Nat) : Nat := (if neg then f.signBit else 0) + mag

end FloatFmt

/-! ### Targets and the final rounding (R138 to R143) -/

/-- What a value is rounded to: a floating-point format, or integers from −lo to hi in codes of `w` bits. -/
inductive Target where
  | flt (f : FloatFmt)
  | int (w lo hi : Nat)
deriving DecidableEq, Repr

/-- R60, R131: the target of an element-format code. -/
def targetOf (code : Nat) : Target :=
  match code with
  | 8 => .int 8 128 127
  | 9 => .int 4 8 7
  | 10 => .int 2 2 1
  | 11 => .int 2 1 1
  | c => .flt (floatFmt c)

/-- R138: the exponent t of grid_step(F, m · 2^e) = 2^t. -/
def gridExp (f : FloatFmt) (m : Nat) (e : Int) : Int :=
  (if m = 0 then f.emin else max (m.log2 + e) f.emin) - f.mb

/-- ⌊m · 2^e / 2^t⌋, and how the rest compares with one half: 0 none, 1 below, 2 equal, 3 above. -/
def floorGrid (m : Nat) (e t : Int) : Nat × Nat :=
  if t ≤ e then (m * 2 ^ (e - t).toNat, 0)
  else
    let d := (t - e).toNat
    let r := m % 2 ^ d
    (m / 2 ^ d, if r = 0 then 0 else if 2 * r < 2 ^ d then 1 else if 2 * r = 2 ^ d then 2 else 3)

/-- R61: the flags. -/
def flagNX : Byte := 0x01
def flagUF : Byte := 0x02
def flagOF : Byte := 0x04
def flagDZ : Byte := 0x08
def flagNV : Byte := 0x10
def flagIO : Byte := 0x20
def flagCU : Byte := 0x40
def flagSD : Byte := 0x80
/-- A flag where a condition holds. -/
def flagIf (c : Bool) (f : Byte) : Byte := if c then f else 0

/-- R141, R142: the grid index that a mode chooses for k with rest class `fr` and sticky bit `s`. -/
def roundIndex (rm : Nat) (neg : Bool) (k fr : Nat) (s : Bool) : Nat :=
  let inexact := fr != 0 || s
  let above := fr == 3 || (fr == 2 && s)
  let tie := fr == 2 && !s
  if !inexact || rm == 1 then k
  else if rm == 2 then (if neg then k else k + 1)
  else if rm == 3 then (if neg then k + 1 else k)
  else if above || (tie && (rm == 4 || k % 2 == 1)) then k + 1
  else k

/-- The code of the integer r with a sign in w bits. DEDUCED: log 47. -/
def intCode (w : Nat) (neg : Bool) (r : Nat) : Nat := if neg then (2 ^ w - r % 2 ^ w) % 2 ^ w else r % 2 ^ w

/-- R143: special_result. -/
def specialResult (t : Target) (x : FVal) (sat : Bool) : Nat × Byte :=
  match t, x with
  | .flt f, .nan _ _ =>
    match f.nan with
    | some c => (c, 0)
    | none => (0, flagNV)
  | .flt f, .inf neg =>
    match f.inf, f.nan with
    | some c, _ => if sat then (f.code neg f.maxCode, flagOF) else (f.code neg c, 0)
    | none, some c => if sat then (f.code neg f.maxCode, flagOF) else (f.code neg c, flagNV)
    | none, none => (f.code neg f.maxCode, flagOF)
  | .int _ _ _, .nan _ _ => (0, flagNV)
  | .int w lo hi, .inf neg => (intCode w neg (if neg then lo else hi), flagNV)
  | _, .fin _ _ _ => (0, 0)

/-- R143: overflow_result for a floating-point format. DEDUCED: log 47. -/
def overflowResult (f : FloatFmt) (neg : Bool) (rm : Nat) (sat : Bool) (fl : Byte) : Nat × Byte :=
  let fl := fl ||| flagOF ||| flagNX
  match f.inf, f.nan with
  | some c, _ =>
    if sat || rm == 1 || (rm == 2 && neg) || (rm == 3 && !neg) then (f.code neg f.maxCode, fl) else (f.code neg c, fl)
  | none, some c => if sat then (f.code neg f.maxCode, fl) else (f.code neg c, fl)
  | none, none => (f.code neg f.maxCode, fl)

/-- R142: final_round. DEDUCED: log 47. -/
def finalRound (x : FVal) (s : Bool) (t : Target) (rm : Nat) (sat : Bool) : Nat × Byte :=
  match x with
  | .fin neg m e =>
    match t with
    | .flt f =>
      let q := gridExp f m e
      let (k, fr) := floorGrid m e q
      let inexact := fr != 0 || s
      let n := roundIndex rm neg k fr s
      let tiny := decide (m = 0) || decide ((m.log2 : Int) + e < f.emin)
      let fl := flagIf inexact flagNX ||| flagIf (inexact && tiny) flagUF
      let mag := f.magCode n q
      if f.maxCode < mag then overflowResult f neg rm sat fl else (f.code neg mag, fl)
    | .int w lo hi =>
      let (k, fr) := floorGrid m e 0
      let n := roundIndex rm neg k fr s
      if neg && decide (lo < n) then (intCode w true lo, flagNV ||| flagNX)
      else if !neg && decide (hi < n) then (intCode w false hi, flagNV ||| flagNX)
      else (intCode w neg n, flagIf (fr != 0 || s) flagNX)
  | x => specialResult t x sat

/-- FP32. -/
def fp32 : FloatFmt := floatFmt 0
/-- R133: a register's data read as FP32. -/
def ofFp32 (w : Word) : FVal := fp32.decode w.toNat
/-- R154: value_of for an element-format code. -/
def valueOf (code : Nat) (v : Nat) : FVal :=
  match code with
  | 8 => let i := (BitVec.ofNat 8 v).toInt; .fin (decide (i < 0)) i.natAbs 0
  | 9 => let i := (BitVec.ofNat 4 v).toInt; .fin (decide (i < 0)) i.natAbs 0
  | 10 => let i := (BitVec.ofNat 2 v).toInt; .fin (decide (i < 0)) i.natAbs 0
  | 11 => if v % 4 = 1 then .fin false 1 0 else if v % 4 = 3 then .fin true 1 0 else .fin false 0 0
  | c => (floatFmt c).decode v
/-- An integer as a value. -/
def ofInt (i : Int) : FVal := .fin (decide (i < 0)) i.natAbs 0

/-- The canonical NaN of FP32 with a sign (R137, R139). -/
def nanWord (neg : Bool) : Word := if neg then 0xFFC00000 else 0x7FC00000
def qnan : Word := 0x7FC00000

/-- R154: the FP32 code of a value that FP32 holds exactly. -/
def toFp32 : FVal → Word
  | .nan neg _ => nanWord neg
  | .inf neg => BitVec.ofNat 32 (fp32.code neg 0x7F800000)
  | .fin neg m e =>
    let q := gridExp fp32 m e
    BitVec.ofNat 32 (fp32.code neg (fp32.magCode (floorGrid m e q).1 q))

/-- R139: rto(x, F): the value rounded to odd on F's extended grid, and whether it is inexact. -/
def rto (x : FVal) (t : Target) : FVal × Bool :=
  match x with
  | .fin neg m e =>
    let q : Int := (match t with | .flt f => gridExp f m e | .int _ _ _ => 0) - 2
    let (k, fr) := floorGrid m e q
    let n := if fr ≠ 0 ∧ k % 2 = 0 then k + 1 else k
    (.fin neg n q, fr != 0)
  | x => (x, false)

/-! ### Arithmetic (R134, R227) -/

/-- The sum of two finite values, exact: the common exponent and the signed integer. -/
def addExact (n1 : Bool) (m1 : Nat) (e1 : Int) (n2 : Bool) (m2 : Nat) (e2 : Int) : Int × Int :=
  let e := min e1 e2
  let a : Int := m1 * 2 ^ (e1 - e).toNat
  let b : Int := m2 * 2 ^ (e2 - e).toNat
  ((if n1 then -a else a) + (if n2 then -b else b), e)

/-- R227: the sum of two finite values with the sign of an exact zero. -/
def addFin (rm : Nat) (n1 : Bool) (m1 : Nat) (e1 : Int) (n2 : Bool) (m2 : Nat) (e2 : Int) : FVal :=
  let (z, e) := addExact n1 m1 e1 n2 m2 e2
  if z = 0 then .fin (if m1 = 0 ∧ m2 = 0 ∧ n1 = n2 then n1 else rm == 3) 0 0
  else .fin (decide (z < 0)) z.natAbs e

def FVal.isNan : FVal → Bool
  | .nan _ _ => true
  | _ => false
def FVal.isSnan : FVal → Bool
  | .nan _ s => s
  | _ => false
def FVal.isInf : FVal → Bool
  | .inf _ => true
  | _ => false
def FVal.isZero : FVal → Bool
  | .fin _ m _ => m == 0
  | _ => false
def FVal.sign : FVal → Bool
  | .nan n _ => n
  | .inf n => n
  | .fin n _ _ => n
def FVal.neg : FVal → FVal
  | .nan n s => .nan (!n) s
  | .inf n => .inf (!n)
  | .fin n m e => .fin (!n) m e

/-- R134: an exact sum, with IEEE 754's NV. -/
def fadd (rm : Nat) (x y : FVal) : FVal × Byte :=
  let snan := x.isSnan || y.isSnan
  if x.isNan || y.isNan then (.nan false false, flagIf snan flagNV)
  else
    match x, y with
    | .inf a, .inf b => if a = b then (.inf a, 0) else (.nan false false, flagNV)
    | .inf a, _ => (.inf a, 0)
    | _, .inf b => (.inf b, 0)
    | .fin n1 m1 e1, .fin n2 m2 e2 => (addFin rm n1 m1 e1 n2 m2 e2, 0)
    | _, _ => (.nan false false, 0)

/-- R134: an exact product. -/
def fmul (x y : FVal) : FVal × Byte :=
  let snan := x.isSnan || y.isSnan
  if x.isNan || y.isNan then (.nan false false, flagIf snan flagNV)
  else
    let n := x.sign != y.sign
    if x.isInf || y.isInf then
      if x.isZero || y.isZero then (.nan false false, flagNV) else (.inf n, 0)
    else
      match x, y with
      | .fin _ m1 e1, .fin _ m2 e2 => (.fin n (m1 * m2) (e1 + e2), 0)
      | _, _ => (.nan false false, 0)

/-- R134, R227: the fused x · y + z. A product of a zero and an infinity signals NV; with z a quiet NaN, whether
it does is left open by IEEE 754-2019 (DESIGN CHOICE, log 6). -/
def ffma (rm : Nat) (x y z : FVal) : FVal × Byte :=
  let snan := x.isSnan || y.isSnan || z.isSnan
  let bad := (x.isInf && y.isZero) || (x.isZero && y.isInf)
  if x.isNan || y.isNan || (z.isNan && !bad) then (.nan false false, flagIf snan flagNV)
  else if bad then (.nan false false, flagIf (!z.isNan || snan || Config.fmaInvalidWithQuietNan) flagNV)
  else fadd rm (fmul x y).1 z

/-- R134: one rounding to a format with sat = 0; a NaN is canonical. -/
def roundArith (f : FloatFmt) (rm : Nat) (r : FVal × Byte) (s : Bool) : Nat × Byte :=
  let (c, fl) := finalRound r.1 s (.flt f) rm false
  (c, fl ||| r.2)

/-! ### Compares (R145, R146) -/

/-- How two values compare: lt, eq, gt or unordered. -/
inductive Cmp where
  | lt | eq | gt | un
deriving DecidableEq, Repr

def compareF (x y : FVal) : Cmp :=
  if x.isNan || y.isNan then .un
  else
    match x, y with
    | .inf a, .inf b => if a = b then .eq else if a then .lt else .gt
    | .inf a, _ => if a then .lt else .gt
    | _, .inf b => if b then .gt else .lt
    | .fin n1 m1 e1, .fin n2 m2 e2 =>
      let z := (addExact n1 m1 e1 (!n2) m2 e2).1
      if z < 0 then .lt else if z = 0 then .eq else .gt
    | _, _ => .un

/-- R145, R216: FCMP's conditions, with the undecided rule and NV: eq, ne, lt, le, gt, ge, uo. -/
def fcmpHolds (cc : Nat) (x y : FVal) (anyS : Bool) : Bool × Byte :=
  match compareF x y with
  | .un => (cc == 1 || cc == 6, flagIf (decide (2 ≤ cc) && decide (cc ≤ 5)) flagNV)
  | .eq => if anyS then (cc == 1 || cc == 6, flagCU) else (cc == 0 || cc == 3 || cc == 5, 0)
  | .lt => (cc == 1 || cc == 2 || cc == 3, 0)
  | .gt => (cc == 1 || cc == 4 || cc == 5, 0)

/-- R146: FMIN (`mx` false) and FMAX: which operand is chosen (some false: the first), or a NaN; and CU. -/
def fminmax (mx : Bool) (x y : FVal) (sx sy : Bool) : Option Bool × Byte :=
  if x.isNan && y.isNan then (none, 0)
  else if x.isNan then (some true, 0)
  else if y.isNan then (some false, 0)
  else
    match compareF x y with
    | .lt => (some mx, 0)
    | .gt => (some (!mx), 0)
    | _ =>
      if x.isZero && y.isZero && x.sign != y.sign then (some (x.sign == mx), 0)
      else if sx != sy then (some false, flagCU)
      else (some false, 0)

/-! ### MX scales (R129, R149 to R151) -/

/-- R151: emax of the MX element formats. -/
def emaxOf : Nat → Int
  | 3 => 8
  | 4 => 15
  | 5 => 2
  | 6 => 4
  | _ => 2

/-- R151: mx_scale. -/
def mxScale (vs : List FVal) (code : Nat) : Nat :=
  if vs.any fun v => v.isNan || v.isInf then 0xFF
  else
    let tops := vs.filterMap fun v => match v with
      | .fin _ m e => if m = 0 then none else some ((m.log2 : Int) + e)
      | _ => none
    match tops with
    | [] => 127
    | t :: ts =>
      let x := (ts.foldl max t) - emaxOf code
      (min (max x (-127)) 127 + 127).toNat

/-- A value times 2^k. -/
def FVal.scale (x : FVal) (k : Int) : FVal :=
  match x with
  | .fin n m e => .fin n m (e + k)
  | x => x

/-- R150: element v of a block with scale code c, as FP32, and OF. -/
def mxDecode (code v c : Nat) : Word × Byte :=
  if c = 0xFF then (qnan, 0)
  else
    match valueOf code v with
    | .fin n m e =>
      let y : FVal := .fin n m (e + c - 127)
      if m ≠ 0 ∧ (127 : Int) < m.log2 + e + c - 127 then (toFp32 (.inf n), flagOF) else (toFp32 y, 0)
    | x => (toFp32 x, 0)

end Sys2Proof.Machine
end

