-- ==== Sys2Proof/Machine/Flags.lean ====
section
/-!
DEFINITION. The flags an instruction sets (03 R61, 06 R134, R145, R147): IO from sources with S = 1, SD from raw
stores, and the union of the lanes' flags.
-/

namespace Sys2Proof.Machine

/-- R209: IO is set if a register source has S = 1 in a lane whose guard holds. -/
def Ctx.ioFlag (c : Ctx) (lanes : List Nat) (srcs : List Nat) : Byte :=
  flagIf (lanes.any fun l => srcs.any fun r => (c.g.vreg l r).s) flagIO

/-- R147: SD is set if S is 1 in a lane whose bits a raw store writes. -/
def Ctx.sdFlag (c : Ctx) (lanes : List Nat) (src : Nat) : Byte :=
  flagIf (lanes.any fun l => (c.g.vreg l src).s) flagSD

/-- R61: the flags of all lanes together. -/
def orFlags (lanes : List Nat) (f : Nat → Byte) : Byte := lanes.foldl (fun b l => b ||| f l) 0

end Sys2Proof.Machine
end

