-- ==== Sys2Proof/Machine/Control.lean ====
section
/-!
DEFINITION. Control and system instructions: branches, fragments and joins, barriers, fmt and the special
registers, exit, calls to the service core, breakpoints (02 R26 to R44, 08 R190 to R207).
-/

namespace Sys2Proof.Machine

/-! ### Branches of the whole fragment (R190) -/

/-- The fragment leaves its clause for the header at `a`; the instruction counts as `commit` says. -/
def State.commitTo (s : State) (c : Ctx) (a : Dword) (yields : Bool) (g : Group) : State :=
  let g := (g.countWindows c.fid).modFrag c.fid fun f => f.goTo a true
  (s.putGroup c.gid { g with instrs := g.instrs + 1 }).endClause c.gid c.fid (yields || c.f.header.getLsbD 7)

/-- R190. -/
def execBr (o : BitVec 21) (s : State) : Out :=
  issue (plainReq true) (fun c s => s.commitTo c (branchTarget c.f.pc o) false c.g) s

/-- R190: taken if s(55+cond) is nonzero; cond 0 traps. -/
def execBrc (cond : BitVec 3) (o : BitVec 21) (s : State) : Out :=
  issue (plainReq (cond != 0)) (fun c s =>
    s.commitTo c (if c.g.sreg (55 + cond.toNat) ≠ 0 then branchTarget c.f.pc o else c.f.pc + 4) false c.g) s

/-- R190, R194: s63 := the address after the CALL. -/
def execCall (o : BitVec 21) (s : State) : Out :=
  issue (plainReq true) (fun c s => s.commitTo c (branchTarget c.f.pc o) false (c.g.setS 63 (c.f.pc + 4))) s

/-- R163, R190: a branch to the address in a scalar; a target that is not a multiple of 4 traps. -/
def branchToScalar (a : BitVec 6) (s : State) : Out :=
  issue (plainReq true) (fun c s =>
    if (c.s a).toNat % 4 = 0 then s.commitTo c (c.s a) false c.g else s.trap c 0x03 0 c.iword.toNat) s

/-- R190. -/
def execRet (a : BitVec 6) (s : State) : Out := branchToScalar a s
/-- R190. -/
def execJmp (a : BitVec 6) (s : State) : Out := branchToScalar a s

/-- R193: YIELD. -/
def execYield (s : State) : Out := issue (plainReq true) (fun c s => s.commitTo c (c.f.pc + 4) true c.g) s

/-! ### Fragments and joins (R33 to R36) -/

/-- R35: the fragments of join j that have arrived. -/
def Group.arrived (g : Group) (j : Nat) : List (Nat × Frag) :=
  g.frags.filter fun e => e.2.join == some j && e.2.state == .joinWait

/-- The entry that holds the lowest lane. -/
def lowestFrag (fs : List (Nat × Frag)) : Option (Nat × Frag) :=
  fs.foldl (fun o e =>
    match o with
    | none => some e
    | some b => if lowestLane e.2.mask < lowestLane b.2.mask then some e else some b) none

/-- R166: the windows of fragments that fuse have all ended; in a fragment that shares one by a split and does not fuse,
the window stays open (DESIGN CHOICE, log 50). -/
def fusedWindows (fs : List (Nat × Frag)) : List Window :=
  (fs.flatMap fun e => e.2.windows).foldl (fun ws w =>
    if ws.any fun v => v.op == w.op then ws else ws ++ [{ w with left := 0 }]) []

/-- R35: the fusion of the fragments arrived at j once its pending count is 0; without lanes left, j itself
counts as an arrival at its parent. The fused fragment is as old as the one of the lowest lane (DESIGN CHOICE, log 56). Fuel bounds the
chain of parents. -/
def Group.tryFuse : Nat → Group → Nat → Group
  | 0, g, _ => g
  | k + 1, g, j =>
    match g.joins.find j with
    | none => g
    | some e =>
      if e.pending ≠ 0 then g else
      let fs := g.arrived j
      match lowestFrag fs with
      | none =>
        let g := { g with joins := g.joins.erase j }
        match e.parent with
        | none => g
        | some p =>
          match g.joins.find p with
          | none => g
          | some pe => tryFuse k { g with joins := g.joins.put p { pe with pending := pe.pending - 1 } } p
      | some keep =>
        let f : Frag := { keep.2 with
          pc := e.rcv, hdr := e.rcv, inClause := false, words := [], reread := false
          mask := fs.foldl (fun m x => m ||| x.2.mask) 0
          fmt := e.savedFmt, join := e.parent, state := .ready, hold := .none, windows := fusedWindows fs, run := 0 }
        let frags := (fs.foldl (fun m x => m.erase x.1) g.frags).put keep.1 f
        { g with frags := frags, joins := g.joins.erase j }

/-- R34: an arrival at join j. -/
def Group.arrive (g : Group) (j : Nat) : Group :=
  match g.joins.find j with
  | none => g
  | some e => ({ g with joins := g.joins.put j { e with pending := e.pending - 1 } }).tryFuse 32 j

/-- R34: a fragment with lanes arrives at its innermost join entry and waits. -/
def Group.arriveFrag (g : Group) (fid j : Nat) : Group :=
  (g.modFrag fid fun f => { f with state := .joinWait }).arrive j

/-! ### Barriers (R41 to R44, R200, R201) -/

/-- R116: the acquire transition: every V line of an L1 is dropped, every V+P line becomes V. -/
def Cache.acquire (x : Cache) : Cache :=
  { x with lines := x.lines.filterMap fun e =>
      match e.2.st with
      | .v => none
      | .vp => some (e.1, { e.2 with st := .v })
      | _ => some e }
def State.acquire (s : State) (core : Nat) : State := s.modCache (cacheOfCore core) Cache.acquire

/-- R41, R42: the fragments in the barrier's state become ready; those with the same pc and join fuse. DEDUCED: log 46. -/
def Group.release (g : Group) (st : FragState) : Group :=
  let fs := g.frags.filter fun e => e.2.state == st
  let same := fun (a b : Nat × Frag) => a.2.pc == b.2.pc && a.2.join == b.2.join
  let frags := fs.foldl (fun m e =>
    let mates := fs.filter fun x => same x e
    match lowestFrag mates with
    | none => m
    | some k =>
      if k.1 = e.1 then
        m.put e.1 { e.2 with state := .ready, mask := mates.foldl (fun m x => m ||| x.2.mask) 0,
                             windows := if mates.length = 1 then e.2.windows else fusedWindows mates }
      else m.erase e.1) g.frags
  let joins := fs.foldl (fun js e =>
    match e.2.join, lowestFrag (fs.filter fun x => same x e) with
    | some j, some k =>
      if k.1 = e.1 then js else
        match js.find j with
        | some je => js.put j { je with pending := je.pending - 1 }
        | none => js
    | _, _ => js) g.joins
  { g with frags := frags, joins := joins }

/-- Every fragment of the group that has lanes waits at a barrier or a join. DEDUCED: log 46. -/
def Group.allWaiting (g : Group) : Bool :=
  g.frags.all fun e => e.2.state == .barWait || e.2.state == .gangBarWait || e.2.state == .joinWait
def Group.anyIn (g : Group) (st : FragState) : Bool := g.frags.any fun e => e.2.state == st

/-- A group departs from a barrier: its fragments go on, and the departure is an acquire (R44). -/
def State.depart (s : State) (gid : Nat) (st : FragState) : State :=
  (s.modGroup gid fun g => g.release st).acquire (gidCore gid)

/-- R43: a group of the gang counts as arrived: it has arrived in this generation, or its lanes have all exited. -/
def State.gangArrived (s : State) (x : Gang) (i : Nat) : Bool :=
  x.barr.getLsbD i || x.retired.getLsbD i ||
    match x.groups.getD i none with
    | some g => ((s.group? g).map fun g => g.frags.isEmpty).getD false
    | none => false

/-- The dies that hold groups of a gang. -/
def Gang.dies (x : Gang) : List Nat := (x.places.map fun p => p.1 / 16).dedup

/-- The groups of a gang on a die. -/
def Gang.groupsOn (x : Gang) (d : Nat) : List Nat :=
  (List.range x.groups.length).filter fun i => x.places.any fun p => decide (p.1 / 16 = d) && p.2.2.getLsbD i

/-- R200: a gang's barrier closes its generation: the groups with a bit in `who` depart. -/
def State.releaseGang (s : State) (x : Gang) (who : List Nat) : State :=
  who.foldl (fun s i =>
    match x.groups.getD i none with
    | some g => s.depart g .gangBarWait
    | none => s) s

/-- R43, R200: the gang barrier of a latency class 0 or 1 gang, or of one group, releases when every group has arrived; a
class 2 gang sends each die's gathered arrivals to the root die. -/
def State.checkGang (s : State) (grid gang : Nat) : State :=
  match s.grid? grid, s.gang? grid gang with
  | some g, some x =>
    if g.desc.cls ≤ 1 ∨ x.groups.length = 1 then
      if x.barr ≠ 0 && (List.range x.groups.length).all fun i => s.gangArrived x i then
        let s := s.modGang grid gang fun x => { x with barr := 0, bgen := x.bgen + 1 }
        s.releaseGang x ((List.range x.groups.length).filter fun i => x.barr.getLsbD i)
      else s
    else
      x.dies.foldl (fun s d =>
        if x.barr ≠ 0 && !x.dieMsgs.getLsbD d && (x.groupsOn d).all fun i => s.gangArrived x i then
          s.addDue (.gangBarrierArrivalMessage (BitVec.ofNat 32 grid) (BitVec.ofNat 32 gang) (BitVec.ofNat 6 d))
        else s) s
  | _, _ => s

/-- R41, R43, R201: the barriers of a group, after something in it changed. An arrival is a release: it waits
until every older access is performed and every push answered (R44, R125). DEDUCED: log 46. -/
def State.checkBarriers (s : State) (gid : Nat) : State :=
  match s.group? gid with
  | none => s
  | some g =>
    if g.halt.isSome then s
    else if g.frags.isEmpty then s.checkGang g.grid.toNat g.gang.toNat
    else if !g.allWaiting then s
    else if g.anyIn .barWait && g.anyIn .gangBarWait then
      match lowestFrag (g.frags.filter fun e => e.2.state == .gangBarWait) with
      | some e => s.takeException gid ⟨1, 0x09, e.2.pc.toNat - 4, 0, 0⟩
      | none => s
    else if !s.drained g g.nextOp then s
    else if g.anyIn .barWait then s.depart gid .barWait
    else if g.anyIn .gangBarWait then
      let i := g.index.toNat
      let waits := ((s.gang? g.grid.toNat g.gang.toNat).map fun x => x.relWait.getLsbD i).getD false
      if waits then s else
      (s.modGang g.grid.toNat g.gang.toNat fun x => { x with barr := x.barr ||| BitVec.twoPow 16 i }).checkGang
        g.grid.toNat g.gang.toNat
    else s

/-- Everything that a change in a group can bring about in it: waits that end, barriers, retirement. -/
def State.settle (s : State) (gid : Nat) : State := ((s.wake gid).checkBarriers gid).checkRetire gid

/-- R41, R43, R200: the fragment waits at a barrier; its pc is at the next instruction. -/
def barrier (st : FragState) (s : State) : Out :=
  issue (plainReq true) (fun c s =>
    (((s.commit c 4 c.g).modGroup c.gid fun g => g.modFrag c.fid fun f => { f with state := st }).modCore
      (gidCore c.gid) fun k => { k with turn := none }).settle c.gid) s

/-- R41. -/
def execBarGrp (s : State) : Out := barrier .barWait s
/-- R43. -/
def execBarGang (s : State) : Out := barrier .gangBarWait s

/-! ### BRV, JOIN and EXIT -/

/-- R36: every fragment of every resident group of the core is in split-wait: the core asks for the save of the
group admitted last, once. -/
def State.splitDeadlock (s : State) (core : Nat) : State :=
  let gs := s.groups.filter fun e => gidCore e.1 == core
  if gs.any fun e => e.2.halt.isSome then s
  else if gs.all fun e => e.2.frags.all fun f => f.2.state == .splitWait then
    match gs.foldl (fun o e => match o with | none => some e | some b => if b.2.stamp < e.2.stamp then some e else some b) none with
    | some e => s.addDue (.preemption (BitVec.ofNat 6 (core / 64)) e.2.grid e.2.gang true)
    | none => s
  else s

/-- R33, R36, R191: BRV. Undivided lanes go on together; divided ones take a fragment entry and a join entry,
fault at a limit of the group, or wait for the core's pool. Both parts are as old as the fragment was (DESIGN CHOICE, log 56). -/
def execBrv (p : BitVec 3) (o : BitVec 21) (l : Word) (s : State) : Out :=
  issue ⟨true, [], 0, none, 8⟩ (fun c s =>
    let taken := c.f.mask &&& c.g.pred p.toNat
    let rest := c.f.mask &&& ~~~taken
    let t := branchTarget c.f.pc o
    if rest = 0 then s.commitTo c t false c.g
    else if taken = 0 then s.commitTo c (c.f.pc + 8) false c.g
    else
      let nf := c.g.frags.length + 1
      let nj := c.g.joins.length + 1
      match c.g.frags.firstFree 32, c.g.joins.firstFree 31 with
      | some fid, some j =>
        if 32 < nf ∨ 31 < nj then s.trap c 0x06 0 (nf + 256 * nj)
        else if 128 < s.poolUsed (gidCore c.gid) + 2 then
          (((s.putGroup c.gid (c.g.modFrag c.fid fun f => { f with state := .splitWait })).modCore (gidCore c.gid)
            fun k => { k with turn := none }).addDue
            (.splitWaitRetry (BitVec.ofNat 18 c.gid) (BitVec.ofNat 5 c.fid))).splitDeadlock (gidCore c.gid)
        else
          let s := s.commitTo c t false c.g
          s.modGroup c.gid fun g =>
            let f := g.frag c.fid c.f
            let old := { f with mask := taken, join := some j }
            let new := { f with mask := rest, join := some j, pc := c.f.pc + 8, hdr := c.f.pc + 8, run := 0 }
            { g with frags := (g.frags.put c.fid old).put fid new
                     joins := g.joins.put j ⟨reconvergence c.f.pc l, c.f.fmt, c.f.join, 2⟩ }
      | _, _ => s.trap c 0x06 0 (nf + 256 * nj)) s

/-- R192: JOIN is an arrival; with no join entry it is a branch to the fall-through successor. -/
def execJoin (s : State) : Out :=
  issue (plainReq true) (fun c s =>
    let s := s.commitTo c (c.f.pc + 4) false c.g
    match c.f.join with
    | none => s
    | some j => (s.modGroup c.gid fun g => g.arriveFrag c.fid j).settle c.gid) s

/-- R31, R204: EXIT removes every active lane of the fragment; the exit of its last lane is an arrival. -/
def execExit (s : State) : Out :=
  issue (plainReq true) (fun c s =>
    let s := s.commitTo c (c.f.pc + 4) false c.g
    (s.modGroup c.gid fun g =>
      let g := { g with frags := g.frags.erase c.fid }
      match c.f.join with
      | none => g
      | some j => g.arrive j).settle c.gid) s

/-! ### fmt, special registers and index descriptors (R59, R64, R196 to R199) -/

/-- R59: a value fmt may hold: no reserved code in RM, FA, FB or FC and no rsvd bit. -/
def fmtLegal (w : Word) : Bool :=
  decide ((w.extractLsb' 0 3).toNat ≤ 4) && decide ((w.extractLsb' 4 4).toNat ≤ 11)
    && decide ((w.extractLsb' 8 4).toNat ≤ 11) && decide ((w.extractLsb' 12 4).toNat ≤ 11)
    && (w.extractLsb' 24 8 == 0)

/-- Write the executing fragment's fmt. -/
def Group.setFmt (g : Group) (fid : Nat) (w : Word) : Group := g.modFrag fid fun f => { f with fmt := w }

/-- R196: FMTSET. -/
def execFmtset (d a b : BitVec 6) (s : State) : Out :=
  issue (plainReq true) (fun c s =>
    let m := (c.s b).extractLsb' 0 32
    let v := (c.s a).extractLsb' 0 32
    let new := (c.f.fmt &&& ~~~m) ||| (v &&& m)
    if fmtLegal new then s.commit c 4 ((c.g.setFmt c.fid new).setS d.toNat (c.f.fmt.zeroExtend 64))
    else s.trap c 0x02 0 new.toNat) s

/-- R196: FMTGET. -/
def execFmtget (d : BitVec 6) (s : State) : Out :=
  issue (plainReq true) (fun c s => s.commit c 4 (c.g.setS d.toNat (c.f.fmt.zeroExtend 64))) s

/-- R348: sr.scrub: the token the tenant took at its first instruction on the die, whether it is signed, and the
launch's demand flag. -/
def State.scrubWord (s : State) (gid : Nat) (g : Group) : Dword :=
  let x := s.die (gidDie gid)
  let seq := x.firstSeq.get (g.seqGiven.getD x.tokSeq) g.tenant.toNat
  BitVec.ofNat 64 (seq * 65536 + (if seq ∈ x.signed then 2 else 0) + (if g.demand then 1 else 0))

/-- R64: the special registers that a scalar receives. -/
def specialReg (s : State) (c : Ctx) (n : Nat) : Dword :=
  match n with
  | 0x02 => c.g.index.zeroExtend 64
  | 0x03 => c.g.gang.zeroExtend 64
  | 0x04 => c.g.grid.zeroExtend 64
  | 0x05 => BitVec.ofNat 64 (gidDie c.gid)
  | 0x06 => BitVec.ofNat 64 (gidCluster c.gid % 16)
  | 0x07 => BitVec.ofNat 64 (gidCore c.gid % 4)
  | 0x08 => c.g.depth.zeroExtend 64
  | 0x09 => BitVec.ofNat 64 (s.clock (gidDie c.gid))
  | 0x0A => c.f.fmt.zeroExtend 64
  | 0x0B => c.g.flags.zeroExtend 64
  | 0x0C => BitVec.ofNat 64 (c.g.ob.toNat * 65536 + c.g.cb.toNat)
  | 0x0D => c.g.tenant.zeroExtend 64
  | 0x0E => s.scrubWord c.gid c.g
  | 0x0F => BitVec.ofNat 64 c.gid
  | 0x10 => BitVec.ofNat 64 c.g.lanes
  | 0x11 => BitVec.ofNat 64 c.g.regs
  | _ => BitVec.ofNat 64 (s.ec c.gid c.g * 65536 + s.sc c.g * 256 + c.g.lc)

/-- R197: the scalar form accepts 0x02 to 0x12. -/
def execRdsrScalar (d n : BitVec 6) (s : State) : Out :=
  issue (plainReq (decide (2 ≤ n.toNat) && decide (n.toNat ≤ 0x12))) (fun c s =>
    s.commit c 4 (c.g.setS d.toNat (specialReg s c n.toNat))) s

/-- R26, R197: the per-lane form accepts sr.lane and sr.row. -/
def execRdsrLane (gd : BitVec 3) (d n : BitVec 7) (s : State) : Out :=
  issue ⟨decide (n.toNat ≤ 1), [vr d], gd.toNat, none, 4⟩ (fun c s =>
    s.commit c 4 (c.g.writeV d.toNat (c.lanes gd.toNat) fun l =>
      ⟨BitVec.ofNat 32 (if n = 0 then l else l / 32), false⟩)) s

/-- R198: WRSR writes sr.fmt or sr.flags; any other number traps. -/
def execWrsr (a n : BitVec 6) (s : State) : Out :=
  issue (plainReq (n == 0x0A || n == 0x0B)) (fun c s =>
    let v := c.s a
    if n = 0x0A then
      if v.extractLsb' 32 32 = 0 ∧ fmtLegal (v.extractLsb' 0 32) = true then
        s.commit c 4 (c.g.setFmt c.fid (v.extractLsb' 0 32))
      else s.trap c 0x02 0 v.toNat
    else if v.toNat < 256 then s.commit c 4 { c.g with flags := v.extractLsb' 0 8 }
    else s.trap c 0x02 0 v.toNat) s

/-- R56, R199: IDXSET keeps en, hi and lo of sa. -/
def execIdxset (a : BitVec 6) (k : BitVec 2) (s : State) : Out :=
  issue (plainReq true) (fun c s =>
    s.commit c 4 { c.g with idx := c.g.idx.set 0 k.toNat ((c.s a).extractLsb' 0 32 &&& 0xFF7F) }) s

/-! ### Calls, traps and breakpoints (R205 to R207) -/

/-- The fragment stays at its SYSC or TRAPI in call-wait. -/
def State.callWait (s : State) (c : Ctx) (w : CallWait) : State :=
  let g := c.g.countWindows c.fid
  let g := g.modFrag c.fid fun f => { f with state := .callWait, hold := .none, call := some w }
  (s.putGroup c.gid { g with instrs := g.instrs + 1 }).modCore (gidCore c.gid) fun k => { k with turn := none }

/-- R103: the operation number up to which a release at the issuing instruction must wait. -/
def Ctx.upto (c : Ctx) : Nat :=
  match c.f.hold with
  | .drain n => n
  | .fence n => n
  | _ => c.g.nextOp

/-- R205: SYSC. The release first; then the fragment waits, and the call record goes to the ring. -/
def execSysc (gd : BitVec 3) (a n : BitVec 7) (s : State) : Out :=
  issue ⟨true, (List.range 6).map (vrUp a), gd.toNat, none, 4⟩ (fun c s =>
    if !s.drained c.g c.upto then s.opWait c (.drain c.upto) else
    let callers := c.guarded gd.toNat
    let ls := lanesOf callers c.g.lanes
    let args := ls.flatMap fun l => (List.range 6).flatMap fun k => leBytes 4 (c.g.vreg l (a.toNat + k)).data.toNat
    let rec' := ringBytes 1 0 c.gid c.pc n.toNat c.g.tenant.toNat ls.length 0
      (leBytes 128 callers.toNat ++ args)
    let p := s.postRing (gidCluster c.gid) c.g.tenant ⟨1, c.gid, c.fid, 0, callers, 0, [], 0⟩ rec'
    (p.2.callWait c ⟨1, a.toNat, n.toNat, callers, some p.1⟩).settle c.gid) s

/-- R206: TRAPI. -/
def execTrapi (d : BitVec 6) (code : BitVec 18) (s : State) : Out :=
  issue (plainReq true) (fun c s =>
    if !s.drained c.g c.upto then s.opWait c (.drain c.upto) else
    let rec' := ringBytes 2 0 c.gid c.pc code.toNat c.g.tenant.toNat 0 (c.s d).toNat []
    let p := s.postRing (gidCluster c.gid) c.g.tenant ⟨2, c.gid, c.fid, 0, c.f.mask, 0, [], 0⟩ rec'
    (p.2.callWait c ⟨2, d.toNat, code.toNat, c.f.mask, some p.1⟩).settle c.gid) s

/-- R207, R377: BRK halts the group; its fragment stops after it. -/
def execBrk (code : BitVec 18) (s : State) : Out :=
  issue (plainReq true) (fun c s =>
    (s.commit c 4 c.g).takeException c.gid ⟨1, 0x0C, c.pc, 0, code.toNat⟩) s

/-- R172: an unassigned, reserved or ILL opcode, or a nonzero rsvd field, traps when it issues, under any guard. -/
def execUnassignedOpcode (_w : Word) (s : State) : Out := issue (plainReq false) (fun _ s => s) s

/-! ### The events of fragments and barriers -/

/-- R36: SPLIT_WAIT_RETRY: with two entries free the fragment is ready and its BRV issues again; with none, the wait of every
fragment of the core is looked for again, whatever has left the core since. -/
def execSplitWaitRetry (g : Gid) (f : BitVec 5) (s : State) : Out :=
  match s.group? g.toNat with
  | none => .next (s.dropDue (.splitWaitRetry g f))
  | some x =>
    match x.frags.find f.toNat with
    | some fr =>
      if fr.state = .splitWait then
        if s.poolUsed (gidCore g.toNat) + 2 ≤ 128 then
          .next ((s.putGroup g.toNat (x.modFrag f.toNat fun f => { f with state := .ready })).dropDue (.splitWaitRetry g f))
        else .next (s.splitDeadlock (gidCore g.toNat))
      else .next (s.dropDue (.splitWaitRetry g f))
    | none => .next (s.dropDue (.splitWaitRetry g f))

/-- R43: the root die takes a die's arrival message; with every die's, it sends its releases. -/
def execGangBarrierArrivalMessage (grid gang : Word) (die : BitVec 6) (s : State) : Out :=
  let e := Instr.gangBarrierArrivalMessage grid gang die
  if e ∉ s.due then .next s else
  let s := (s.dropDue e).modGang grid.toNat gang.toNat fun x => { x with dieMsgs := x.dieMsgs ||| BitVec.twoPow 64 die.toNat }
  match s.gang? grid.toNat gang.toNat with
  | none => .next s
  | some x =>
    if x.dies.all fun d => x.dieMsgs.getLsbD d then
      let s := s.modGang grid.toNat gang.toNat fun x =>
        { x with dieMsgs := 0, relWait := x.relWait ||| x.barr, barr := 0, bgen := x.bgen + 1 }
      .next (x.dies.foldl (fun s d => s.addDue (.gangBarrierReleaseMessage grid gang (BitVec.ofNat 6 d))) s)
    else .next s

/-- R43: a die receives the release and releases its groups. -/
def execGangBarrierReleaseMessage (grid gang : Word) (die : BitVec 6) (s : State) : Out :=
  let e := Instr.gangBarrierReleaseMessage grid gang die
  if e ∉ s.due then .next s else
  let s := s.dropDue e
  match s.gang? grid.toNat gang.toNat with
  | none => .next s
  | some x =>
    let who := (x.groupsOn die.toNat).filter fun i => x.relWait.getLsbD i
    let s := s.modGang grid.toNat gang.toNat fun x =>
      { x with relWait := who.foldl (fun m i => m &&& ~~~(BitVec.twoPow 16 i)) x.relWait }
    .next (s.releaseGang x who)

end Sys2Proof.Machine
end

