-- ==== Sys2Proof/Machine/Translate.lean ====
section
/-!
DEFINITION. Translation and reverse ownership: the walk, the ownership check, the cluster translation buffer and
the life of a parked access (04 R83 to R96, 14 R338, 18 R385, R386, 20 R412).
-/

namespace Sys2Proof.Machine

/-! ### Page numbers -/

/-- R93: the page of an address, VA[.:16]; a non-canonical address keeps its high bits. -/
def pageOf (va : Nat) : Nat := va / 65536
def lineOf (pa : Nat) : Nat := pa / 128

/-- What an access asks of its leaf (R86) and its code in a fault record (R95). -/
structure Want where
  r : Bool
  w : Bool
  x : Bool
  code : Nat
deriving DecidableEq, Repr

def Want.load : Want := ⟨true, false, false, 0⟩
def Want.store : Want := ⟨false, true, false, 1⟩
def Want.atomic : Want := ⟨true, true, false, 2⟩
def Want.fetch : Want := ⟨false, false, true, 3⟩
def Want.push : Want := ⟨false, true, false, 4⟩
def Want.copyRead : Want := ⟨true, false, false, 5⟩
def Want.copyWrite : Want := ⟨false, true, false, 5⟩
def Want.distRead : Want := ⟨true, false, false, 6⟩
def Want.distWrite : Want := ⟨false, true, false, 6⟩
/-- R256: cache maintenance needs no permission of the leaf; it is checked as a load by R90. -/
def Want.maint : Want := ⟨false, false, false, 0⟩

/-- What a walk ends in: a translation, a fault with its kind and level, a scrub-pending frame with the translation that
names it, or a die that is not reached, which ends it with fault kind 4 (R338). -/
inductive WalkRes where
  | ok (e : CtbEntry)
  | fault (kind level : Nat)
  | scrub (e : CtbEntry) (frame : Nat)
  | closed (home : Nat)
deriving DecidableEq, Repr

/-- Bits [hi:lo] of a number. -/
def bits (v hi lo : Nat) : Nat := v / 2 ^ lo % 2 ^ (hi + 1 - lo)

/-- R84: an address space's entry in a die's space table. -/
def State.spaceEntry (s : State) (d asn : Nat) : Nat := s.deviceNat (d * 2 ^ 37 + 0x1000000 + 8 * asn) 8

/-- R75, R89: a frame's ownership entry; a register frame has state firmware. -/
def State.ownEntry (s : State) (pa : Nat) : Nat :=
  if regFrame (paOff pa) then 4 * 4096 else s.deviceNat (paDie pa * 2 ^ 37 + 8 * (paOff pa / 65536)) 8
def ownState (e : Nat) : Nat := bits e 14 12
def ownOwner (e : Nat) : Nat := bits e 11 0

/-- R87: a table entry as a walk of a die reads it: levels 1 and 2 through the MTU's table-entry cache. -/
def State.tableEntry (s : State) (d asn level pa : Nat) : Nat :=
  match if level ≤ 2 then (s.die d).tcache.find (asn * 2 ^ 43 + pa) else none with
  | some e => e
  | none => s.deviceNat pa 8

/-- R85: one level of a walk by die `d`; `table` is PA[42:16] of the level's table. Answers the leaf entry, its
level and the physical address, or how the walk ends without one. `n` levels are left below this one. -/
def State.walkFrom (s : State) (d asn va : Nat) : Nat → Nat → Nat → (Nat × Nat × Nat) ⊕ WalkRes
  | 0, _, level => .inr (.fault 5 level)
  | n + 1, table, level =>
    let pa := table * 65536
    if !s.linked d (paDie pa) then .inr (.closed (paDie pa))
    else if inHole pa then .inr (.fault 3 level) else
    let idx := bits va (54 - 13 * (level - 1)) (42 - 13 * (level - 1))
    let e := s.tableEntry d asn level (pa + 8 * idx)
    let typ := bits e 1 0
    let rsvd := bits e 63 43 ≠ 0 ∨ bits e 15 10 ≠ 0 ∨ bits e 2 2 ≠ 0
    let addr := bits e 42 16
    let low := if level = 1 then bits e 41 16 else if level = 2 then bits e 28 16 else 0
    if typ = 0 then .inr (.fault 0 level)
    else if typ = 3 ∨ rsvd then .inr (.fault 5 level)
    else if typ = 1 then
      if level = 3 then .inr (.fault 5 level) else s.walkFrom d asn va n addr (level + 1)
    else if low ≠ 0 ∨ bits e 7 6 = 3 then .inr (.fault 5 level)
    else .inl (e, level, addr * 65536 + va % 2 ^ (16 + 13 * (3 - level)))

/-- R87: the entries of types 1 and 2, malformed ones too, that a walk reads at levels 1 and 2 stay in the cache until it is
invalidated (DEDUCED, log 15). -/
def State.walkFill (s : State) (d asn va : Nat) : Nat → Nat → Nat → State
  | 0, _, _ => s
  | n + 1, table, level =>
    let pa := table * 65536 + 8 * bits va (54 - 13 * (level - 1)) (42 - 13 * (level - 1))
    let e := s.tableEntry d asn level pa
    let typ := bits e 1 0
    if 2 < level ∨ (typ ≠ 1 ∧ typ ≠ 2) ∨ s.linked d (paDie pa) = false then s else
    let s := s.modDie d fun x => { x with tcache := x.tcache.put (asn * 2 ^ 43 + pa) e }
    if typ = 1 then s.walkFill d asn va n (bits e 42 16) (level + 1) else s

/-- R90: the ownership check of a frame. `priv` is a service core in S- or M-mode. `none`: proceeds. -/
def ownCheck (own tenant : Nat) (want : Want) (priv : Bool) : Option Nat :=
  if bits own 63 17 ≠ 0 ∨ 5 ≤ ownState own then (if priv then none else some 5)
  else if priv then none
  else
    match ownState own with
    | 1 => if ownOwner own = tenant then none else some 4
    | 3 => if want.w then some 4 else none
    | _ => some 4

/-- R83: the offset bits of the page that a leaf of a level maps. -/
def pageBits (level : Nat) : Nat := 16 + 13 * (3 - level)

/-- R87, R90: the translation that a leaf entry of a space gives, for its whole page, with the ownership decision of the frame
which the walk met. -/
def mkEntry (asn va sp e level pa own : Nat) (priv : Bool) : CtbEntry :=
  let bit := fun n => bits e n n == 1
  { asn := BitVec.ofNat 16 asn, vpn := va / 2 ^ pageBits level * 2 ^ (pageBits level - 16), level := level,
    frame := pa / 2 ^ pageBits level * 2 ^ (pageBits level - 16), r := bit 3, w := bit 4, x := bit 5,
    tr := bits e 7 6, l2c := bit 8, psh := bit 9, frames := [(va / 65536, ⟨ownState own == 3, bits own 16 16 == 1⟩)],
    tenant := BitVec.ofNat 12 (bits sp 63 52), priv := priv, written := false }

/-- R84 to R86, R90, R338: a walk by die `d` for an access in address space `asn`. An entry that is scrub-pending with a rsvd
bit set parks an access with kind 5 (DESIGN CHOICE, log 50); a service core takes its access fault either way. -/
def State.walk (s : State) (d asn va : Nat) (want : Want) (priv : Bool) : WalkRes :=
  if 2 ^ 55 ≤ va then .fault 2 0 else
  let sp := s.spaceEntry d asn
  if bits sp 0 0 = 0 ∨ bits sp 51 43 ≠ 0 ∨ bits sp 15 1 ≠ 0 then .fault 5 0 else
  match s.walkFrom d asn va 3 (bits sp 42 16) 1 with
  | .inr r => r
  | .inl (e, level, pa) =>
    if inHole pa then .fault 3 level
    else if !s.linked d (paDie pa) then .closed (paDie pa)
    else
      let own := s.ownEntry pa
      let entry := mkEntry asn va sp e level pa own priv
      if ownState own = 2 ∧ (priv = true ∨ bits own 63 17 = 0) then .scrub entry (pa / 65536)
      else
        match ownCheck own (bits sp 63 52) want priv with
        | some k => .fault k (if k = 5 then level else 0)
        | none =>
          if (want.r && !entry.r) || (want.w && !entry.w) || (want.x && !entry.x) then .fault 1 level
          else .ok entry

/-! ### The cluster translation buffer (R87, R88, R91) -/

/-- R87: the entry's page, of its own size, holds the 64 KiB page. -/
def CtbEntry.covers (e : CtbEntry) (vpn : Nat) : Bool := e.vpn == vpn / 2 ^ (pageBits e.level - 16) * 2 ^ (pageBits e.level - 16)

/-- The physical address that an entry gives an address of its page. -/
def CtbEntry.pa (e : CtbEntry) (va : Nat) : Nat := e.frame * 65536 + va % 2 ^ pageBits e.level

/-- R86, R87, R90: a translation the buffer holds, with the decision of the frame touched, that lets the access proceed. -/
def Cluster.ctbHit (c : Cluster) (asn : BitVec 16) (vpn : Nat) (want : Want) (priv : Bool) : Option CtbEntry :=
  c.ctb.find? fun e => e.asn == asn && e.covers vpn && (e.priv == priv)
    && ((e.frames.find vpn).map fun o => !(want.w && o.shared && !priv)).getD false
    && !(want.r && !e.r) && !(want.w && !e.w) && !(want.x && !e.x)

/-- R86: PT of the frame that a page of a translation lies in. -/
def CtbEntry.pt (e : CtbEntry) (vpn : Nat) : Bool := ((e.frames.find vpn).map (·.pt)).getD false

/-- R87: two translations of one mapping: a walk to another frame of a large page adds that frame's decision to what is held. -/
def CtbEntry.joins (x e : CtbEntry) : Bool :=
  decide ({ x with frames := [], written := false } = { e with frames := [], written := false })

/-- R87, R90: fill a translation; a full buffer gives one up (DESIGN CHOICE, log 5). DEDUCED: log 38. -/
def Cluster.ctbFill (c : Cluster) (e : CtbEntry) (k : Nat) : Cluster :=
  let e := match c.ctb.find? fun x => x.joins e with
    | some x => { e with frames := e.frames.foldl (fun m f => m.put f.1 f.2) x.frames }
    | none => e
  let rest := c.ctb.filter fun x => !(x.asn == e.asn && x.vpn == e.vpn && x.level == e.level && x.priv == e.priv)
  let rest := if rest.length < 2048 then rest else rest.eraseIdx (Config.victim k % 2048)
  { c with ctb := rest ++ [e] }

/-- R91: D is set in the ownership entry of the frame of an address. -/
def State.setDirty (s : State) (pa : Nat) : State :=
  let at' := paDie pa * 2 ^ 37 + 8 * (paOff pa / 65536) + 1
  s.deviceWrite at' [s.deviceByte at' ||| 0x80]

/-- R91: a write to the pages of `vas` through a translation whose written flag is 0 sets D in every ownership entry that it
touches, then the flag. -/
def State.markAll (s : State) (c : Nat) (e : CtbEntry) (vas : List Nat) : State :=
  if e.written then s else
  let s := (vas.map pageOf).dedup.foldl (fun s v => s.setDirty (e.pa (v * 65536))) s
  s.modCluster c fun x => { x with ctb := x.ctb.map fun t => if t == e then { t with written := true } else t }

/-- R91: a write to one address. -/
def State.markWritten (s : State) (c : Nat) (e : CtbEntry) (va : Nat) : State := s.markAll c e [va]

/-! ### Parked accesses (R92 to R95) -/

/-- The die of an access that can park, and what its fault record and its members need: asn, tenant, group, pc and
the core's cluster. -/
structure Party where
  cluster : Nat
  asn : BitVec 16
  tenant : BitVec 12
  gid : Nat
  pc : Nat
deriving DecidableEq, Repr

/-- R93: what an entry's key holds of a page: VA[54:16]. -/
def pageKey (vpn : Nat) : Nat := vpn % 2 ^ 39

/-- R93: the entry of a page of an address space in a die's quag, in one of two states. -/
def Die.quagOf (x : Die) (asn : BitVec 16) (vpn : Nat) (st : QuagSt) : Option (Nat × Quag) :=
  x.quag.find? fun e => e.2.asn == asn && pageKey e.2.vpn == pageKey vpn && e.2.st == st

/-- R93: an access joins an entry, with its page. -/
def State.joinQuag (s : State) (d n : Nat) (q : Quag) (m : MemRef × Nat) : State :=
  s.modDie d fun x => { x with quag := x.quag.put n { q with members := if m ∈ q.members then q.members else q.members ++ [m] } }

/-- R38, R92: an access is parked in a die's quag for a page; it waits there, or in the walk queue, which is only latency. -/
def State.parkedAt (s : State) (d : Nat) (asn : BitVec 16) (vpn : Nat) (who : MemRef) : Bool :=
  (s.die d).quag.any fun e => e.2.asn == asn && e.2.st != .rewalk && decide ((who, vpn) ∈ e.2.members)
def State.waitsAt (s : State) (d : Nat) (asn : BitVec 16) (vpn : Nat) (who : MemRef) : Bool :=
  s.parkedAt d asn vpn who || ((s.die d).walkQ.any fun w => w.asn == asn && w.vpn == vpn && decide (w.who = who))

/-- R95: the 32 bytes of a fault record. -/
def faultRecord (va gid asn kind access entry level clock : Nat) : List Byte :=
  leBytes 8 va ++ leBytes 4 gid ++ leBytes 2 asn ++ leBytes 1 kind ++ leBytes 1 access ++ leBytes 2 entry
    ++ leBytes 1 level ++ leBytes 5 0 ++ leBytes 8 clock

/-- R92, R95, R385, R412: an access parks: its entry is taken, the fault record goes to the service core of its
cluster (or to the host, R356), and the timer starts. `level` and `kind` are the walk's. -/
def State.takeQuag (s : State) (p : Party) (vpn va kind level : Nat) (want : Want) (who : MemRef) (entry : Nat) : State :=
  let d := p.cluster / 16
  let now := s.clock d
  let q : Quag := ⟨.parked, p.asn, vpn, p.cluster, p.tenant, va, p.gid, kind, want.code, level, now, BitVec.ofNat 64 p.pc, [(who, vpn)], [], 0⟩
  let s := s.modDie d fun x => { x with quag := x.quag.put entry q }
  let s :=
    if kind = 2 ∨ kind = 4 ∨ kind = 5 then
      s.record d (mkRec 1 3 (if kind = 2 then 1 else if kind = 4 then 2 else 3) 14 p.tenant.toNat p.gid (unitOf 4 d) p.pc va entry)
    else s
  let s := s.addDue (.parkingTimeout (BitVec.ofNat 6 d) (BitVec.ofNat 10 entry))
  if (s.die d).fmode.getLsbD 0 && (kind == 0 || kind == 1 || kind == 3) then s.tellHost d (.fault d entry)
  else
    (s.postRing p.cluster p.tenant ⟨3, p.gid, 0, entry, 0, 0, [], 0⟩
      (ringBytes 3 0 p.gid 0 0 p.tenant.toNat 0 0
        (faultRecord va p.gid p.asn.toNat kind want.code entry level now))).2

/-- R92, R412: the lowest free quag entry, if the die's quag has room and the tenant is below its share of 256. -/
def Die.quagRoom (x : Die) (tenant : BitVec 12) : Option Nat :=
  if (x.quag.filter fun e => e.2.tenant == tenant).length < 256 then x.quag.firstFree 1024 else none

/-- R92, R411, R412: an access waits in the walk queue; one of a tenant that holds 256 entries is a flood. -/
def State.queueWalk (s : State) (p : Party) (vpn : Nat) (who : MemRef) : State :=
  let d := p.cluster / 16
  let t := p.tenant.toNat
  let full := decide (256 ≤ ((s.die d).quag.filter fun e => e.2.tenant == p.tenant).length)
  let s := if full then s.rated d (0x21, 2, t) fun n => mkRec 1 0x21 2 2 t 0 (unitOf 4 d) 0 0 n else s
  (s.modDie d fun x => { x with walkQ := x.walkQ ++ [⟨p.cluster, p.asn, vpn, who⟩] }).addDue (.quagRoomFreed (BitVec.ofNat 6 d))

/-- R92, R93: the access joins its page's parked entry, takes a new one, or waits for room in the walk queue; whether it
has parked is answered too. -/
def State.park (s : State) (p : Party) (vpn va kind level : Nat) (want : Want) (who : MemRef) : Bool × State :=
  let d := p.cluster / 16
  match (s.die d).quagOf p.asn vpn .parked with
  | some (n, q) => (true, s.joinQuag d n q (who, vpn))
  | none =>
    match (s.die d).quagRoom p.tenant with
    | some n => (true, s.takeQuag p vpn va kind level want who n)
    | none => (false, s.queueWalk p vpn who)

/-- R94: an access to a scrub-pending frame waits in the quag; the entry is reread, not timed. One whose page has an entry
in state parked joins that one (DESIGN CHOICE, log 50). -/
def State.parkScrub (s : State) (p : Party) (vpn va level frame : Nat) (want : Want) (who : MemRef) : Bool × State :=
  let d := p.cluster / 16
  match ((s.die d).quagOf p.asn vpn .scrubWait).orElse fun _ => (s.die d).quagOf p.asn vpn .parked with
  | some (n, q) => (true, s.joinQuag d n q (who, vpn))
  | none =>
    match (s.die d).quagRoom p.tenant with
    | some n =>
      let q : Quag := ⟨.scrubWait, p.asn, vpn, p.cluster, p.tenant, va, p.gid, 0, want.code, level, s.clock d,
        BitVec.ofNat 64 p.pc, [(who, vpn)], [], frame⟩
      (true, (s.modDie d fun x => { x with quag := x.quag.put n q }).addDue (.scrubWaitReread (BitVec.ofNat 6 d) (BitVec.ofNat 10 n)))
    | none => (false, s.queueWalk p vpn who)

/-- R325: a byte of a supplied line of 16 doublewords. -/
def lineByte (ds : List Dword) (i : Nat) : Byte := (ds.getD (i / 8) 0).extractLsb' (8 * (i % 8)) 8

/-- R96: an answer that an access awaits for a page. -/
def State.answerFor (s : State) (who : MemRef) (vpn : Nat) : Option Answer :=
  (s.answers.find? fun a => decide (a.who = who) && a.vpn == vpn).map (·.ans)

/-- R96, R325: a byte supplied for an access by an emulate-load answer. -/
def State.supplied (s : State) (who : MemRef) (va : Nat) : Option Byte :=
  (s.answers.filter fun a => decide (a.who = who) && a.vpn == pageOf va).findSome? fun a =>
    match a.ans with
    | .lines m => (m.find (va % 65536 / 128)).map fun ds => lineByte ds (va % 128)
    | _ => none

/-- The answers of an access are used up. -/
def State.dropAnswers (s : State) (who : MemRef) : State := { s with answers := s.answers.filter fun a => !decide (a.who = who) }

/-- An access asks for a translation it lacks: a walk, unless it waits there already. -/
def State.askWalk (s : State) (c : Nat) (asn : BitVec 16) (vpn : Nat) (who : MemRef) : State :=
  if s.dies.any fun e => s.waitsAt e.1 asn vpn who then s else s.addDue (.pageWalk (BitVec.ofNat 10 c) asn vpn who)

/-- Translate one byte address of an access through its cluster's buffer; a miss asks for a walk. DEDUCED: log 37. -/
def State.lookup (s : State) (c : Nat) (asn : BitVec 16) (va : Nat) (want : Want) : Option CtbEntry :=
  if 2 ^ 55 ≤ va then none else (s.cluster c).ctbHit asn (pageOf va) want false

end Sys2Proof.Machine
end

