-- ==== Sys2Proof/Machine/Coherence.lean ====
section
/-!
DEFINITION. The coherence hierarchy: L1 lines, home directories, invalidations, recalls and grants, and the
accesses that engines, bank ALUs and pushes make at home (04 R78, 05 R111 to R124, 18 R387 to R390).
-/

namespace Sys2Proof.Machine

/-! ### Home memory and poison (R388) -/

/-- R2: the 128 bytes of a line at its home. -/
def State.homeLine (s : State) (line : Nat) : List Byte := s.readBytes (128 * line) 128

/-- R387: a poisoned 32-byte sector holds the byte. -/
def State.poisoned (s : State) (pa : Nat) : Bool := decide (pa / 32 ∈ s.poison)

/-- R126: the reservation of the service core whose cache loses a line. -/
def State.loseResv (s : State) (cache line : Nat) : State :=
  if cache % 5 = 4 then s.breakResv fun c l => c == cache / 5 && l == line else s

/-- R388: the marks of a line's four sectors. -/
def State.marks (s : State) (line : Nat) : BitVec 4 :=
  [0, 1, 2, 3].foldl (fun m i => if 4 * line + i ∈ s.poison then m ||| BitVec.twoPow 4 i else m) 0

/-- R388: the sectors of a list are marked. -/
def State.markSectors (s : State) (ks : List Nat) : State := { s with poison := s.poison ++ ks.filter fun k => decide (k ∉ s.poison) }

/-- R107: the bytes that a copy has written go home, with the marks the copy carries. -/
def State.putLine (s : State) (line : Nat) (l : L1Line) : State :=
  let s := s.writeHome (((List.range 128).filter fun i => l.dirty.getLsbD i).map fun i => (128 * line + i, l.data.getD i 0))
  s.markSectors (([0, 1, 2, 3].filter fun i => l.psn.getLsbD i).map fun i => 4 * line + i)

/-- R388: a sector becomes poisoned: one record of class 0x04, cause 0x03, severity 1, or 3 in a firmware frame. -/
def State.makePoison (s : State) (sector : Nat) : State :=
  if sector ∈ s.poison then s else
  let pa := 32 * sector
  let own := s.ownEntry pa
  let fw := ownState own == 4
  (s.markSectors [sector]).record (paDie pa)
    (mkRec (if fw then 3 else 1) 4 3 (8 + if ownState own = 1 then 2 else 0) (ownOwner own) 0 (hbmUnit pa) 0 pa 0)

/-! ### Directories (R112) -/

/-- The die that homes a line. -/
def lineDie (line : Nat) : Nat := paDie (128 * line)

/-- The clusters of die d whose filters may list the region. -/
def State.dirClusters (s : State) (d region : Nat) : List Nat :=
  (List.range 16).filterMap fun c => if ((s.die d).dieDir.get 0 region).getLsbD c then some (16 * d + c) else none

/-- R112: the L1s that the directories list as holders of a line. -/
def State.holders (s : State) (line : Nat) : List Nat :=
  let e := (s.die (lineDie line)).home.get ⟨0, []⟩ (line / 4)
  ((List.range 64).filter fun d => e.dies.getLsbD d).flatMap fun d =>
    (s.dirClusters d (line / 4)).flatMap fun c =>
      (List.range 5).filterMap fun k => if ((s.cluster c).filter.get 0 line).getLsbD k then some (5 * c + k) else none

/-- R112: record a holder in its cluster filter, die directory and home directory. -/
def State.addHolder (s : State) (line cache : Nat) : State :=
  let c := cache / 5
  let s := s.modCluster c fun x => { x with filter := x.filter.set 0 line (x.filter.get 0 line ||| BitVec.twoPow 5 (cache % 5)) }
  let s := s.modDie (c / 16) fun x => { x with dieDir := x.dieDir.set 0 (line / 4) (x.dieDir.get 0 (line / 4) ||| BitVec.twoPow 16 (c % 16)) }
  s.modDie (lineDie line) fun x =>
    let e := x.home.get ⟨0, []⟩ (line / 4)
    { x with home := x.home.put (line / 4) { e with dies := e.dies ||| BitVec.twoPow 64 (c / 16) } }

/-- A cache no longer listed for a line. -/
def State.dropHolder (s : State) (line cache : Nat) : State :=
  s.modCluster (cache / 5) fun x => { x with filter := x.filter.set 0 line (x.filter.get 0 line &&& ~~~(BitVec.twoPow 5 (cache % 5))) }

/-- R112: the die that holds the line in M, if one does. -/
def State.mDie (s : State) (line : Nat) : Option Nat := ((s.die (lineDie line)).home.get ⟨0, []⟩ (line / 4)).m.find (line % 4)
def State.setMDie (s : State) (line : Nat) (d : Option Nat) : State :=
  s.modDie (lineDie line) fun x =>
    let e := x.home.get ⟨0, []⟩ (line / 4)
    { x with home := x.home.put (line / 4) { e with m := match d with | some d => e.m.put (line % 4) d | none => e.m.erase (line % 4) } }

/-- The cache that holds a line in M. -/
def State.mCache (s : State) (line : Nat) : Option Nat :=
  (s.mDie line).bind fun d => (s.holders line).find? fun k =>
    decide (k / 80 = d) && (((s.cache k).lines.find line).map fun l => l.st == LineSt.m).getD false

/-- R112, R119: the home directory's next sequence number. -/
def State.homeNext (s : State) (line : Nat) : Word × State :=
  let q := (s.die (lineDie line)).homeSeq + 1
  (q, s.modDie (lineDie line) fun x => { x with homeSeq := q })

/-- R114: the home serves requests to one line one at a time. -/
def State.lineBusy (s : State) (line : Nat) : Bool := (s.die (lineDie line)).txns.any fun t => t.line == line

/-! ### L1 lines -/

/-- R14, R78: the lines that compete with `line` for room in cache `k`, and the room: 8 ways of a set, or in a service
core's data cache of 64 KiB any of 512 lines (DESIGN CHOICE, log 5). -/
def Cache.mates (x : Cache) (k line : Nat) : List (Nat × L1Line) :=
  x.lines.filter fun e => (k % 5 == 4 || e.1 % 256 == line % 256) && e.1 != line
def cacheWays (k : Nat) : Nat := if k % 5 = 4 then 512 else 8

/-- R113, R116: an eviction: M is written back; other states go silently. A line homed on a die that is not reached is lost. -/
def State.evict (s : State) (k line : Nat) : State :=
  match (s.cache k).lines.find line with
  | none => s
  | some l =>
    let s := (s.modCache k fun x => { x with lines := x.lines.erase line, charge := x.charge.erase line }).loseResv k line
    if l.st = .m && s.linked (k / 80) (lineDie line) then ((s.putLine line l).setMDie line none).dropHolder line k
    else s

/-- Install a line; a full set gives one up (DESIGN CHOICE, log 5). -/
def State.install (s : State) (k line : Nat) (l : L1Line) : State :=
  let mates := (s.cache k).mates k line
  let s :=
    if mates.length < cacheWays k ∨ (s.cache k).lines.has line then s else
    let v := (mates.getD (Config.victim s.fresh % cacheWays k) (0, l)).1
    { s.evict k v with fresh := s.fresh + 1 }
  s.modCache k fun x => { x with lines := x.lines.put line l }

/-- R123: a local load or near atomic that hits consumes the line. -/
def State.consume (s : State) (k line : Nat) : State :=
  if (s.cache k).charge.has line && (s.cache k).lines.has line then
    s.modCache k fun x => { x with charge := x.charge.erase line }
  else s

/-! ### Requests to the home (R113, R114) -/

/-- R114: the home sends a fill, or grants M, stamped with its next number, and lists the holder. -/
def State.grant (s : State) (line cache : Nat) (own : Bool) : State :=
  let (q, s) := s.homeNext line
  let s := s.addHolder line cache
  let s := if own then s.setMDie line (some (cache / 80)) else s
  s.addDue (.fillGrantReceived cache line own q (s.homeLine line))

/-- R113, R119: a load that misses asks the home for the line: a copy in M is recalled first. `who` waits on a fill that is
pending already, unless a newer write has overtaken it. -/
def State.requestFill (s : State) (cache line : Nat) (who : Option (Nat × Nat)) : State :=
  match (s.cache cache).miss.find line with
  | some m =>
    if m.inval.isSome then s else
    s.modCache cache fun x =>
      { x with miss := x.miss.put line { m with waiters := m.waiters ++ who.toList.filter fun w => decide (w ∉ m.waiters) } }
  | none =>
    if s.lineBusy line || s.heldBack (cache / 80) (lineDie line) then s else
    let s := s.modCache cache fun x => { x with miss := x.miss.put line ⟨who.toList, none, s.clock (cache / 80)⟩ }
    match s.mCache line with
    | some h =>
      (s.modDie (lineDie line) fun x => { x with txns := x.txns ++ [⟨line, cache, false, [h], s.clock (lineDie line)⟩] }).addDue (.recallReceived h line false)
    | none => s.grant line cache false

/-- R114: the row HOME_OWNERSHIP_REQUEST: recall, invalidations to the listed holders, then the grant of M. A request
that does not reach its home ends here. -/
def execHomeOwnershipRequest (cache line : Nat) (s : State) : Out :=
  let e := Instr.homeOwnershipRequest cache line
  if e ∉ s.due ∨ s.lineBusy line then .next s else
  let s := s.dropDue e
  if !s.linked (cache / 80) (lineDie line) || (((s.cache cache).lines.find line).map fun l => l.st == LineSt.m).getD false then .next s else
  let m := s.mCache line
  let others := (s.holders line).filter fun k => k != cache && m != some k
  let (q, s) := if others.isEmpty then (0, s) else s.homeNext line
  let acks := m.toList ++ others
  let s := s.modDie (lineDie line) fun x => { x with txns := x.txns ++ [⟨line, cache, true, acks, s.clock (lineDie line)⟩] }
  let s := m.toList.foldl (fun s k => s.addDue (.recallReceived k line true)) s
  let s := others.foldl (fun s k => s.addDue (.invalidationReceived k line q)) s
  .next (if acks.isEmpty then s.grant line cache true else s)

/-- R114: an acknowledgement reaches the home; the last one lets the waiting request proceed. -/
def State.acked (s : State) (line cache : Nat) : State :=
  let x := s.die (lineDie line)
  match x.txns.find? fun t => t.line == line with
  | none => s
  | some t =>
    let t' := { t with acks := t.acks.erase cache }
    let last := t.acks ≠ [] ∧ t'.acks = []
    let keep := !last || t.own
    let s := s.modDie (lineDie line) fun x =>
      { x with txns := if keep then x.txns.map fun u => if u == t then t' else u else x.txns.erase t }
    if last ∧ t.cache < 5120 then s.grant line t.cache t.own else s

/-- R119: of two numbers of one home the newer one. -/
def newerSeq (o : Option Word) (q : Word) : Word :=
  match o with
  | some i => if (q - i).toNat < 2 ^ 31 then q else i
  | none => q

/-- R119: a pending fill takes note of a number that its data may be older than. -/
def Cache.noteSeq (x : Cache) (line : Nat) (q : Word) : Cache :=
  match x.miss.find line with
  | some m => { x with miss := x.miss.put line { m with inval := some (newerSeq m.inval q) } }
  | none => x

/-- R113, R119: an L1 acknowledges an invalidation at once; it drops an S copy, and a pending fill takes note. -/
def State.invalidate (s : State) (cache line : Nat) (q : Word) : State :=
  let s := (s.loseResv cache line).modCache cache fun x =>
    { x.noteSeq line q with lines := match x.lines.find line with
                                    | some l => if l.st = .s then x.lines.erase line else x.lines
                                    | none => x.lines }
  if (s.cache cache).miss.has line then s else s.dropHolder line cache

/-- R389, R390: a recall or an invalidation is answered with an error, since the die of its cache is fenced: a record of class
0x05, cause 0x03, for the owner; a line that the die held in M is poisoned at home, and the copy counts as gone. -/
def State.lostCopy (s : State) (cache line : Nat) : State :=
  let own := s.ownEntry (128 * line)
  let s := s.record (lineDie line) (mkRec 2 5 3 (8 + if ownState own = 1 then 2 else 0) (ownOwner own) 0 (l2Unit (128 * line)) 0 (128 * line) 0)
  let lost := s.mDie line == some (cache / 80)
  let s := (s.modCache cache fun x => { x with lines := x.lines.erase line }).dropHolder line cache
  if lost then [0, 1, 2, 3].foldl (fun s i => s.makePoison (4 * line + i)) (s.setMDie line none) else s

/-- R119, R390: INVALIDATION_RECEIVED, or its answer with an error. -/
def execInvalidationReceived (cache line : Nat) (q : Word) (s : State) : Out :=
  let e := Instr.invalidationReceived cache line q
  if e ∉ s.due then .next s else
  let s := s.dropDue e
  .next ((if s.reach (lineDie line) (cache / 80) then s.invalidate cache line q else s.lostCopy cache line).acked line cache)

/-- R113: an M copy is written back, and stays in S or goes. -/
def State.writeBack (s : State) (cache line : Nat) (own : Bool) : State :=
  match (s.cache cache).lines.find line with
  | none => s
  | some l =>
    let s := if l.st = .m then (s.putLine line l).setMDie line none else s
    if own then ((s.loseResv cache line).modCache cache fun x => { x with lines := x.lines.erase line }).dropHolder line cache
    else s.modCache cache fun x => { x with lines := x.lines.put line { l with st := if l.st = .m then .s else l.st, dirty := 0 } }

/-- R113, R390: RECALL_RECEIVED: for read an M line goes to S, for ownership to I; or its answer with an error. -/
def execRecallReceived (cache line : Nat) (own : Bool) (s : State) : Out :=
  let e := Instr.recallReceived cache line own
  if e ∉ s.due then .next s else
  let s := s.dropDue e
  .next ((if s.reach (lineDie line) (cache / 80) then s.writeBack cache line own else s.lostCopy cache line).acked line cache)

/-- R389: a message that the state tables never produce: severity 2 for the owner, the line is poisoned at home
and every copy is invalidated. -/
def State.protocolError (s : State) (line : Nat) : State :=
  let own := s.ownEntry (128 * line)
  let s := s.record (lineDie line) (mkRec 2 5 2 (8 + if ownState own = 1 then 2 else 0) (ownOwner own) 0 (l2Unit (128 * line)) 0 (128 * line) 0)
  let s := (s.holders line).foldl (fun s k => (s.modCache k fun x => { x with lines := x.lines.erase line }).dropHolder line k) s
  [0, 1, 2, 3].foldl (fun s i => s.makePoison (4 * line + i)) (s.setMDie line none)

/-! ### Accesses made at home (R80, R111, R118, R121) -/

/-- R80, R111, R121, R390: before an access at home, a copy in M is recalled; before a write, copies outside `keep` go. A
cache that is not reached answers with an error. -/
def State.homeSync (s : State) (line : Nat) (write : Bool) (keep : List Nat) : State :=
  let near := fun (s : State) (k : Nat) => s.reach (lineDie line) (k / 80)
  let s := match s.mCache line with
    | some k => if near s k then s.writeBack k line (write && decide (k ∉ keep)) else s.lostCopy k line
    | none => s
  if !write then s else
  let ks := (s.holders line).filter fun k => decide (k ∉ keep)
  if ks.isEmpty then s else
  let (q, s) := s.homeNext line
  ks.foldl (fun s k => if near s k then s.invalidate k line q else s.lostCopy k line) s

/-- The lines of `n` bytes from `pa`. -/
def linesOf (pa n : Nat) : List Nat := if n = 0 then [] else (List.range ((pa + n - 1) / 128 + 1 - pa / 128)).map fun i => pa / 128 + i

/-- Engine reads of physical bytes at home, on a page of treatment `tr`. -/
def State.homeRead (s : State) (pa n tr : Nat) : State × List Byte :=
  let s := if tr = 0 then (linesOf pa n).foldl (fun s l => s.homeSync l false []) s else s
  (s, s.readBytes pa n)

/-- Engine writes at home. -/
def State.homeWrite (s : State) (tr : Nat) (ws : List (Nat × Byte)) : State :=
  let s := if tr = 0 then ((ws.map fun w => w.1 / 128).dedup).foldl (fun s l => s.homeSync l true []) s else s
  s.writeHome ws

/-- R79: lines that an access at home touches, each with its leaf's L2C. -/
def State.l2Lines (s : State) (ls : List (Nat × Bool)) : State := ls.foldl (fun s l => s.l2Use l.1 l.2) s

/-- Whether a grant is on its way for a line that an access at home would touch. -/
def State.anyBusy (s : State) (tr : Nat) (pas : List Nat) : Bool := tr == 0 && pas.any fun p => s.lineBusy (p / 128)

/-! ### Loads at an L1 (R113, R116, R117) -/

/-- A line that a load can read now, by its page's treatment. -/
def State.lineReady (s : State) (k line tr : Nat) : Bool := tr != 0 || (s.cache k).lines.has line

/-- R116: an L1 takes a copy of a line of an I page. -/
def State.fillV (s : State) (k line : Nat) : State := s.install k line ⟨.v, s.marks line, 0, s.homeLine line⟩

/-- R113, R116, R117: what a load, or an acquire (`acq`), reads of a line that is ready: its bytes, its marks, and
the copy's new state. -/
def State.readLine (s : State) (k line tr : Nat) (acq l2c : Bool) : State × List Byte × BitVec 4 :=
  if tr = 2 then (s.l2Use line l2c, s.homeLine line, s.marks line)
  else
    match (s.cache k).lines.find line with
    | some l =>
      if tr = 1 ∧ acq then ((s.l2Use line l2c).fillV k line, s.homeLine line, s.marks line) else (s.consume k line, l.data, l.psn)
    | none => (if tr = 0 then s else (s.l2Use line l2c).fillV k line, s.homeLine line, s.marks line)

/-- R116: a store's bytes at home, and in the storing L1's copy of an I page. -/
def State.writeThrough (s : State) (k line : Nat) (ws : List (Nat × Byte)) : State :=
  let s := s.writeHome ws
  match (s.cache k).lines.find line with
  | some l => s.modCache k fun x => { x with lines := x.lines.put line (l.patch line ws) }
  | none => s

/-- R113: a fill or a grant of a line is on its way to a cache. -/
def State.granted (s : State) (k line : Nat) : Bool :=
  s.due.any fun e => match e with | .fillGrantReceived c l _ _ _ => c == k && l == line | _ => false

/-- R257: CINV and CFLUSH on a line in one cache: the line's unconsumed charge ends with the copy. A cache for which the home is
serving a request to the line, or to which a grant is on its way, stays listed (R114). -/
def State.maintLine (s : State) (k line : Nat) (flush : Bool) : State :=
  match (s.cache k).lines.find line with
  | none => s
  | some l =>
    match l.st with
    | .v | .vp => s.modCache k fun x => { x with lines := x.lines.erase line, charge := x.charge.erase line }
    | _ =>
      if !flush then s else
      let t := (s.writeBack k line true).modCache k fun x => { x with charge := x.charge.erase line }
      if s.lineBusy line || (s.cache k).miss.has line || s.granted k line then t.addHolder line k else t

/-! ### Push delivery (R120 to R124) -/

/-- R123: a cache's unconsumed lines charged to a source cluster. A line stays unconsumed until one of R123's three events,
or until CINV or CFLUSH takes it (R257), so also when an acquire or an invalidation does (DEDUCED, log 51). -/
def Cache.unconsumed (x : Cache) (src : Nat) : Nat := (x.charge.filter fun e => e.2 == src).length

/-- R124: the lines that near atomics in progress on a core are performed in: returning ones, and those whose turn it is in
a store queue. -/
def State.atomicLines (s : State) (core : Nat) : List Nat :=
  (s.groups.filter fun e => gidCore e.1 == core).flatMap fun e =>
    (e.2.loads.flatMap fun o => match o.kind with
      | .atomic .near _ => o.lanes.flatMap fun a => a.spans.filterMap fun p => if p.tr = 0 then p.pa.map fun pa => pa / 128 else none
      | _ => []) ++
    (((s.queue? e.2.sq).bind fun q => q.ents.find? fun o => !o.performed).map fun o => match o.kind with
      | .atomic .near _ => o.lanes.filterMap fun l => (l.writes.head?).bind fun w =>
          (s.lookup (gidCluster e.1) e.2.asn w.addr Want.atomic).bind fun t => if t.tr = 0 then some (t.pa w.addr / 128) else none
      | _ => []).getD []

/-- R124: the lines that a core's L1 has asked to own. -/
def State.ownPending (s : State) (k : Nat) : List Nat :=
  (s.due.filterMap fun e => match e with | .homeOwnershipRequest c l => if c = k then some l else none | _ => none)
    ++ s.dies.flatMap fun d => (d.2.txns.filter fun t => t.own && t.cache == k).map (·.line)

/-- R124: whether a target must refuse a line: its source has 64 unconsumed lines there, or every way of its set is held by a
near atomic or has a miss pending. -/
def State.mustRefuse (s : State) (core line src : Nat) : Bool :=
  let k := cacheOfCore core
  let x := s.cache k
  if !s.samePart (core / 64) (src / 16) then true
  else if x.lines.has line then false
  else
    let held := ((x.miss.keys ++ s.ownPending k ++ s.atomicLines core).filter fun l => l % 256 == line % 256 && l != line).dedup
    decide (64 ≤ x.unconsumed src) || decide (8 ≤ held.length)

/-- R124: a refusal is counted, saturating. -/
def State.refuse (s : State) (core : Nat) : State :=
  s.modCore core fun k => { k with refusals := if k.refusals = BitVec.allOnes 32 then k.refusals else k.refusals + 1 }

/-- R122: whether an event delivers a push of a line to a core: deliveries of one line reach a core in their order at home. -/
def delivers (core line : Nat) (e : Instr) : Bool :=
  match e with
  | .pushDelivery _ _ c l _ _ _ _ => c.toNat == core && l == line
  | _ => false

/-- A line that the L1 holds in M. -/
def State.holdsM (s : State) (cache line : Nat) : Bool := (((s.cache cache).lines.find line).map fun l => l.st == LineSt.m).getD false

/-- R120 to R124, R338: PUSH_DELIVERY: the target installs the line, or refuses it where `refuse` is set (the cases of
R120) or R124 says so; its answer goes to the pushing group's queue. A core that is not reached installs nothing. A copy in M
that the target has been granted since the push's home write stays (R113). -/
def execPushDelivery (q op : Nat) (core : BitVec 12) (line : Nat) (src : BitVec 10) (t : Bool) (refuse : Bool) (data : List Byte)
    (s : State) : Out :=
  let e := Instr.pushDelivery q op core line src t refuse data
  if s.due.find? (delivers core.toNat line) ≠ some e then .next s else
  let s := s.dropDue e
  let k := cacheOfCore core.toNat
  let far := !s.reach (lineDie line) (core.toNat / 64)
  let no := far || refuse || s.mustRefuse core.toNat line src.toNat
  let s :=
    if no then
      let s := if far && s.samePart (core.toNat / 64) (src.toNat / 16) then s.notSent (lineDie line) (core.toNat / 64) else s.refuse core.toNat
      if s.holdsM k line then s else
      let s := s.modCache k fun x => { x with lines := x.lines.erase line }
      if t then s.dropHolder line k else s
    else
      let st : LineSt := if t then .s else .vp
      let s := (s.install k line ⟨st, s.marks line, 0, data⟩).modCache k fun x => { x with charge := x.charge.put line src.toNat }
      if t then s.addHolder line k else s
  let s := if t && !refuse then s.acked line k else s
  let s := s.modQueue q fun x => { x with ents := x.ents.map fun o =>
    if o.id = op then { o with answers := o.answers.erase (core.toNat, line) } else o }
  .next (s.addDue (.pushAnswered q op))

end Sys2Proof.Machine
end

