-- ==== Sys2Proof/Machine/Scalar.lean ====
section
/-!
DEFINITION. Scalar register arithmetic, immediates and literals, and NOP (08 R183 to R187, R195).
-/

namespace Sys2Proof.Machine

/-- R183: an instruction that writes one scalar from the group's state at issue. -/
def scalarOp (ok : Bool) (len : Nat) (d : BitVec 6) (val : Ctx → Dword) (s : State) : Out :=
  issue ⟨ok, [], 0, none, len⟩ (fun c s => s.commit c len (c.g.setS d.toNat (val c))) s

/-- R195: NOP changes no state. -/
def execNop (s : State) : Out := issue (plainReq true) (fun c s => s.commit c 4 c.g) s
/-- R184. -/
def execSadd (d a b : BitVec 6) (s : State) : Out := scalarOp true 4 d (fun c => c.s a + c.s b) s
/-- R184. -/
def execSsub (d a b : BitVec 6) (s : State) : Out := scalarOp true 4 d (fun c => c.s a - c.s b) s
/-- R184. -/
def execSmul (d a b : BitVec 6) (s : State) : Out := scalarOp true 4 d (fun c => c.s a * c.s b) s
/-- R184: the high half of the signed, unsigned or mixed product. -/
def execSmulh (d a b sub : BitVec 6) (s : State) : Out :=
  scalarOp (decide (sub.toNat ≤ 2)) 4 d (fun c => mulHigh (sub != 1) (sub == 0) (c.s a) (c.s b)) s
/-- R184. -/
def execSand (d a b : BitVec 6) (s : State) : Out := scalarOp true 4 d (fun c => c.s a &&& c.s b) s
/-- R184. -/
def execSor (d a b : BitVec 6) (s : State) : Out := scalarOp true 4 d (fun c => c.s a ||| c.s b) s
/-- R184. -/
def execSxor (d a b : BitVec 6) (s : State) : Out := scalarOp true 4 d (fun c => c.s a ^^^ c.s b) s
/-- R184: shift amounts use sb[5:0] only. -/
def execSshl (d a b : BitVec 6) (s : State) : Out := scalarOp true 4 d (fun c => c.s a <<< ((c.s b).toNat % 64)) s
/-- R184. -/
def execSshr (d a b sub : BitVec 6) (s : State) : Out :=
  scalarOp (decide (sub.toNat ≤ 1)) 4 d (fun c =>
    if sub = 1 then (c.s a).sshiftRight ((c.s b).toNat % 64) else c.s a >>> ((c.s b).toNat % 64)) s
/-- R184. -/
def execSmin (d a b sub : BitVec 6) (s : State) : Out :=
  scalarOp (decide (sub.toNat ≤ 1)) 4 d (fun c => minBv (sub == 0) (c.s a) (c.s b)) s
/-- R184. -/
def execSmax (d a b sub : BitVec 6) (s : State) : Out :=
  scalarOp (decide (sub.toNat ≤ 1)) 4 d (fun c => maxBv (sub == 0) (c.s a) (c.s b)) s
/-- R184: SCMP. -/
def execScmp (d a b cc : BitVec 6) (s : State) : Out :=
  scalarOp (decide (cc.toNat ≤ 9)) 4 d (fun c => if condHolds cc.toNat (c.s a) (c.s b) then 1 else 0) s
/-- R184: SSEL; the condition register is the one named by sub. -/
def execSsel (d a b k : BitVec 6) (s : State) : Out :=
  scalarOp true 4 d (fun c => if c.s k ≠ 0 then c.s a else c.s b) s
/-- R184. -/
def execSclz (d a : BitVec 6) (s : State) : Out := scalarOp true 4 d (fun c => BitVec.ofNat 64 (clz (c.s a))) s
/-- R184. -/
def execSpop (d a : BitVec 6) (s : State) : Out := scalarOp true 4 d (fun c => BitVec.ofNat 64 (popc (c.s a))) s
/-- R185. -/
def execSaddi (d : BitVec 6) (i : BitVec 18) (s : State) : Out := scalarOp true 4 d (fun c => c.s d + sextD i) s
/-- R185. -/
def execSmovi (d : BitVec 6) (i : BitVec 18) (s : State) : Out := scalarOp true 4 d (fun _ => sextD i) s
/-- R185. -/
def execSlui (d : BitVec 6) (i : BitVec 18) (s : State) : Out := scalarOp true 4 d (fun _ => sextD i <<< 18) s
/-- R186. -/
def execSmovl (d : BitVec 6) (l : Word) (s : State) : Out := scalarOp true 8 d (fun _ => sextD l) s
/-- R186. -/
def execSmovhl (d : BitVec 6) (l : Word) (s : State) : Out :=
  scalarOp true 8 d (fun c => (l ++ (c.s d).extractLsb' 0 32 : BitVec 64)) s
/-- R186. -/
def execSaddl (d a : BitVec 6) (l : Word) (s : State) : Out := scalarOp true 8 d (fun c => c.s a + sextD l) s

end Sys2Proof.Machine
end

