-- ==== Sys2Proof/Machine/Schedule.lean ====
section
/-!
DEFINITION. The issue of clauses: the choice of a fragment, the fetch and check of a clause, its waits, and what
a step may do next (02 R34, R38, R51, 04 R97, R98, 07 R155 to R159, 12 R300, R301, 14 R348).
-/

namespace Sys2Proof.Machine

/-! ### Instruction caches (R97, R98) -/

/-- R98: a line enters an L1 instruction cache; a full set gives up a line that is not pinned (DESIGN CHOICE, log 5). -/
def Core.icPut (x : Core) (line : Nat) (data : List Byte) (k : Nat) : Core :=
  let mates := (x.icache.filter fun e => e.1 % 64 == line % 64 && e.1 != line).map (·.1)
  let loose := mates.filter fun l => decide (l ∉ x.pins)
  let x := if mates.length < 8 then x else { x with icache := x.icache.erase (loose.getD (Config.victim k % loose.length) 0) }
  { x with icache := x.icache.put line data }

/-- R80, R97: a code line read through the home L2, which recalls a modified copy, unless the cache holds it. -/
def State.icFill (s : State) (core line : Nat) (l2c : Bool) : State :=
  if (s.core core).icache.has line then s
  else
    let s := (s.homeSync line false []).l2Use line l2c
    { s.modCore core fun x => x.icPut line (s.homeLine line) s.fresh with fresh := s.fresh + 1 }

/-- How a fetch ends: the words; a page without a translation; a poisoned byte (R388); or a home that is not reached, whose
error ends it as an abort does (R374; DEDUCED, log 52). -/
inductive Fetched where
  | words (ws : List Word) (s : State)
  | miss (va : Nat)
  | poison (pa : Nat)
  | closed (va home : Nat)

/-- The 32-bit word at byte `i` of a line. -/
def wordAt (data : List Byte) (i : Nat) : Word := BitVec.ofNat 32 (leNat ((data.drop i).take 4))

/-- R96, R325: a word supplied for a fetch by an emulate-load answer. -/
def State.suppliedWord (s : State) (who : MemRef) (a : Nat) : Option Word :=
  (s.supplied who a).bind fun b0 => (s.supplied who (a + 1)).bind fun b1 => (s.supplied who (a + 2)).bind fun b2 =>
    (s.supplied who (a + 3)).map fun b3 => b3 ++ b2 ++ b1 ++ b0

/-- R97: the words of the addresses `as` for a group, through its core's instruction cache, or as supplied. -/
def State.fetchWords (s : State) (gid : Nat) (asn : BitVec 16) (who : MemRef) (as : List Nat) : Fetched :=
  let c := gidCluster gid
  let core := gidCore gid
  let ent := fun (a : Nat) => s.lookup c asn a Want.fetch
  let tr := fun (a : Nat) => (ent a).map fun e => e.pa a
  let far := fun (a : Nat) => (tr a).any fun p => !(s.core core).icache.has (lineOf p) && !s.linked (gidDie gid) (paDie p)
  match as.find? fun a => (tr a).isNone && (s.suppliedWord who a).isNone with
  | some a => .miss a
  | none =>
    let own := as.filter fun a => (s.suppliedWord who a).isNone
    match own.find? far with
    | some a => .closed a (paDie ((tr a).getD 0))
    | none =>
    match (own.filterMap tr).find? fun p => !(s.core core).icache.has (lineOf p) && s.poisoned p with
    | some p => .poison p
    | none =>
      let s := (own.filterMap fun a => (ent a).map fun e => (e.pa a, e.l2c)).foldl (fun s p => s.icFill core (lineOf p.1) p.2) s
      .words (as.map fun a =>
        match s.suppliedWord who a, tr a with
        | some w, _ => w
        | none, some p => wordAt ((s.core core).icache.get [] (lineOf p)) (p % 128)
        | none, none => 0) s

/-! ### The clause check (R155 to R158) -/

/-- R156: the header is well formed. -/
def headerOk (h : Word) : Bool :=
  h.extractLsb' 28 4 == 0xA && h.extractLsb' 24 4 == 0 && decide ((h.extractLsb' 4 3).toNat ≤ 5) && h.extractLsb' 0 4 != 0

/-- R157: the words after the header: each assigned opcode in the class, a branch last, literals within the clause. -/
def bodyOk (cls : Nat) : List Word → Bool
  | [] => true
  | w :: ws =>
    let op := w.toNat / 2 ^ 24
    let inClass := match opClass op with
      | some c => cls == 5 || c == cls
      | none => true
    if opTakesLiteral op then
      match ws with
      | [] => false
      | _ :: rest => inClass && (!opIsBranch op || rest.isEmpty) && bodyOk cls rest
    else inClass && (!opIsBranch op || ws.isEmpty) && bodyOk cls ws

/-- R157: the check of a clause, header first. -/
def clauseOk (ws : List Word) : Bool :=
  match ws with
  | [] => false
  | h :: rest => headerOk h && bodyOk ((h.extractLsb' 4 3).toNat) rest

/-- R158: the offsets of the instruction words of a clause, in words from its header. -/
def instrOffsets : Nat → List Word → List Nat
  | _, [] => []
  | i, w :: ws =>
    if opTakesLiteral (w.toNat / 2 ^ 24) then
      match ws with
      | [] => [i]
      | _ :: rest => i :: instrOffsets (i + 2) rest
    else i :: instrOffsets (i + 1) ws

/-! ### What may issue (R38, R51, R348) -/

/-- R348: a group launched with demand-token issues nothing until its token on the die is signed. -/
def State.demandHeld (s : State) (gid : Nat) (g : Group) : Bool := g.demand && !(s.scrubWord gid g).getLsbD 1

/-- A fragment that can be chosen for issue. -/
def State.issuable (s : State) (gid : Nat) (g : Group) (f : Frag) : Bool :=
  f.state == .ready && g.halt.isNone && !g.stalled && !s.demandHeld gid g

/-- The fragments of a core that can be chosen: group, its state, fragment number and fragment. -/
def State.readyFrags (s : State) (core : Nat) : List (Nat × Group × Nat × Frag) :=
  s.groups.flatMap fun e =>
    if gidCore e.1 = core then
      (e.2.frags.filter fun f => s.issuable e.1 e.2 f.2).map fun f => (e.1, e.2, f.1, f.2)
    else []

/-- R51: the virtual time of a core: the pass of a tenant that has had its share of the clauses. -/
def Core.virtual (x : Core) : Nat := x.pass.get 0 4096
/-- R51: the pass of a tenant; one that joins has had its share. -/
def Core.passOf (x : Core) (t : Nat) : Nat := x.pass.get x.virtual t

/-- R51: a multiple of every share weight, so that strides are whole. -/
def strideUnit : Nat := (List.range 255).foldl (fun l k => Nat.lcm l (k + 1)) 1

/-- R51, R300: the share weight of a tenant on a die, and the stride of its clauses. -/
def State.weightOf (s : State) (d t : Nat) : Nat := max 1 ((s.die d).shares.get 1 t).toNat
def State.strideOf (s : State) (d t : Nat) : Nat := strideUnit / s.weightOf d t

/-- R51: the tenants that compete before a choice: those with a ready fragment, and those that have had more than their share; the
virtual time is at least the least pass of a ready one. -/
def Core.compete (x : Core) (ready : List Nat) : Core :=
  let kept : SMap Nat := x.pass.filter fun e => e.1 == 4096 || decide (e.1 ∈ ready) || decide (x.virtual < e.2)
  let pass := ready.foldl (fun m t => SMap.put m t (x.passOf t)) kept
  let least := ready.foldl (fun o t => match o with | none => some (x.passOf t) | some v => some (min v (x.passOf t))) (none : Option Nat)
  { x with pass := SMap.put pass 4096 (max x.virtual (least.getD 0)) }

/-- R51, R300: a tenant is charged one clause on a core, and the virtual time moves on by one clause shared among those that compete.
DEDUCED: log 56. -/
def State.chargeClause (s : State) (gid : Nat) (g : Group) : State :=
  let t := g.tenant.toNat
  let d := gidDie gid
  s.modCore (gidCore gid) fun x =>
    let pass := x.pass.put t (x.passOf t + s.strideOf d t)
    let total := ((pass.filter fun e => e.1 != 4096).map fun e => s.weightOf d e.1).sum
    { x with pass := pass.put 4096 (x.virtual + strideUnit / total) }

/-- The least of a list by a key; ties are an open choice (DESIGN CHOICE, log 1), made among those left. -/
def leastBy {α : Type} (key : α → Nat) (k : Nat) (l : List α) : Option α :=
  let m := l.foldl (fun o x => match o with | none => some (key x) | some y => some (min y (key x))) none
  match l.filter fun x => some (key x) == m with
  | [] => none
  | [x] => some x
  | x :: xs => some ((x :: xs).getD (Config.pick k % (xs.length + 1)) x)

/-- R51: CLAUSE_ISSUE_CHOICE: of the tenants that have not had more than their share, the one whose next clause comes due first by
its weight; then its oldest ready fragment, of two of one group the one with the lowest lane. DEDUCED: log 56. -/
def execClauseIssueChoice (core : BitVec 12) (s : State) : Out :=
  let k := core.toNat
  let fs := s.readyFrags k
  let ready := (fs.map fun e => e.2.1.tenant.toNat).dedup
  let s := s.modCore k fun x => x.compete ready
  let x := s.core k
  match leastBy (fun t => x.passOf t + s.strideOf (k / 64) t) s.fresh (ready.filter fun t => decide (x.passOf t ≤ x.virtual)) with
  | none => .next s
  | some t =>
    let mine := fs.filter fun e => e.2.1.tenant.toNat == t
    match leastBy (fun e : Nat × Group × Nat × Frag => e.2.2.2.stamp * 1025 + lowestLane e.2.2.2.mask) s.fresh mine with
    | none => .next s
    | some e => .next (s.modCore k fun x => { x with turn := some (e.1, e.2.2.1) })

/-- R51: a clause begins: the runs of the tenant's other fragments on the core are broken. -/
def State.breakRuns (s : State) (gid fid : Nat) (t : BitVec 12) : State :=
  { s with groups := s.groups.map fun e =>
      if gidCore e.1 = gidCore gid ∧ e.2.tenant = t then
        (e.1, { e.2 with frags := e.2.frags.map fun f =>
          if e.1 = gid ∧ f.1 = fid then f else (f.1, { f.2 with run := 0 }) })
      else e }

/-- R64, R348: the token of a tenant on a die is the one current when it first issues an instruction there; of a group that waited
for a token's signatures, that token (DEDUCED, log 57). -/
def State.firstToken (s : State) (gid : Nat) : State :=
  match s.group? gid with
  | none => s
  | some g =>
    if (s.die (gidDie gid)).firstSeq.has g.tenant.toNat then s
    else s.modDie (gidDie gid) fun x => { x with firstSeq := x.firstSeq.put g.tenant.toNat (g.seqGiven.getD x.tokSeq) }

/-- The fragment leaves ready before its clause has begun. -/
def State.holdFrag (s : State) (gid fid : Nat) (f : Frag → Frag) : State :=
  (s.modGroup gid fun g => g.modFrag fid f).modCore (gidCore gid) fun k => { k with turn := none }

/-- R97: a fetch that lacks a translation asks for a walk; the fragment waits. -/
def State.fetchWait (s : State) (gid fid : Nat) (asn : BitVec 16) (va : Nat) : State :=
  (s.holdFrag gid fid fun f => { f with state := .opWait, hold := .fetch }).askWalk (gidCluster gid) asn (pageOf va)
    (.fetch (BitVec.ofNat 18 gid) (BitVec.ofNat 5 fid))

/-- R157 to R159: the clause at `h` has been read: its check, then its waits. -/
def State.enterClause (s : State) (gid fid : Nat) (g : Group) (f : Frag) (h : Nat) (ws : List Word) : State :=
  let bad := (s.modGroup gid fun g => g.modFrag fid fun f => { f with pc := BitVec.ofNat 64 h, reread := false, call := none }).takeException gid
    ⟨1, 0x01, h, 0, (ws.headD 0).toNat⟩
  if !clauseOk ws then bad
  else if f.reread then
    if ((f.pc.toNat - h) / 4) ∈ (instrOffsets 1 ws.tail) ∧ f.pc.toNat % 4 = 0 ∧ h < f.pc.toNat then
      s.modGroup gid fun g => g.modFrag fid fun f => { f with inClause := true, reread := false, words := ws, call := none }
    else if f.call.isSome ∧ f.pc.toNat = h + 4 * ws.length then
      s.modGroup gid fun g => g.modFrag fid fun f => { f.goTo f.pc true with reread := false, call := none }
    else bad
  else if !s.headerMet gid g (ws.headD 0) then s.holdFrag gid fid fun f => { f with state := .clauseWait, words := ws }
  else
    let s := (s.chargeClause gid g).breakRuns gid fid g.tenant
    s.modGroup gid fun g => g.modFrag fid fun f =>
      { f with inClause := true, hdr := BitVec.ofNat 64 h, pc := BitVec.ofNat 64 (h + 4), words := ws }

/-- R158: the header is fetched, then the other words of the clause. -/
def State.beginAt (s : State) (gid fid : Nat) (g : Group) (f : Frag) : State :=
  let h := (if f.reread then f.hdr else f.pc).toNat
  let who := MemRef.fetch (BitVec.ofNat 18 gid) (BitVec.ofNat 5 fid)
  let poison := fun (s : State) (pa : Nat) => s.takeException gid ⟨1, 0x0F, h, pa, 0⟩
  let closed := fun (s : State) (va home : Nat) => (s.notSent (gidDie gid) home).takeException gid ⟨1, 0x0E, h, va, 0⟩
  match s.fetchWords gid g.asn who [h] with
  | .miss a => s.fetchWait gid fid g.asn a
  | .poison pa => poison s pa
  | .closed va home => closed s va home
  | .words ws s =>
    let n := if headerOk (ws.headD 0) then ((ws.headD 0).extractLsb' 0 4).toNat else 0
    match s.fetchWords gid g.asn who ((List.range (n + 1)).map fun i => h + 4 * i) with
    | .miss a => s.fetchWait gid fid g.asn a
    | .poison pa => poison s pa
    | .closed va home => closed s va home
    | .words ws s => (s.dropAnswers who).enterClause gid fid g f h ws

/-- R157: CLAUSE_BEGIN: the arrival that R34 counts, the fetch, the check and the waits. -/
def execClauseBegin (gv : Gid) (fv : BitVec 5) (s : State) : Out :=
  let gid := gv.toNat
  let fid := fv.toNat
  match s.group? gid with
  | none => .next s
  | some g =>
    match g.frags.find fid with
    | none => .next s
    | some f =>
      if f.inClause || !s.issuable gid g f then .next s
      else
        match f.join.bind fun j => (g.joins.find j).map fun e => (j, e) with
        | some (j, e) =>
          if e.rcv = f.pc ∧ f.reread = false then
            .next (((s.modCore (gidCore gid) fun k => { k with turn := none }).putGroup gid (g.arriveFrag fid j)).settle gid)
          else .next (s.beginAt gid fid g f)
        | none => .next (s.beginAt gid fid g f)

/-! ### What can happen next -/

/-- The instruction that a fragment in its clause issues next: the word at its pc, or the trap of a word that
decodes to nothing (R168, R172). -/
def Frag.instr (f : Frag) : Instr :=
  let at' := fun (a : Nat) => f.words.getD ((a - f.hdr.toNat) / 4) 0
  let w := at' f.pc.toNat
  match decode w (if f.pastEnd (f.pc.toNat + 4) then none else some (at' (f.pc.toNat + 4))) with
  | .ok i => i
  | .error _ => .unassignedOpcode w

/-- R374: a fenced die issues nothing more. -/
def State.deadDie (s : State) (d : Nat) : Bool := (s.die d).fence.getLsbD 4
/-- R24, R409: nor does a cluster that is out of service. -/
def State.deadCluster (s : State) (c : Nat) : Bool := s.deadDie (c / 16) || (s.cluster c).out

/-- R24: the cluster whose core, engine, buffer or service core carries out an event or an action; of the NVMe complex's admin queues
the host is service core 0 (R331). -/
def State.clusterOf (s : State) (i : Instr) : Option Nat :=
  match i with
  | .splitWaitRetry g _ | .loadDataReturn g _ _ | .copyComplete g _ | .fupdPerformed g _ | .icinvDone g _
  | .instructionFetchFill g _ | .engineOperationFailed g _ _ _ | .farAtomicAtBank (.load g _) => some (gidCluster g.toNat)
  | .storePerformed q | .farAtomicAtBank (.store q _) => (s.queue? q).map fun x => gidCluster x.gid
  | .partialResumptionAllocated c _ | .pageWalk c _ _ _ | .ctbInvalidateDone c | .kstepGrant c _ | .kstepComplete c _ _ | .arrayModeSwitch c
  | .gangRestorePlacement c _
  | .smsgsendStallTimeout c | .contextSaveComplete c | .contextRestoreComplete c | .budgetPeriod c | .budgetExhausted c
  | .budgetInterruptUnserved c | .bootStage4 c | .serviceCoreAccess c _ | .sintake c | .scres c _ | .slresumeStage c _
  | .slresumeRelease c _ | .sqsel c _ | .sqdata c _ | .sqansRetry c _ | .sqansEmulateLoad c _ | .sqansEmulateStore c _
  | .sqansAbort c _ | .sctbinvAllSpaces c | .sctbinvPage c _ _ | .sctbinvSpace c _ | .smsgdat c _ | .smsgsend c | .smsgrcv c
  | .smsgrd c | .sring c _ | .smresume c _ | .sctxopSave c _ | .sctxopRestore c _ | .callAlloc c _ | .callFree c _ | .callMmap c _
  | .callMunmap c _ | .callFaultreg c _ | .callOpen c _ | .callRead c _ | .callWrite c _ | .callFsync c _ | .callClose c _
  | .callSocket c _ | .callSend c _ | .callRecv c _ | .callLaunchw c _ | .callGridw c _ | .callUnassigned c _ | .faultAnswer c _
  | .yieldSlice c _ | .faultHandlerLaunch c _ | .fenceI c | .registerWrite (.csr c _) _ _ => some c.toNat
  | .nvmeAdminCommand _ _ => some 0
  | _ => none

/-- R24: the die whose distributor, MTU, power controller, security block or links carry out an event or an action. -/
def dieOf (i : Instr) : Option Nat :=
  match i with
  | .powerRelease d _ | .quagRoomFreed d | .scrubWaitReread d _ | .parkingTimeout d _ | .powerGrant d | .powerOverLimit10ms d
  | .launchRecordAccept d _ | .ticketTake d _ | .stealRequest d _ _ | .stealReply d _ _ _ _ _ | .gangPlacement d _ _
  | .placementReservation d _ _ _ _ | .preemption d _ _ _ | .preemptWaitTimeout d _ | .drainTimeout d _ _ | .haltTimeout d _ _
  | .gangRestore ⟨d, _⟩ _ | .heartbeat d | .heartbeatLost d _ | .distributorAdoption d _ | .tokenSign d _ _ | .delegatedSignTimeout d
  | .bootStage2 d _ _ | .bootStage3 d _ | .queueBinding d _ | .tenantSwitch d _ | .sluiceScrub d _ | .powerReadingRecovered d
  | .powerOverLimit d | .queueNotify d _ | .signingDoorbell d _ | .attestationReport d _ _ _ | .registerWrite (.ctl d _) _ _
  | .shareTableWrite d _ _ _ | .tcfgWrite d _ _ _ | .fwctlWrite d _ _ | .mmodeWrite d _ _ | .fmodeWrite d _ _ | .lcfgWrite d _ _
  | .qtmoWrite d _ _ | .fenceRegisterWrite d _ _ | .rreqWrite d _ _ | .boundaryLinkLoss d _ | .neighbourRequestTimeout d _
  | .closedBoundaryFlit d _ | .boundaryFlitRetry d _ | .permitAudit (.boundary d _) | .permitAuditCompare (.boundary d _) _ _
  | .permitDrainEnd (.boundary d _) | .permitDrainTimeout (.boundary d _) => some d.toNat
  | _ => none

/-- R24, R374, R409: an event or an action of a die that is fenced or of a cluster out of service does not happen. -/
def State.idle (s : State) (i : Instr) : Bool := (s.clusterOf i).any s.deadCluster || (dieOf i).any s.deadDie

/-- What a core does next: its turn's fragment issues or begins a clause; without one, it chooses. A core of a fenced die
(R374) or of a cluster out of service (R409) does nothing. -/
def State.coreMove (s : State) (k : Nat) : Option (Option Cur × Instr) :=
  if s.deadCluster (k / 4) then none else
  let live := (s.core k).turn.bind fun t => (s.group? t.1).bind fun g => (g.frags.find t.2).bind fun f =>
    if s.issuable t.1 g f then some (t, f) else none
  match live with
  | some (t, f) =>
    if f.inClause then some (some ⟨t.1, t.2⟩, f.instr)
    else some (none, .clauseBegin (BitVec.ofNat 18 t.1) (BitVec.ofNat 5 t.2))
  | none => if (s.readyFrags k).isEmpty then none else some (none, .clauseIssueChoice (BitVec.ofNat 12 k))

/-- R126, R319, R329, R330: a service core whose access waits for its line, or whose send is stalled, goes no further. -/
def State.svcHeld (s : State) (c : Nat) : Bool := !(s.svc c).accs.isEmpty || (s.svc c).sendStalled.isSome

/-- R127, R355: a Lode write whose line is in use at its home waits for it, and what comes behind it waits too. -/
def State.lodeHeld (s : State) (i : Instr) : Bool :=
  match i with
  | .lodeWriteRequest l _ va _ _ =>
    match s.walk (linkDie l.toNat) ((s.die (linkDie l.toNat)).lcfg.extractLsb' 0 16).toNat va.toNat Want.store false with
    | .ok e => s.lineBusy (e.pa va.toNat / 128)
    | _ => false
  | _ => false

/-- The next action of the outside agents: those of agents out of service are gone, those of a held service core and a held Lode
write wait. -/
def State.coming (s : State) : Option Instr :=
  (s.inputs.find? fun i => !s.idle i && !(s.clusterOf i).any s.svcHeld).filter fun i => !s.lodeHeld i

/-- R391: a request that has not set out, and waits at a boundary that sends nothing new: from which die to which. -/
def State.request (s : State) (i : Instr) : Option (Nat × Nat) :=
  match i with
  | .homeOwnershipRequest cache line => some (cache / 80, lineDie line)
  | .stealRequest _ _ _ | .gangBarrierArrivalMessage _ _ _ | .placementReservation _ _ _ _ .reserve => (s.flow i).map (·.2)
  | _ => none

/-- The events in flight that may come next: of each class and pair of dies the oldest (R12), without those that wait at a drained
boundary (R391). -/
def State.events (s : State) : List Instr :=
  (s.inOrder [] (s.due.filter fun i => !s.idle i)).filter fun i => !(s.request i).any fun r => s.heldBack r.1 r.2

/-- Everything that can happen next: the next action of an outside agent, each event in flight, and each core, without what a held
record stalls (R371). -/
def State.moves (s : State) : List Move :=
  let all : List Move := s.coming.toList.map (fun i => ⟨none, i, true⟩) ++ s.events.map (fun i => ⟨none, i, false⟩)
    ++ ((s.groups.map fun e => gidCore e.1).dedup.filterMap fun k => (s.coreMove k).map fun m => ⟨m.1, m.2, false⟩)
  all.filter fun m => !s.stalls m

/-- The state as a move's instruction finds it; a tenant's first instruction on a die takes its token (R64). DESIGN CHOICE: log 31. -/
def State.enter (s : State) (m : Move) : State :=
  let s := m.cur.elim s fun c => s.firstToken c.gid
  { s with cur := m.cur, moving := some m, formed := [], inputs := if m.input then s.inputs.erase m.instr else s.inputs }

/-- The move of a step: the only one there is, or an open choice among them (DESIGN CHOICE, log 1). -/
def State.chosen (s : State) : Option Move :=
  match s.moves with
  | [] => none
  | [m] => some m
  | m :: ms => some ((m :: ms).getD (Config.pick s.tick % (ms.length + 1)) m)

/-- R20: the end of a step: the counter that every clock is taken from moves on. -/
def State.leave (s : State) : State := { s with cur := none, moving := none, formed := [], tick := s.tick + 1 }

/-! ### An instruction placed at the fetch (the host's probe) -/

/-- Where a placed instruction's clause stands. -/
def probeAddr : Dword := 0x1000

/-- A group of 32 lanes in whole mode whose only fragment is about to issue the words given. -/
def probeGroup (ws : List Word) : Group :=
  { lanes := 32, regs := 128, tenant := 1, asn := 1, grid := 1, gang := 0, index := 0, depth := 0, v := [], p := [], x := [],
    s := [], flags := 0, idx := [], ob := 1, cb := 0, batch := [],
    frags := [(0, { pc := probeAddr + 4, hdr := probeAddr, inClause := true, reread := false, words := ws,
                    mask := BitVec.ofNat 1024 (2 ^ 32 - 1), fmt := 0, join := none, state := .ready, hold := .none, windows := [],
                    replay := 0, stamp := 0, run := 0, call := none })]
    joins := [], loads := [], sq := 0, engs := [], halt := none, nextOp := 0, stamp := 0, instrs := 0, demand := false,
    seqGiven := none, saving := false, stalled := false }

/-- The gang and grid of that group. -/
def probeGang : Gang :=
  { st := .placed, why := .none, groups := [some 0], retired := 0, places := [(0, 0, 1)], tmask := 0xFF, bgen := 0, barr := 0,
    dieMsgs := 0, relWait := 0, root := 0, haltClock := [], since := 0, instrs := 0, ksteps := 0, childGrids := [], saves := [] }
def probeGrid : Grid :=
  { desc := { entry := probeAddr, lanes := 32, regs := 128, groups := 1, cls := 0, tiles := 8, idem := false, zero := true,
              scratch := 4096, fmt := 0, wi := 0, wk := 0 }
    e0 := 1, e1 := 1, e2 := 1, args := [], tenant := 1, asn := 1, depth := 0, die := 0, dies := [0], doneVa := 0,
    demand := false, queue := none, parent := none, batch := none, gangs := [(0, probeGang)], retiredGangs := 0, children := 0,
    aborted := false, completing := false }

/-- A state in which the only move is the issue of the words `ws` by a resident group. -/
def State.place (s : State) (ws : List Word) : State :=
  { s with
    due := [], inputs := [], groups := [(0, probeGroup ws)]
    queues := [(0, { gid := 0, tenant := 1, asn := 1, grid := 1, gang := 0, live := true, saved := false, retIdx := none, ents := [] })]
    grids := [(1, probeGrid)]
    cores := [(0, { Core.reset with turn := some (0, 0) })]
    clusters := [(0, { Cluster.reset with grants := [⟨1, 0, 0, 4096⟩], fills := [⟨0, 4096, none⟩] })] }

/-- The words of an instruction given as bits, after a clause header of two words. -/
def probeWords (nbits w : Nat) : List Word :=
  let v := w % 2 ^ nbits
  [0xA0FFFF52, BitVec.ofNat 32 v, BitVec.ofNat 32 (v / 2 ^ 32)]

end Sys2Proof.Machine
end

