-- ==== Sys2Proof/Machine/Access.lean ====
section
/-!
DEFINITION. Loads, stores and atomics of groups from issue to completion: element types, the operations in
flight, forwarding, and the performance of an access line by line (02 R40, 04 R81, R82, R91, R92, 05 R101 to R108,
10 R238 to R249, 18 R380 to R384, R388).
-/

namespace Sys2Proof.Machine

/-! ### Element types (R239, R249) -/

/-- R239: widths in bits, by sub. -/
def typeWidth (sub : Nat) : Nat :=
  match sub with
  | 1 | 4 | 10 | 11 => 8
  | 2 | 5 | 8 | 9 => 16
  | 12 | 13 => 6
  | 14 => 4
  | 15 => 2
  | _ => 32

/-- R249: the access type of a scratchpad type code. -/
def scratchType (code : Nat) : Nat :=
  match code with
  | 3 => 4
  | 4 => 5
  | 5 => 8
  | 6 => 9
  | 7 => 7
  | c => c

/-- R137, R239: what a load writes for element bits `v`. -/
def loadElem (sub v : Nat) : Word :=
  match sub with
  | 1 => sextW (BitVec.ofNat 8 v)
  | 2 => sextW (BitVec.ofNat 16 v)
  | 0 | 3 | 4 | 5 | 6 => BitVec.ofNat 32 v
  | 15 => if v = 1 then 1 else if v = 3 then BitVec.allOnes 32 else 0
  | _ => toFp32 ((floatFmt (sub - 7)).decode v)

/-- R239: a store that rounds, rather than a raw one. -/
def typeRounds (sub : Nat) : Bool := !(sub == 0 || sub == 4 || sub == 5 || sub == 6)

/-- R140, R239: the bits a store writes for a register, and the flags of its rounding. -/
def storeElem (sub rm : Nat) (sat : Bool) (x : VReg) : Nat × Byte :=
  match sub with
  | 1 => finalRound (ofFp32 x.data) x.s (.int 8 128 127) rm sat
  | 2 => finalRound (ofFp32 x.data) x.s (.int 16 32768 32767) rm sat
  | 3 => finalRound (ofFp32 x.data) x.s (.int 32 2147483648 2147483647) rm sat
  | 0 | 4 | 5 | 6 => (x.data.toNat % 2 ^ typeWidth sub, 0)
  | 15 => finalRound (ofFp32 x.data) x.s (targetOf 11) rm sat
  | _ => finalRound (ofFp32 x.data) x.s (targetOf (sub - 7)) rm sat

/-! ### Spans and writes -/

/-- The runs of bytes of `n` bytes from `va`, each in one line; `k` bounds their number. DEDUCED: log 21. -/
def lineSpans : Nat → Nat → Nat → List Span
  | 0, _, _ => []
  | k + 1, va, n =>
    if n = 0 then [] else
    let m := min n (128 - va % 128)
    ⟨va, m, none, 0, none, false⟩ :: lineSpans k (va + m) (n - m)

/-- R132: the bytes that hold bits [w·l + w − 1 : w·l] of the stream at `a`. DEDUCED: log 21. -/
def elemSpans (a w l : Nat) : List Span :=
  let lo := w * l / 8
  lineSpans 2 (a + lo) ((w * l + w - 1) / 8 + 1 - lo)

/-- R132, R240: the writes of `v` to bits [w·l + w − 1 : w·l] of the stream at `a`. -/
def elemWrites (a w l v : Nat) : List ByteWrite :=
  let lo := w * l / 8
  let sh := w * l % 8
  (List.range ((w * l + w - 1) / 8 + 1 - lo)).map fun i =>
    ⟨a + lo + i, BitVec.ofNat 8 ((2 ^ w - 1) * 2 ^ sh / 256 ^ i), BitVec.ofNat 8 (v * 2 ^ sh / 256 ^ i)⟩

/-- Whole bytes written from `a` up. -/
def byteWrites (a : Nat) (bs : List Byte) : List ByteWrite :=
  (List.range bs.length).map fun i => ⟨a + i, 0xFF, bs.getD i 0⟩

/-- A byte after a write of some of its bits. -/
def ByteWrite.on (w : ByteWrite) (old : Byte) : Byte := (old &&& ~~~w.mask) ||| (w.val &&& w.mask)

/-- A lane of a load that is yet to be made. DEDUCED: log 21. -/
def laneAcc (l : Nat) (spans : List Span) : LaneAcc := ⟨l, spans, .need, 0, false, 0, 0, 0⟩
/-- A lane of a store. -/
def laneStore (l : Nat) (ws : List ByteWrite) : LaneStore := ⟨l, ws, .need, 0, false, 0⟩

/-! ### Atomics (R81, R82, R247, R248) -/

/-- R247: the new value of a word for op 0 to 10. -/
def atomicNew (op rm : Nat) (m v cmp : Word) : Word :=
  match op with
  | 0 => m + v
  | 1 => minBv true m v
  | 2 => maxBv true m v
  | 3 => minBv false m v
  | 4 => maxBv false m v
  | 5 => m &&& v
  | 6 => m ||| v
  | 7 => m ^^^ v
  | 8 => v
  | 9 => if m = cmp then v else m
  | _ => BitVec.ofNat 32 (roundArith fp32 rm (fadd rm (ofFp32 m) (ofFp32 v)) false).1

/-- R81: bytes of an atomic's location. -/
def atomicSize (op : Nat) : Nat := if op = 11 ∨ op = 12 then 16 else 4

/-- R81, R82, R152: a slot after FADD.X of an FP32 value with sticky bit `st`; none for a slot-format error. -/
def slotAdd (slot : Nat) (x : FVal) (st : Bool) : Option Nat :=
  if slot / 2 ^ 98 ≠ 0 then none else
  let q := (BitVec.ofNat 16 (slot / 2 ^ 80)).toInt
  let setV := slot ||| 2 ^ 97 ||| (if st then 2 ^ 96 else 0)
  match x with
  | .fin n m e =>
    if m ≠ 0 ∧ 79 + q ≤ (m.log2 : Int) + e then some setV
    else
      let (k, fr) := floorGrid m e q
      let acc := BitVec.ofNat 80 slot
      let acc := if n then acc - BitVec.ofNat 80 k else acc + BitVec.ofNat 80 k
      let s' := if fr ≠ 0 ∨ st = true then slot ||| 2 ^ 96 else slot
      some (s' / 2 ^ 80 * 2 ^ 80 + acc.toNat)
  | _ => some setV

/-- R248: .rdx: the slot rounded once to FP32, and its flags. -/
def slotRead (slot rm : Nat) (sat : Bool) : Word × Byte :=
  if slot / 2 ^ 97 % 2 = 1 then (qnan, flagNV)
  else
    let acc := (BitVec.ofNat 80 slot).toInt
    let (c, fl) := finalRound (.fin (decide (acc < 0)) acc.natAbs (BitVec.ofNat 16 (slot / 2 ^ 80)).toInt) (slot / 2 ^ 96 % 2 == 1)
      (.flt fp32) rm sat
    (BitVec.ofNat 32 c, fl)

/-- R247, R248, R80: one lane's atomic on the bytes of its location: the new bytes (none for a slot-format error), the
result and its flags. -/
def atomicAct (op : Nat) (fmt : Word) (bytes : List Byte) (v : Word) (vs : Bool) (cmp : Word) : Option (List Byte) × Word × Byte :=
  let rm := (fmt.extractLsb' 0 3).toNat
  if op = 11 then ((slotAdd (leNat bytes) (ofFp32 v) vs).map (leBytes 16), 0, 0)
  else if op = 12 then
    let (w, fl) := slotRead (leNat bytes) rm (fmt.getLsbD 3)
    (some bytes, w, fl)
  else
    let m := BitVec.ofNat 32 (leNat bytes)
    (some (leBytes 4 (atomicNew op rm m v cmp).toNat), m, 0)

/-! ### Operations in flight -/

/-- A load of a group, and a change to it. -/
def State.load? (s : State) (gid id : Nat) : Option LoadOp := (s.group? gid).bind fun g => g.loads.find? fun l => l.id == id
def State.modLoad (s : State) (gid id : Nat) (f : LoadOp → LoadOp) : State :=
  s.modGroup gid fun g => { g with loads := g.loads.map fun l => if l.id = id then f l else l }

/-- A store-queue entry, and a change to it. -/
def State.store? (s : State) (q id : Nat) : Option StoreOp := (s.queue? q).bind fun x => x.ents.find? fun e => e.id == id
def State.modStore (s : State) (q id : Nat) (f : StoreOp → StoreOp) : State :=
  s.modQueue q fun x => { x with ents := x.ents.map fun e => if e.id = id then f e else e }

/-- R86: what a load asks of its leaf. -/
def LoadKind.want : LoadKind → Want
  | .atomic _ _ => Want.atomic
  | _ => Want.load
def StoreKind.want : StoreKind → Want
  | .push _ => Want.push
  | .atomic _ _ => Want.atomic
  | _ => Want.store

/-- Whether an operation goes through translation. -/
def LoadKind.global : LoadKind → Bool
  | .scratch _ => false
  | .atomic .scratch _ => false
  | .tile _ _ _ _ _ => false
  | _ => true

/-- The pages that a load's unread spans still lack. -/
def LoadOp.lacks (o : LoadOp) : List Nat :=
  if !o.kind.global then [] else
  ((o.lanes.filter fun a => a.st == .need).flatMap fun a => (a.spans.filter fun p => p.pa.isNone).map fun p => pageOf p.va).dedup

/-- R87: a load with the translations that its cluster's buffer has for it. -/
def LoadOp.translated (o : LoadOp) (s : State) (c : Nat) (asn : BitVec 16) : LoadOp :=
  if !o.kind.global then o else
  { o with lanes := o.lanes.map fun a =>
      if a.st = .need then
        { a with spans := a.spans.map fun p =>
            if p.pa.isSome then p else
              match s.lookup c asn p.va o.kind.want with
              | some e => { p with pa := some (e.pa p.va), tr := e.tr, l2c := e.l2c }
              | none => p }
      else a }

/-- Walks for the pages that a load lacks. -/
def State.askWalks (s : State) (gid id : Nat) (asn : BitVec 16) (pages : List Nat) : State :=
  pages.foldl (fun s v => s.askWalk (gidCluster gid) asn v (.load (BitVec.ofNat 18 gid) id)) s

/-- Translate what a load still lacks through the cluster's buffer. -/
def State.translateLoad (s : State) (gid id : Nat) : State :=
  match s.group? gid, s.load? gid id with
  | some g, some o =>
    let c := gidCluster gid
    (s.modLoad gid id fun o => o.translated s c g.asn).askWalks gid id g.asn (o.translated s c g.asn).lacks
  | _, _ => s

/-- R164: once every lane has translated, a fragment that has not parked goes on, and the window opens. -/
def State.openWindow (s : State) (gid id : Nat) : State :=
  match s.group? gid, s.load? gid id with
  | some g, some o =>
    if o.opened || !o.lacks.isEmpty then s else
    match g.frags.find o.frag with
    | some f =>
      if f.state = .opWait ∧ f.hold = .translate id then
        let s := (s.advanceFrag gid o.frag 4).modLoad gid id fun o => { o with opened := true }
        s.modGroup gid fun g => g.modFrag o.frag fun f => { f with windows := f.windows ++ [⟨id, o.pc, o.window, [o.rd]⟩] }
      else s
    | none => s
  | _, _ => s

/-- R238: a load, returning atomic or readout issues. `pend` are the registers its window has pending. Once every lane has
translated, and at once where none is translated, the window opens and the fragment goes on (R164). -/
def State.startLoad (s : State) (c : Ctx) (kind : LoadKind) (rd base : Nat) (lanes : List LaneAcc) (acq rel : Option Nat)
    (la : Nat) (pend : List Nat) : State :=
  let id := c.g.nextOp
  let o : LoadOp := { id := id, frag := c.fid, pc := c.f.pc, kind := kind, rd := rd, base := base, lanes := lanes, fmt := c.f.fmt,
                      acq := acq, rel := rel, hdr := c.f.hdr, window := la, opened := false, poisonSeq := none }
  let o := o.translated s (gidCluster c.gid) c.g.asn
  let opened := o.lacks.isEmpty
  let g := { c.g with loads := c.g.loads ++ [{ o with opened := opened }], nextOp := id + 1 }
  let s := (s.askWalks c.gid id c.g.asn o.lacks).addDue (.loadDataReturn (BitVec.ofNat 18 c.gid) id .clean)
  if opened then
    (s.commit c 4 g).modGroup c.gid fun g => g.modFrag c.fid fun f => { f with windows := f.windows ++ [⟨id, o.pc, la, pend⟩] }
  else
    let g := g.countWindows c.fid
    (s.putGroup c.gid { g.modFrag c.fid (fun f => { f with state := .opWait, hold := .translate id }) with instrs := g.instrs + 1 }).endTurn c.gid

/-- R101, R238: a store, push, nr atomic or cache maintenance enters the store queue; its fragment goes on. The
flags of its rounding are set as it issues; between issue and completion the spec lets a read of sr.flags show them or not (DESIGN
CHOICE, log 58). -/
def State.startStore (s : State) (c : Ctx) (kind : StoreKind) (lanes : List LaneStore) (rel : Option Nat) (fl : Byte) : State :=
  let id := c.g.nextOp
  let e : StoreOp := { id := id, pc := c.f.pc, kind := kind, lanes := lanes, fmt := c.f.fmt, rel := rel, performed := false, answers := [],
                       homeLines := [], leaves := [] }
  let s := (s.modQueue c.g.sq fun q => { q with ents := q.ents ++ [e] }).addDue (.storePerformed c.g.sq)
  s.commitFlags c 4 { c.g with nextOp := id + 1 } fl

/-! ### Ordering and forwarding (R101 to R104) -/

/-- R103, R104: an access that a FENCE of its group precedes waits while the FENCE does. -/
def Group.fenced (g : Group) (id : Nat) : Bool :=
  g.halt.isNone && g.frags.any fun f => match f.2.hold with | .fence n => decide (n ≤ id) | _ => false

/-- R101: whether a load may be performed: it is the oldest that has not been; the older store-queue entries that it may
not pass have been performed; a release waits for everything older (R103). -/
def State.mayLoad (s : State) (g : Group) (o : LoadOp) : Bool :=
  let older := (((s.queue? g.sq).map fun q => q.ents).getD []).filter fun e => decide (e.id < o.id) && !e.performed
  let scr := match o.kind with
    | .scratch _ => true
    | .atomic .scratch _ => true
    | _ => false
  let pass := fun (e : StoreOp) => match e.kind with
    | .plain => true
    | .push _ => true
    | .scratch => !scr
    | _ => false
  let first := (g.loads.filter fun l => match l.kind with | .tile _ _ _ _ _ => false | _ => true).head?
  (first.map fun l => l.id == o.id).getD true
    && (match o.kind with | .atomic _ _ => older.isEmpty | _ => older.all pass)
    && !g.launchBefore o.id && (o.rel.isNone || s.drained g o.id) && !g.fenced o.id

/-- R85, R382: the translation that an entry has for an address. -/
def StoreOp.leaf (e : StoreOp) (va : Nat) : Option CtbEntry := (e.leaves.find? fun p => p.1 == pageOf va).map (·.2)
/-- The physical address of a byte of an entry, by its own translation or its cluster's buffer. -/
def State.storePa (s : State) (c : Nat) (asn : BitVec 16) (e : StoreOp) (va : Nat) : Option Nat :=
  ((e.leaf va).orElse fun _ => s.lookup c asn va Want.store).map fun t => t.pa va

/-- R101: the older stores and pushes that are still in the queue. -/
def State.olderStores (s : State) (g : Group) (id : Nat) : List StoreOp :=
  (((s.queue? g.sq).map fun q => q.ents).getD []).filter fun e => decide (e.id < id) && !e.performed
      && match e.kind with | .plain => true | .push _ => true | _ => false

/-- R101: their writes, oldest first, each with its physical address once it has one. DEDUCED: log 37. -/
def State.olderWrites (s : State) (c : Nat) (g : Group) (id : Nat) : List (ByteWrite × Option Nat) :=
  (s.olderStores g id).flatMap fun e => e.lanes.flatMap fun l => l.writes.map fun w => (w, s.storePa c g.asn e w.addr)

/-- R101: a byte of a load: memory's, or what the older stores of the group that overlap it leave. Two addresses
overlap if they are the same, or translate to the same byte. DEDUCED: log 37. -/
def forwardByte (ws : List (ByteWrite × Option Nat)) (va pa : Nat) (b : Byte) : Byte × Bool :=
  (ws.filter fun w => w.1.addr == va || w.2 == some pa).foldl (fun r w => (w.1.on r.1, r.2 || w.1.mask == 0xFF)) (b, false)

/-! ### Performing a load (R101, R113, R116, R388) -/

/-- The bytes of a lane's spans in order. -/
def LaneAcc.bytes (a : LaneAcc) : List Byte := a.spans.flatMap fun p => p.data.getD []

/-- What a lane's bytes give: the register and its flags. -/
def LoadOp.value (o : LoadOp) (a : LaneAcc) : VReg × Byte :=
  let n := leNat a.bytes
  match o.kind with
  | .typed sub => (⟨loadElem sub (n / 2 ^ (typeWidth sub * a.lane % 8) % 2 ^ typeWidth sub), false⟩, 0)
  | .scratch code => (⟨loadElem (scratchType code) n, false⟩, 0)
  | .spill => (⟨BitVec.ofNat 32 n, (n / 2 ^ (32 + a.lane % 32)) % 2 == 1⟩, 0)
  | .mx code =>
    let w := width (floatFmt code)
    let k := a.bytes.length - 1
    let r := mxDecode code (n / 2 ^ (w * (a.lane % 32) % 8) % 2 ^ w) (n / 256 ^ k)
    (⟨r.1, false⟩, r.2)
  | .atomic _ _ => (⟨a.old, false⟩, a.fl)
  | _ => (⟨0, false⟩, 0)
where width (f : FloatFmt) : Nat := f.eb + f.mb + 1

/-- R188: a scalar load's result. -/
def scalarValue (size : Nat) (zext : Bool) (n : Nat) : Dword :=
  match size with
  | 0 => if zext then BitVec.ofNat 64 n else sextD (BitVec.ofNat 8 n)
  | 1 => if zext then BitVec.ofNat 64 n else sextD (BitVec.ofNat 16 n)
  | 2 => if zext then BitVec.ofNat 64 n else sextD (BitVec.ofNat 32 n)
  | _ => BitVec.ofNat 64 n

/-- R40: lanes whose bytes have all been read are written at once. -/
def State.commitLanes (s : State) (gid id : Nat) : State :=
  match s.group? gid, s.load? gid id with
  | some g, some o =>
    let full := fun (a : LaneAcc) => a.st == .need && a.spans.all fun p => p.data.isSome
    let ready := o.lanes.filter full
    let g := ready.foldl (fun g a =>
      match o.kind with
      | .scalar size z => g.setS o.rd (scalarValue size z (leNat a.bytes))
      | _ => g.setV a.lane o.rd (o.value a).1) g
    let o' := { o with lanes := o.lanes.map fun a => if full a then { a with st := .done, fl := a.fl ||| (o.value a).2 } else a }
    s.putGroup gid { g with loads := g.loads.map fun l => if l.id = id then o' else l }
  | _, _ => s

/-- The bytes that lanes of a load have read, by physical address. -/
def LoadOp.readBytes (o : LoadOp) : List (Nat × Byte) :=
  o.lanes.flatMap fun a => if a.st = .poisoned then [] else a.spans.flatMap fun p =>
    match p.pa, p.data with
    | some pa, some bs => bs.zipIdx.map fun b => (pa + b.2, b.1)
    | _, _ => []

/-- One line of a load is read: every span of it in that line takes its bytes together, and a byte that another lane of the load has
read is the one it read (R102). -/
def State.readSpans (s : State) (gid id line : Nat) (data : List Byte) (psn : BitVec 4) : State :=
  match s.group? gid, s.load? gid id with
  | some g, some o =>
    let ws := s.olderWrites (gidCluster gid) g id
    let seen := o.readBytes.filter fun b => b.1 / 128 == line
    let byte := fun (va pa : Nat) =>
      match seen.find? fun b => b.1 == pa with
      | some b => (b.2, true)
      | none => forwardByte ws va pa (data.getD (pa % 128) 0)
    let one := fun (p : Span) =>
      match p.pa, p.data with
      | some pa, none =>
        if pa / 128 = line then
          let bs : List ((Byte × Bool) × Nat) := (List.range p.len).map fun i => (byte (p.va + i) (pa + i), (pa + i) % 128 / 32)
          ({ p with data := some (bs.map fun b : (Byte × Bool) × Nat => b.1.1) },
            bs.any fun b : (Byte × Bool) × Nat => !b.1.2 && psn.getLsbD b.2)
        else (p, false)
      | _, _ => (p, false)
    s.modLoad gid id fun o => { o with lanes := o.lanes.map fun a =>
      if a.st = .need then
        let rs := a.spans.map one
        { a with spans := rs.map (·.1), st := if rs.any (·.2) then .poisoned else .need }
      else a }
  | _, _ => s

/-- A span that is translated and unread, in a line. -/
def Span.waitsFor (p : Span) (line : Nat) : Bool := p.data.isNone && (p.pa.map fun pa => pa / 128) == some line

/-- The lines of a load that are translated and unread, with their treatment and L2C. -/
def LoadOp.lines (o : LoadOp) : List (Nat × Nat × Bool) :=
  ((o.lanes.filter fun a => a.st == .need).flatMap fun a => a.spans.filterMap fun p =>
    match p.pa, p.data with
    | some pa, none => some (pa / 128, p.tr, p.l2c)
    | _, _ => none).dedup

/-- R374: the lanes of a load that wait for a line whose home is not reached are answered with an error, which ends them as
an abort does (DEDUCED, log 52). -/
def State.loadClosed (s : State) (gid id line : Nat) : State :=
  (s.notSent (gidDie gid) (lineDie line)).modLoad gid id fun o => { o with lanes := o.lanes.map fun a =>
    if a.st = .need ∧ (a.spans.any fun p => p.waitsFor line) = true then { a with st := .aborted } else a }

/-- R101: an older store of the group may turn out to overlap what a load reads in a line: the same offset in another page, which has not
translated yet. -/
def State.aliasOpen (s : State) (gid : Nat) (g : Group) (o : LoadOp) (line : Nat) : Bool :=
  (s.olderStores g o.id).any fun e => e.lanes.any fun l => l.writes.any fun w =>
    (s.storePa (gidCluster gid) g.asn e w.addr).isNone && o.lanes.any fun a => a.st == .need && a.spans.any fun p =>
      p.waitsFor line && pageOf p.va != pageOf w.addr && decide (p.va % 65536 ≤ w.addr % 65536) && decide (w.addr % 65536 < p.va % 65536 + p.len)

/-- R113: one line of a load: read if it is ready, else asked for; what is not cached must be reached, and waits where nothing new is
sent (R391). -/
def State.readOne (s : State) (gid id line tr : Nat) (acq l2c : Bool) : State :=
  let k := cacheOfCore (gidCore gid)
  let hit := (s.cache k).lines.has line && tr != 2 && !(tr == 1 && acq)
  let waits := match s.group? gid, s.load? gid id with
    | some g, some o => s.aliasOpen gid g o line
    | _, _ => true
  if waits then s
  else if !hit && !s.linked (gidDie gid) (lineDie line) then s.loadClosed gid id line
  else if !hit && s.heldBack (gidDie gid) (lineDie line) then s
  else if s.lineReady k line tr then
    let (s, data, psn) := s.readLine k line tr acq l2c
    s.readSpans gid id line data psn
  else (s.requestFill k line (some (gid, id))).l2Use line l2c

/-- R113: read each line that is ready; ask for the others. -/
def State.readLines (s : State) (gid id : Nat) (acq : Bool) : State :=
  match s.load? gid id with
  | none => s
  | some o => o.lines.foldl (fun s l => s.readOne gid id l.1 l.2.1 acq l.2.2) s

/-- Bytes of a near or scratchpad atomic's location, from a span already read. -/
def LaneAcc.loc (a : LaneAcc) : Option (Nat × Nat × Nat) := (a.spans.head?).bind fun p => p.pa.map fun pa => (pa, p.tr, p.va)

/-- R40, R108: a returning atomic's lane that has been performed: its result is written at once. -/
def State.laneResult (s : State) (gid id lane : Nat) (st : LaneSt) (old : Word) (fl : Byte) : State :=
  let rd := ((s.load? gid id).map (·.rd)).getD 0
  let s := s.modLoad gid id fun o => { o with lanes := o.lanes.map fun a =>
    if a.lane = lane then
      { a with st := st, old := old, fl := fl, spans := a.spans.map fun p => { p with data := some [] } }
    else a }
  if st = .done then s.modGroup gid fun g => g.setV lane rd ⟨old, false⟩ else s

/-- R79, R108, R116, R388: one lane's atomic at the home bank: the new state; the result, none for poison; and whether
the slot was malformed. -/
def State.bankAct (s : State) (cache tr pa op : Nat) (fmt : Word) (v : Word) (vs : Bool) (cmp : Word) :
    State × Option (Word × Byte) × Bool :=
  let line := pa / 128
  let s := if tr = 0 then s.homeSync line true [] else s
  if s.poisoned pa then (s, none, false) else
  let (new, w, fl) := atomicAct op fmt (s.readBytes pa (atomicSize op)) v vs cmp
  match new with
  | none => (s, some (0, 0), true)
  | some bs =>
    let s := s.writeHome ((List.range bs.length).map fun i => (pa + i, bs.getD i 0))
    (if tr = 1 then s.fillV cache line else s, some (w, fl), false)

/-- R108, R113: one lane's near atomic in a line that the L1 holds in M. -/
def State.nearAct (s : State) (cache pa op : Nat) (fmt : Word) (v : Word) (vs : Bool) (cmp : Word) : State × Option Word :=
  let line := pa / 128
  match (s.cache cache).lines.find line with
  | none => (s, none)
  | some l =>
    if l.psn.getLsbD (pa % 128 / 32) then (s, none) else
    let (new, w, _) := atomicAct op fmt ((List.range 4).map fun i => l.data.getD (pa % 128 + i) 0) v vs cmp
    let l := l.store line ((List.range 4).map fun i => (pa + i, (new.getD []).getD i 0))
    ((s.modCache cache fun x => { x with lines := x.lines.put line l }).consume cache line, some w)

/-- R91: the pages of an access, each with its translation, are marked as written: of each translation all its pages at once. -/
def State.markLeaves (s : State) (c : Nat) (ls : List (Nat × CtbEntry)) : State :=
  (ls.map (·.2)).dedup.foldl (fun s t => s.markAll c t ((ls.filter fun l => l.2 == t).map fun l => 65536 * l.1)) s

/-- R91: the pages of addresses that an access writes are marked as written; one whose translation the buffer has given up has D set. -/
def State.markPages (s : State) (c : Nat) (asn : BitVec 16) (as : List (Nat × Nat)) (want : Want) : State :=
  let pages := (as.map fun a => (pageOf a.1, a.2 / 65536)).dedup
  let ent := fun (v : Nat) => s.lookup c asn (65536 * v) want
  let t := s.markLeaves c (pages.filterMap fun p => (ent p.1).map fun e => (p.1, e))
  (pages.filter fun p => (ent p.1).isNone).foldl (fun s p => s.setDirty (65536 * p.2)) t

/-- R102, R247: a lane of an atomic waits for a lower one that may turn out to name its location: the same offset in a page that has
not translated. -/
def LoadOp.behind (o : LoadOp) (a : LaneAcc) : Bool :=
  o.lanes.any fun b => decide (b.lane < a.lane) && b.st == .need && b.spans.any fun p => p.pa.isNone
    && a.spans.any fun r => r.va % 65536 == p.va % 65536

/-- The lanes of an atomic that can be performed. -/
def LoadOp.ready (o : LoadOp) : List LaneAcc := o.lanes.filter fun a => a.st == .need && a.loc.isSome && !o.behind a

/-- R108: a returning atomic: near lanes on T pages in the L1 once it holds the line in M, the others at the bank. -/
def State.performAtomic (s : State) (gid id : Nat) (unit : AtomUnit) (op : Nat) : State :=
  match s.group? gid, s.load? gid id with
  | some g, some o =>
    let k := cacheOfCore (gidCore gid)
    let lanes := o.ready
    let s := s.markPages (gidCluster gid) g.asn (lanes.filterMap fun a => a.loc.map fun x => (x.2.2, x.1)) Want.atomic
    let near := fun (a : LaneAcc) => unit == .near && (a.loc.map fun x => x.2.1 == 0).getD false
    let s := (lanes.filter near).foldl (fun s a =>
      match a.loc with
      | none => s
      | some (pa, _, _) =>
        if s.holdsM k (pa / 128) then
          match s.nearAct k pa op o.fmt a.opd a.opdS a.cmp with
          | (s, some w) => s.laneResult gid id a.lane .done w 0
          | (s, none) => s.laneResult gid id a.lane .poisoned 0 0
        else if !s.linked (gidDie gid) (paDie pa) then (s.notSent (gidDie gid) (paDie pa)).laneResult gid id a.lane .aborted 0 0
        else s.addDue (.homeOwnershipRequest k (pa / 128))) s
    if (lanes.filter fun a => !near a).isEmpty then s else s.addDue (.farAtomicAtBank (.load (BitVec.ofNat 18 gid) id))
  | _, _ => s

/-! ### The end of a load (R62, R166, R377, R378, R381) -/

/-- The lowest address that lanes in a state name. DEDUCED: log 39. -/
def LoadOp.lowestVa (o : LoadOp) (st : LaneSt) : Nat :=
  ((o.lanes.find? fun a => a.st == st).bind fun a => a.spans.head?.map (·.va)).getD 0

/-- R377: physical address of the lowest poisoned byte that a poisoned lane names. DEDUCED: log 39. -/
def State.lowestPoison (s : State) (o : LoadOp) : Nat :=
  let pas := (o.lanes.filter fun a => a.st == .poisoned).flatMap fun a => a.spans.flatMap fun p =>
    match p.pa with
    | some pa => (List.range p.len).filterMap fun i => if s.poisoned (pa + i) then some (pa + i) else none
    | none => []
  match pas with
  | [] => 0
  | x :: xs => xs.foldl min x

/-- R189: the fragment that a scalar load holds: the one that waits on it. -/
def Group.sldFrag (g : Group) (o : LoadOp) : Nat :=
  ((g.frags.find? fun e => e.2.hold == .translate o.id || e.2.windows.any fun w => w.op == o.id).map (·.1)).getD o.frag

/-- R189, R377, R381: the fragments with unread lanes stand at the instruction, with those lanes as replay mask: of a scalar
load the whole fragment `sld`. -/
def Group.standAt (g : Group) (o : LoadOp) (sld : Nat) (lanes : List Nat) : Group :=
  { g with frags := g.frags.map fun e =>
      let m := match o.kind with
        | .scalar _ _ => if e.1 = sld then e.2.mask else 0
        | _ => e.2.mask &&& maskOf lanes
      if m = 0 then e
      else (e.1, { e.2 with pc := o.pc, hdr := o.hdr, inClause := false, reread := true, words := [], state := .memPark, hold := .none,
                            replay := m }) }

/-- R61, R247: the flags that a load's answered lanes set: IO too where an atomic's operand had S = 1. -/
def LoadOp.flags (o : LoadOp) : Byte :=
  let ended := o.lanes.filter fun a => a.st == .done
  ended.foldl (fun b a => b ||| a.fl) 0 ||| (match o.kind with | .atomic _ _ => flagIf (ended.any fun a => a.opdS) flagIO | _ => 0)

/-- R61: a load that ends raises the flags of its lanes, and the arithmetic trap of an enabled one. -/
def State.loadTrap (s : State) (gid : Nat) (o : LoadOp) : State :=
  let te := o.fmt.extractLsb' 16 8
  if o.flags &&& te = 0 then s else s.takeException gid ⟨1, 0x0D, o.pc.toNat, 0, (o.flags &&& te).toNat⟩

/-- R378, R388: the record of a load's poisoned lanes, once. -/
def State.formPoison (s : State) (gid id : Nat) : State :=
  match s.group? gid, s.load? gid id with
  | some g, some o =>
    let n := (o.lanes.filter fun a => a.st == .poisoned).length
    if n = 0 ∨ o.poisonSeq.isSome then s
    else
      let s := s.record (gidDie gid) ((⟨1, 0x0F, o.pc.toNat, s.lowestPoison o, n⟩ : Exc).record gid g)
      s.modLoad gid id fun o => { o with poisonSeq := some (s.die (gidDie gid)).seq }
  | _, _ => s

/-- R378, R388: it is formed when every lane that has translated has been read. -/
def State.notePoison (s : State) (gid id : Nat) : State :=
  match s.load? gid id with
  | some o => if o.lanes.any fun a => a.st == .need && a.spans.any fun p => p.pa.isSome && p.data.isNone then s else s.formPoison gid id
  | none => s

/-- R378, R380, R381: what the failed lanes of a load bring about when no lane is left: the record of the aborted ones, and one halt,
which carries the cause of the record that was first. DEDUCED: log 39. -/
def State.loadFaults (s : State) (gid : Nat) (o : LoadOp) : State :=
  let n := fun st => (o.lanes.filter fun a => a.st == st).length
  let s := match s.group? gid with
    | some g => if n .aborted = 0 then s else s.record (gidDie gid) ((⟨1, 0x0E, o.pc.toNat, o.lowestVa .aborted, n .aborted⟩ : Exc).record gid g)
    | none => s
  let call := if n .poisoned ≠ 0 then 0x010F else if n .expired ≠ 0 then 0x0304 else if n .aborted ≠ 0 then 0x010E else 0
  if call = 0 then s else s.haltGroup gid call o.pc.toNat

/-- R62: a load whose lanes are all answered is over: flags, faults, its window, and what waited for it. An acquire's transition comes
after its own read, so that a V copy which the read has filled goes with the others (DESIGN CHOICE, log 39). DEDUCED: log 39. -/
def State.finishLoad (s : State) (gid id : Nat) : State :=
  let s := s.notePoison gid id
  match s.group? gid, s.load? gid id with
  | some g, some o =>
    if o.lanes.any fun a => a.st == .need then s else
    let sld := g.sldFrag o
    let lost := (o.lanes.filter fun a => a.st != .done).map (·.lane)
    let s := s.dropDue (.loadDataReturn (BitVec.ofNat 18 gid) id .clean)
    let s := s.putGroup gid { g with
      loads := g.loads.filter fun l => l.id != id, flags := g.flags ||| o.flags
      frags := g.frags.map fun e => (e.1, { e.2 with windows := e.2.windows.filter fun w => w.op != id }) }
    let s := if lost.isEmpty ∧ o.opened = false then s.advanceFrag gid o.frag 4 else s
    let s := if o.acq.isSome then s.acquire (gidCore gid) else s
    let s := s.loadFaults gid o
    let s := if lost.isEmpty then s else s.modGroup gid fun g => g.standAt o sld lost
    (s.loadTrap gid o).settle gid
  | _, _ => s

/-! ### Scratchpad accesses (R72, R101, R387) -/

/-- R47: the grant of a group's gang in its cluster. -/
def State.grantOf (s : State) (gid : Nat) (g : Group) : Nat × Nat := (s.cluster (gidCluster gid)).grantOf g.grid g.gang

/-- R387: whether a scratchpad byte lies in a poisoned word. -/
def Cluster.spoiled (c : Cluster) (off : Nat) : Bool := decide (off / 4 ∈ c.spoison)

/-- R388: a scratchpad write; a word it covers wholly loses its mark. -/
def Cluster.scratchWrite (c : Cluster) (ws : List (Nat × Byte)) : Cluster :=
  let c := ws.foldl (fun c w => c.setSbyte w.1 w.2) c
  { c with spoison := c.spoison.filter fun k => !((List.range 4).all fun i => ws.any fun w => w.1 == 4 * k + i) }

/-- R101: a scratchpad load or returning scratchpad atomic is performed, its lanes in ascending order. -/
def State.performScratch (s : State) (gid id : Nat) (op : Option Nat) : State :=
  match s.group? gid, s.load? gid id with
  | some g, some o =>
    let cl := gidCluster gid
    let base := (s.grantOf gid g).1
    o.lanes.foldl (fun s a =>
      match a.st, a.spans.head? with
      | .need, some p =>
        let off := base + p.va
        let c := s.cluster cl
        if (List.range p.len).any fun i => c.spoiled (off + i) then s.laneResult gid id a.lane .poisoned 0 0
        else
          let bs := c.sbytes off p.len
          match op with
          | none =>
            let s := s.modLoad gid id fun o => { o with lanes := o.lanes.map fun b =>
              if b.lane = a.lane then { b with spans := [{ p with data := some bs }] } else b }
            s.commitLanes gid id
          | some k =>
            let (new, w, fl) := atomicAct k o.fmt bs a.opd a.opdS a.cmp
            let s := s.modCluster cl fun c => c.scratchWrite ((List.range 4).map fun i => (off + i, (new.getD []).getD i 0))
            s.laneResult gid id a.lane .done w fl
      | _, _ => s) s
  | _, _ => s

/-! ### Tile readouts (R153, R284, R285) -/

/-- R153, R284: a tile entry read with a final rounding. -/
def readEntry (sub rm : Nat) (sat : Bool) (ae : BitVec 16) (e : TEntry) : Word × Byte :=
  if e.v then (if sub = 0 then 0x7FC00000 else 0x7FFFFFFF, flagNV)
  else
    let a := e.acc.toInt
    let (c, fl) := finalRound (.fin (decide (a < 0)) a.natAbs ae.toInt) e.s
      (if sub = 0 then .flt fp32 else .int 32 2147483648 2147483647) rm sat
    (BitVec.ofNat 32 c, fl)

/-- R285: an entry read raw into four registers. -/
def rawEntry (ae : BitVec 16) (e : TEntry) : List Word :=
  [e.acc.extractLsb' 0 32, e.acc.extractLsb' 32 32, e.acc.extractLsb' 64 32,
   ae ++ (BitVec.ofNat 16 ((if e.v then 2 else 0) + (if e.s then 1 else 0)))]

/-- R271, R284, R285: the lanes of a readout read their tile at one moment. -/
def State.performTile (s : State) (gid id : Nat) (raw : Bool) (sub tile row col : Nat) : State :=
  match s.group? gid, s.load? gid id with
  | some g, some o =>
    let t := (s.cluster (gidCluster gid)).tiles.get Tile.reset tile
    let one := fun (l : Nat) =>
      let i := row + l / 32
      let j := col + l % 32
      if 128 ≤ i ∨ 128 ≤ j then (List.replicate 4 (0 : Word), (0 : Byte))
      else
        let e := t.ents.get TEntry.zero (128 * i + j)
        if raw then (rawEntry t.ae e, 0)
        else
          let (w, fl) := readEntry sub (o.fmt.extractLsb' 0 3).toNat (o.fmt.getLsbD 3) t.ae e
          ([w], fl)
    let n := if raw then 4 else 1
    let g := o.lanes.foldl (fun g a => (List.range n).foldl (fun g k => g.setV a.lane (o.rd + k) ⟨(one a.lane).1.getD k 0, false⟩) g) g
    (s.putGroup gid g).modLoad gid id fun o => { o with lanes := o.lanes.map fun a => { a with st := .done, fl := (one a.lane).2 } }
  | _, _ => s

/-! ### LOAD_DATA_RETURN and FAR_ATOMIC_AT_BANK -/

/-- A load goes as far as it can: translation, its lines, its end. -/
def State.pursueLoad (s : State) (gid id : Nat) : State :=
  let s := (s.translateLoad gid id).openWindow gid id
  match s.group? gid, s.load? gid id with
  | some g, some o =>
    match o.kind with
    | .tile raw sub tile row col => (s.performTile gid id raw sub tile row col).finishLoad gid id
    | _ =>
    if !s.mayLoad g o then s else
    let s :=
      match o.kind with
      | .scratch _ => s.performScratch gid id none
      | .atomic .scratch op => s.performScratch gid id (some op)
      | .atomic unit op => s.performAtomic gid id unit op
      | .tile _ _ _ _ _ => s
      | _ => (s.readLines gid id o.acq.isSome).commitLanes gid id
    s.finishLoad gid id
  | _, _ => s

/-- R119: a fill that a newer write has overtaken: its data goes to the loads that wait on it. -/
def State.handOver (s : State) (line : Nat) (data : List Byte) (ws : List (Nat × Nat)) : State :=
  ws.foldl (fun s w =>
    match s.group? w.1, s.load? w.1 w.2 with
    | some g, some o =>
      if s.mayLoad g o && !s.aliasOpen w.1 g o line && (o.lines.any fun l => l.1 == line && l.2.1 == 0) then
        ((s.readSpans w.1 w.2 line data (s.marks line)).commitLanes w.1 w.2).finishLoad w.1 w.2
      else s
    | _, _ => s) s

/-- R119: the number `i` is newer than a fill's number `g`. -/
def overtakes (i : Option Word) (g : Word) : Bool :=
  match i with
  | some i => decide (1 ≤ (i - g).toNat) && decide ((i - g).toNat < 2 ^ 31)
  | none => false

/-- R113: the home's transaction with a cache over a line is over. -/
def State.endTxn (s : State) (line cache : Nat) : State :=
  s.modDie (lineDie line) fun x => { x with txns := x.txns.filter fun t => !(t.line == line && t.cache == cache) }

/-- R113, R119, R374: FILL_GRANT_RECEIVED. M is installed; a fill is, unless a newer number has overtaken it. One that does not
reach its cache ends the request: the load or store that waits asks again. -/
def execFillGrantReceived (cache line : Nat) (m : Bool) (q : Word) (data : List Byte) (s : State) : Out :=
  let e := Instr.fillGrantReceived cache line m q data
  if e ∉ s.due then .next s else
  let s := s.dropDue e
  if !s.reach (lineDie line) (cache / 80) then
    let s := s.modCache cache fun x => { x with miss := if m then x.miss else x.miss.erase line }
    .next (if m then ((s.setMDie line none).dropHolder line cache).endTxn line cache else s)
  else if m then
    .next (((s.modCache cache fun x => x.noteSeq line q).install cache line ⟨.m, s.marks line, 0, data⟩).endTxn line cache)
  else
    match (s.cache cache).miss.find line with
    | none => .next (s.protocolError line)
    | some w =>
      let s := s.modCache cache fun x => { x with miss := x.miss.erase line }
      .next (if overtakes w.inval q then s.handOver line data w.waiters else s.install cache line ⟨.s, s.marks line, 0, data⟩)

/-! ### Imprecise store faults (R382 to R384) -/

/-- R382, R383: the grid and gang of a store's group: known while it is not retired, and after that from the core's
retired-group record while its entry stands. -/
def State.storeOwner (s : State) (x : StoreQ) : Nat :=
  match x.retIdx with
  | none => x.grid.toNat * 2 ^ 32 + x.gang.toNat
  | some n =>
    match (s.core (gidCore x.gid)).retired.find? fun r => r.serial == n with
    | some r => r.grid.toNat * 2 ^ 32 + r.gang.toNat
    | none => 0

/-- R382, R388: an imprecise store fault: its record (`timed` wrote its own), and the halt of a resident group. Of a group that is
saved, and neither restored nor discarded yet, the record has flags[0] clear and nothing halts, then or at the restore (DESIGN CHOICE,
log 58). -/
def State.storeFault (s : State) (x : StoreQ) (e : StoreOp) (cls cause va : Nat) (timed : Bool) : State :=
  let d := gidDie x.gid
  let gone := !x.live && !x.saved
  let r := mkRec 1 cls cause (14 + if gone then 1 else 0) x.tenant.toNat x.gid (coreUnit x.gid) e.pc.toNat va (s.storeOwner x)
  if !x.live then (if timed then s else s.record d r)
  else if timed then s.haltGroup x.gid 0x0304 e.pc.toNat
  else s.recordHalt d r x.gid (256 * cls + cause) e.pc.toNat

/-! ### Performing a store-queue entry (R91, R92, R101, R113, R116, R117, R120) -/

/-- The entry of a queue whose turn it is. -/
def StoreQ.turn (x : StoreQ) : Option StoreOp := x.ents.find? fun e => !e.performed

/-- R101, R103: whether an older load of the group has not been performed, a FENCE before it waits, or a release does. -/
def State.storeBlocked (s : State) (x : StoreQ) (e : StoreOp) : Bool :=
  (x.live && ((s.group? x.gid).map fun g => (g.loads.any fun l => decide (l.id < e.id)) || g.launchBefore e.id || g.fenced e.id).getD false)
    || (e.rel.isSome && (x.ents.head?.map fun h => h.id != e.id).getD false)

/-- The lines, by virtual address, that an entry has still to write. -/
def StoreOp.vlines (e : StoreOp) : List Nat :=
  ((e.lanes.filter fun l => l.st == .need).flatMap fun l => l.writes.map fun w => w.addr / 128).eraseDups

/-- The writes of an entry in some of its lines, in ascending order of lanes (R102). -/
def StoreOp.onLines (e : StoreOp) (vls : List Nat) : List ByteWrite :=
  (e.lanes.filter fun l => l.st == .need).flatMap fun l => l.writes.filter fun w => decide (w.addr / 128 ∈ vls)

/-- Lines of an entry are done. -/
def StoreOp.linesDone (e : StoreOp) (vls : List Nat) : StoreOp :=
  { e with lanes := e.lanes.map fun l =>
      if l.st = .need then
        let ws := l.writes.filter fun w => decide (w.addr / 128 ∉ vls)
        { l with writes := ws, st := if ws.isEmpty then .done else .need }
      else l }

/-- R102, R240: the bytes that writes leave, given what stands there; `off` takes an address to a byte's place. -/
def mergeWrites (old : Nat → Byte) (ws : List (Nat × ByteWrite)) : List (Nat × Byte) :=
  ((ws.map (·.1)).dedup).map fun a => (a, (ws.filter fun w => w.1 == a).foldl (fun b w => w.2.on b) (old a))

/-- R113, R116, R117: a plain store's bytes in one line, through the L1 of `cache`; none if the line must first be
granted in M. -/
def State.storeLine (s : State) (cache line tr : Nat) (l2c : Bool) (ws : List (Nat × ByteWrite)) : Option State :=
  if tr = 0 then
    if s.holdsM cache line then
      match (s.cache cache).lines.find line with
      | some l =>
        let bs := mergeWrites (fun a => l.data.getD (a % 128) 0) ws
        some (s.modCache cache fun x => { x with lines := x.lines.put line (l.store line bs) })
      | none => none
    else none
  else
    let bs := mergeWrites s.readByte ws
    some ((if tr = 1 then s.writeThrough cache line bs else s.writeHome bs).l2Use line l2c)

/-- R120 to R122: a push's home write of one line, and its deliveries; none if the home is serving the line. A target keeps the copy
that the push is about to replace; in the pushing core's own copy the bytes stand at once (R106, R121). -/
def State.pushLine (s : State) (q : Nat) (x : StoreQ) (e : StoreOp) (targets : List Nat) (vpn : Nat) (ent : CtbEntry) (line : Nat)
    (ws : List (Nat × ByteWrite)) : Option State :=
  let t := ent.tr == 0
  let refuse := ent.tr == 2 || !ent.psh || !ent.pt vpn
  if t && s.lineBusy line then none else
  let k := cacheOfCore (gidCore x.gid)
  let keep := if refuse then [] else (targets.map cacheOfCore).filter fun c => (s.cache c).lines.has line && !(s.cache c).miss.has line
  let s := if t then s.homeSync line true keep else s
  let bs := mergeWrites s.readByte ws
  let s := (if ent.tr = 1 || decide (k ∈ keep) then s.writeThrough k line bs else s.writeHome bs).l2Use line ent.l2c
  let s := if t && !refuse && !targets.isEmpty then
      s.modDie (lineDie line) fun d => { d with txns := d.txns ++ [⟨line, 5120 + e.id, false, targets.map cacheOfCore, s.clock (lineDie line)⟩] }
    else s
  let s := targets.foldl (fun s c => s.addDue (.pushDelivery q e.id (BitVec.ofNat 12 c) line
      (BitVec.ofNat 10 (gidCluster x.gid)) t refuse (s.homeLine line))) s
  some s

/-! ### STORE_PERFORMED, PUSH_ANSWERED -/

/-- The pages that an entry has still to write, and those of them that have translated. -/
def StoreOp.pages (e : StoreOp) : List Nat := (e.vlines.map fun vl => pageOf (128 * vl)).dedup
def StoreOp.complete (e : StoreOp) : Bool := e.pages.all fun v => e.leaves.any fun p => p.1 == v

/-- R85, R382: an entry takes the translations of its pages; a page without one asks for a walk. -/
def State.translateStore (s : State) (q : Nat) (x : StoreQ) (e : StoreOp) : State :=
  let c := gidCluster x.gid
  let lacks := e.pages.filter fun v => !e.leaves.any fun p => p.1 == v
  let got := lacks.filterMap fun v => (s.lookup c x.asn (v * 65536) e.kind.want).map fun t => (v, t)
  let s := s.modStore q e.id fun e => { e with leaves := e.leaves ++ got }
  (lacks.filter fun v => !got.any fun p => p.1 == v).foldl (fun s v => s.askWalk c x.asn v (.store q e.id)) s

/-- R91: an entry's pages are marked as written, each by the translation that the buffer has for it now. -/
def State.markStore (s : State) (x : StoreQ) (e : StoreOp) : State :=
  let c := gidCluster x.gid
  s.markLeaves c ((e.leaves.filter fun p => decide (p.1 ∈ e.pages)).map fun p => (p.1, (s.lookup c x.asn (65536 * p.1) e.kind.want).getD p.2))

/-- R31, R384: a queue whose last entry has gone: of a retired group it goes too, and its grid may retire. -/
def State.afterStore (s : State) (q : Nat) : State :=
  match s.queue? q with
  | none => s
  | some x =>
    if x.live then s.settle x.gid
    else if x.ents.isEmpty && !x.saved then { s with queues := s.queues.erase q }.addDue (.gridRetire x.grid)
    else s

/-- R62, R101: an entry none of whose lanes has anything left to write has been performed; it leaves sc unless it is a
push with answers to come (R125). -/
def State.closeStore (s : State) (q id : Nat) : State :=
  match s.queue? q, s.store? q id with
  | some x, some e =>
    if e.lanes.any fun l => l.st == .need then s else
    let x := if e.answers.isEmpty then { x with ents := x.ents.filter fun e => e.id != id }
      else { x with ents := x.ents.map fun e => if e.id = id then { e with performed := true } else e }
    let s := s.putQueue q x
    let s := if x.turn.isNone then s.dropDue (.storePerformed q) else s
    s.afterStore q
  | _, _ => s

/-- R247: one lane of an nr atomic has been performed at its unit. -/
def State.nrDone (s : State) (q id lane : Nat) : State :=
  s.modStore q id fun e => { e with lanes := e.lanes.map fun l => if l.lane = lane then { l with st := .done, writes := [] } else l }

/-- R382: an entry that cannot be performed ends, with what it has not written, and counts as performed: one fault. -/
def State.storeEnds (s : State) (q : Nat) (x : StoreQ) (e : StoreOp) (st : LaneSt) (cls cause va : Nat) : State :=
  let s := s.modStore q e.id fun e => { e with lanes := e.lanes.map fun l => if l.st = .need then { l with st := st, writes := [] } else l }
  s.storeFault x e cls cause va (st == .expired)

/-- The location of an nr atomic's lane. -/
def LaneStore.va (l : LaneStore) : Nat := (l.writes.head?.map fun w => w.addr).getD 0

/-- The lanes of an nr atomic with their translations; `near`: those performed in the L1, else those at the bank (R108). -/
def StoreOp.nrLanes (e : StoreOp) (unit : AtomUnit) (near : Bool) : List (LaneStore × CtbEntry) :=
  (e.lanes.filterMap fun l => if l.st = .need then (e.leaf l.va).map fun t => (l, t) else none).filter fun a =>
    (unit == .near && a.2.tr == 0) == near

/-- R108, R374, R382, R388: an nr atomic: near lanes on T pages in the L1, the others at the bank, in ascending order, once every page
has translated. Where a lane meets poison, or a home that is not reached, nothing more of it is written (DEDUCED, log 52). -/
def State.performNr (s : State) (q : Nat) (x : StoreQ) (e : StoreOp) (unit : AtomUnit) (op : Nat) : State :=
  let k := cacheOfCore (gidCore x.gid)
  let d := gidDie x.gid
  let near := e.nrLanes unit true
  let far := e.nrLanes unit false
  let pa := fun (a : LaneStore × CtbEntry) => a.2.pa a.1.va
  let held := fun (a : LaneStore × CtbEntry) => (s.cache k).lines.find (pa a / 128)
  let poison := fun (a : LaneStore × CtbEntry) => if s.holdsM k (pa a / 128) then
      ((held a).map fun l => l.psn.getLsbD (pa a % 128 / 32)).getD false else s.poisoned (pa a)
  let cut := fun (a : LaneStore × CtbEntry) => !(s.holdsM k (pa a / 128)) && !s.linked d (paDie (pa a))
  match (near ++ far).find? cut with
  | some a => (s.notSent d (paDie (pa a))).storeEnds q x e .aborted 2 1 a.1.va
  | none =>
    match near.find? poison with
    | some a => s.storeEnds q x e .aborted 4 2 a.1.va
    | none =>
      let s := near.foldl (fun s a =>
        if s.holdsM k (pa a / 128) then (s.nearAct k (pa a) op e.fmt a.1.opd a.1.opdS a.1.cmp).1.nrDone q e.id a.1.lane
        else s.addDue (.homeOwnershipRequest k (pa a / 128))) s
      if far.isEmpty then s else s.addDue (.farAtomicAtBank (.store q e.id))

/-- R72, R101: a scratchpad store or nr atomic is performed, its lanes in ascending order; an nr atomic that meets poison writes
nothing (R388). -/
def State.performSts (s : State) (q : Nat) (x : StoreQ) (e : StoreOp) (op : Option Nat) : State :=
  let cl := gidCluster x.gid
  let base := ((s.cluster cl).grantOf x.grid x.gang).1
  let bad := if op.isNone then none else e.lanes.find? fun l => l.st == .need && (s.cluster cl).spoiled (base + l.va)
  match bad with
  | some l => s.storeEnds q x e .aborted 4 2 l.va
  | none =>
  e.lanes.foldl (fun s l =>
    let ws := l.writes.map fun w => (base + w.addr, w)
    match op with
    | none =>
      let c := s.cluster cl
      (s.putCluster cl (c.scratchWrite (mergeWrites c.sbyte ws))).modStore q e.id fun e => { e with lanes := e.lanes.map fun m =>
        if m.lane = l.lane then { m with st := .done, writes := [] } else m }
    | some k =>
      let off := base + l.va
      let c := s.cluster cl
      let (new, _, _) := atomicAct k e.fmt (c.sbytes off 4) l.opd l.opdS l.cmp
      (s.putCluster cl (c.scratchWrite ((List.range 4).map fun i => (off + i, (new.getD []).getD i 0)))).nrDone q e.id l.lane) s

/-- R256: the L1 data caches that a scope selects for a group's maintenance. -/
def scopeCaches (gid scope : Nat) : List Nat :=
  let cl := gidCluster gid
  match scope with
  | 1 => [cacheOfCore (gidCore gid)]
  | 2 => (List.range 5).map fun i => 5 * cl + i
  | 3 => (List.range 80).map fun i => 80 * gidDie gid + i
  | _ => List.range 5120

/-- R256: the translation of a page for maintenance, if it is valid and passes the ownership check as a load's would. -/
def State.maintPage (s : State) (c : Nat) (asn : BitVec 16) (va : Nat) : Option CtbEntry :=
  match s.lookup c asn va Want.maint with
  | some e => some e
  | none =>
    match s.walk (c / 16) asn.toNat va Want.maint false with
    | .ok e => some e
    | _ => none

/-- R256: the lines of a range whose page translates, page by page. -/
def State.maintLines (s : State) (c : Nat) (asn : BitVec 16) (lo n : Nat) : List (Nat × CtbEntry) :=
  if n = 0 then [] else
  (List.range ((lo + n - 1) / 65536 + 1 - lo / 65536)).flatMap fun p =>
    let at' := 65536 * (lo / 65536 + p)
    match s.maintPage c asn (at' % 2 ^ 64) with
    | none => []
    | some e => (List.range 512).filterMap fun i =>
      let va := at' + 128 * i
      if va + 128 ≤ lo ∨ lo + n ≤ va then none else some (e.pa (va % 2 ^ 64) / 128, e)

/-- R257, R338: CINV and CFLUSH act on every line in every selected cache; what is not reached is left as it is. -/
def State.performMaint (s : State) (x : StoreQ) (flush : Bool) (scope lo n : Nat) : State :=
  let d := gidDie x.gid
  let ks := (scopeCaches x.gid scope).filter fun k => s.caches.has k
  let cut := ((ks.map fun k => k / 80).dedup).filter fun e => !s.linked d e
  let s := cut.foldl (fun s e => s.notWalked d e) s
  let near := ks.filter fun k => decide (k / 80 ∉ cut)
  (s.maintLines (gidCluster x.gid) x.asn lo n).foldl (fun s l =>
    (near.filter fun k => s.linked (k / 80) (lineDie l.1)).foldl (fun s k => s.maintLine k l.1 flush) s) s

/-- R374, R382: an entry with a line whose home is not reached is answered with an error, which ends it as an abort does (DEDUCED,
log 52). -/
def State.storeClosed (s : State) (q : Nat) (x : StoreQ) (e : StoreOp) (vl line : Nat) : State :=
  (s.notSent (gidDie x.gid) (lineDie line)).storeEnds q x e .aborted 2 1 (((e.onLines [vl]).head?.map (·.addr)).getD 0)

/-- R106, R122: a delivery of a push to a core's own copy of a line is on its way. -/
def State.pushComing (s : State) (core line : Nat) : Bool := s.due.any (delivers core line)

/-- The lines that a store or push has still to write, by their place: virtual line, line, leaf. -/
def StoreOp.places (e : StoreOp) : List (Nat × Nat × CtbEntry) :=
  e.vlines.filterMap fun vl => (e.leaf (128 * vl)).map fun t => (vl, t.pa (128 * vl) / 128, t)

/-- R113: a line of a plain store that the L1 holds in M needs nothing of its home. -/
def State.ownLine (s : State) (k line : Nat) (e : StoreOp) (t : CtbEntry) : Bool := t.tr == 0 && s.holdsM k line && e.kind == .plain

/-- R102, R113, R116, R120: one line of a store or push, through every page that names it: written, or asked for. -/
def State.writeLine (s : State) (q : Nat) (x : StoreQ) (id line vl : Nat) (t : CtbEntry) : State :=
  match s.store? q id with
  | none => s
  | some e =>
    let k := cacheOfCore (gidCore x.gid)
    let vls := (e.places.filter fun p => p.2.1 == line).map (·.1)
    let ws := (e.onLines vls).map fun w => (128 * line + w.addr % 128, w)
    if ws.isEmpty || (!s.ownLine k line e t && s.heldBack (gidDie x.gid) (lineDie line)) then s
    else
      match e.kind with
      | .push targets =>
        match s.pushLine q x e targets (pageOf (128 * vl)) t line ws with
        | some s => s.modStore q id fun e =>
            { e.linesDone vls with answers := e.answers ++ targets.map fun c => (c, line), homeLines := e.homeLines ++ [line] }
        | none => s
      | _ =>
        if t.tr = 1 ∧ s.pushComing (gidCore x.gid) line = true then s
        else
          match s.storeLine k line t.tr t.l2c ws with
          | some s => s.modStore q id fun e => e.linesDone vls
          | none => (s.addDue (.homeOwnershipRequest k line)).l2Use line t.l2c

/-- R382: a store or push whose pages have all translated: every home is reached, or it ends; then its lines, one by one. -/
def State.writeLines (s : State) (q : Nat) (x : StoreQ) (e : StoreOp) : State :=
  let k := cacheOfCore (gidCore x.gid)
  match e.places.find? fun p => !s.ownLine k p.2.1 e p.2.2 && !s.linked (gidDie x.gid) (lineDie p.2.1) with
  | some p => s.storeClosed q x e p.1 p.2.1
  | none => e.places.foldl (fun s p => s.writeLine q x e.id p.2.1 p.1 p.2.2) (s.markStore x e)

/-- R101, R113, R120, R382: the entry whose turn it is goes as far as it can; it writes nothing before all its pages have
translated. -/
def State.pursueStore (s : State) (q : Nat) (x : StoreQ) (e : StoreOp) : State :=
  match e.kind with
  | .scratch => s.performSts q x e none
  | .atomic .scratch op => s.performSts q x e (some op)
  | .maint flush scope lo n =>
    (s.performMaint x flush scope lo n).modStore q e.id fun e => { e with lanes := [] }
  | k =>
    let s := s.translateStore q x e
    match s.store? q e.id with
    | none => s
    | some e =>
      if !e.complete then s else
      match k with
      | .atomic unit op => (s.markStore x e).performNr q x e unit op
      | _ => s.writeLines q x e

/-- R62, R101: STORE_PERFORMED: the first entry of a queue that has not been performed. -/
def execStorePerformed (q : Nat) (s : State) : Out :=
  let ev := Instr.storePerformed q
  if ev ∉ s.due then .next s else
  match s.queue? q with
  | none => .next (s.dropDue ev)
  | some x =>
    match x.turn with
    | none => .next (s.dropDue ev)
    | some e => .next (if s.storeBlocked x e then s else (s.pursueStore q x e).closeStore q e.id)

/-- R367, R387: the unit that detects a corrected error in what a load reads next, and where: the L1 or L2 that holds the line, else its
HBM4 stack; for the scratchpad the core, for a tile the array half. Tiles and scratchpad words are named by their index
(DESIGN CHOICE, log 39). -/
def State.correctedIn (s : State) (gid op : Nat) : Nat × Nat :=
  let core := coreUnit gid
  match s.group? gid, s.load? gid op with
  | some g, some o =>
    match o.kind, o.lines.head? with
    | .tile _ _ tile row col, _ => (unitOf (if tile < 4 then 2 else 3) (gidCluster gid), 16384 * tile + 128 * row + col)
    | _, some l =>
      let pa := 128 * l.1
      if (s.cache (cacheOfCore (gidCore gid))).lines.has l.1 && l.2.1 != 2 then (core, pa)
      else if l.1 ∈ (s.die (paDie pa)).l2.get [] (l2Set l.1) then (l2Unit pa, pa) else (hbmUnit pa, pa)
    | _, none => (core, (s.grantOf gid g).1 + (((o.lanes.head?).bind fun a => a.spans.head?.map (·.va)).getD 0))
  | _, _ => (core, 0)

/-- R364, R387: the record of a corrected error. -/
def State.corrected (s : State) (d unit addr : Nat) : State := s.record d (mkRec 0 4 1 (if addr = 0 then 0 else 8) 0 0 unit 0 addr 0)

/-- R387: an uncorrectable error that costs a tenant its grids on the die; the cause is not the spec's (log 18). -/
def State.tenantLost (s : State) (d unit tenant gid addr : Nat) : State :=
  s.record d (mkRec 2 4 (Config.unstatedCause 4).toNat (6 + if addr = 0 then 0 else 8) tenant gid unit 0 addr 0)

/-- R389: a parity error in a filter or directory entry: the line counts as held by every cache; copies are invalidated, one in M
recalled, as an access at home does. -/
def State.dropDirectory (s : State) (line : Nat) : State :=
  let d := lineDie line
  let s := s.record d (mkRec 0 5 1 8 0 0 (l2Unit (128 * line)) 0 (128 * line) 0)
  let s := s.homeSync line true []
  let (n, s) := s.homeNext line
  (s.caches.keys.filter fun k => s.reach d (k / 80)).foldl (fun s k => s.invalidate k line n) s

/-- R387, R389: a soft error that the storage's code finds. -/
def State.softError (s : State) (e : SoftErr) : State :=
  match e with
  | .clean | .corrected => s
  | .correctedAt unit addr => s.corrected (unit.toNat % 64) unit.toNat addr.toNat
  | .dataLine k line =>
    match (s.cache k).lines.find line with
    | none => s
    | some l =>
      let unit := if k % 5 = 4 then unitOf 1 (k / 5) else unitOf 0 (4 * (k / 5) + k % 5)
      if l.st = .m then [0, 1, 2, 3].foldl (fun s i => s.makePoison (4 * line + i)) (s.evict k line)
      else (s.modCache k fun x => { x with lines := x.lines.erase line }).corrected (k / 80) unit (128 * line)
  | .scratchWord c word =>
    (s.modCluster c.toNat fun x => { x with spoison := (x.spoison.filter (· != word.toNat)) ++ [word.toNat] }).record (c.toNat / 16)
      (mkRec 1 4 3 8 0 0 (unitOf 1 c.toNat) 0 (4 * word.toNat) 0)
  | .registerFile g | .splitTable g =>
    match s.group? g.toNat with
    | some x => s.tenantLost (gidDie g.toNat) (coreUnit g.toNat) x.tenant.toNat g.toNat 0
    | none => s
  | .storeQueue q =>
    match s.queue? q with
    | some x => s.tenantLost (gidDie x.gid) (coreUnit x.gid) x.tenant.toNat x.gid 0
    | none => s
  | .quagEntry die entry =>
    match (s.die die.toNat).quag.find entry.toNat with
    | some x => s.tenantLost die.toNat (unitOf 4 die.toNat) x.tenant.toNat x.gid entry.toNat
    | none => s
  | .codeLine core line =>
    (s.modCore core.toNat fun x => { x with icache := x.icache.erase line }).corrected (core.toNat / 64) (unitOf 0 core.toNat) (128 * line)
  | .svcCodeLine c line =>
    (s.modSvc c.toNat fun x => { x with icache := x.icache.erase line }).corrected (c.toNat / 16) (unitOf 1 c.toNat) (128 * line)
  | .ctbEntry c i => (s.modCluster c.toNat fun x => { x with ctb := x.ctb.eraseIdx i }).corrected (c.toNat / 16) (unitOf 4 (c.toNat / 16)) i
  | .tableEntry die key =>
    (s.modDie die.toNat fun x => { x with tcache := x.tcache.erase key }).corrected die.toNat (unitOf 4 die.toNat) (key % 2 ^ 43)
  | .directory line => if s.lineBusy line then s else s.dropDirectory line

/-- R62: LOAD_DATA_RETURN; `err`: a corrected storage error met on the way, which only leaves a record, or an uncorrectable one that the
storage's code finds (R387, R389). -/
def execLoadDataReturn (g : Gid) (op : Nat) (err : SoftErr) (s : State) : Out :=
  let ev := Instr.loadDataReturn g op .clean
  if err ≠ .clean ∧ err ≠ .corrected then .next (s.softError err)
  else if ev ∉ s.due then .next s else
  let at' := s.correctedIn g.toNat op
  let d := if s.load? g.toNat op = none ∨ at'.1 / 2 ^ 28 < 4 then gidDie g.toNat else paDie at'.2
  let s := if err = .corrected then s.corrected d at'.1 at'.2 else s
  match s.load? g.toNat op with
  | none => .next (s.dropDue ev)
  | some _ => .next (s.pursueLoad g.toNat op)

/-- R80, R108: FAR_ATOMIC_AT_BANK: the bank performs every lane that has translated, each indivisibly, in ascending order; of an atomic
that returns nothing all its lanes, or none where one meets poison or a malformed slot (R382). -/
def execFarAtomicAtBank (who : MemRef) (s : State) : Out :=
  let ev := Instr.farAtomicAtBank who
  if ev ∉ s.due then .next s else
  match who with
  | .load g op =>
    let gid := g.toNat
    match s.group? gid, s.load? gid op with
    | some gr, some o =>
      match o.kind with
      | .atomic unit code =>
        let lanes := o.ready.filter fun a => (a.loc.map fun x => !(unit == .near && x.2.1 == 0)).getD false
        let pas := lanes.filterMap fun a => a.loc.map (·.1)
        if !s.mayLoad gr o || s.anyBusy 0 pas || (pas.any fun p => s.heldBack (gidDie gid) (paDie p)) then .next s else
        let s := s.dropDue ev
        let s := lanes.foldl (fun s a =>
          match a.loc with
          | none => s
          | some (pa, tr, _) =>
            if !s.linked (gidDie gid) (paDie pa) then (s.notSent (gidDie gid) (paDie pa)).laneResult gid op a.lane .aborted 0 0 else
            let s := s.l2Use (pa / 128) ((a.spans.head?.map (·.l2c)).getD false)
            match s.bankAct (cacheOfCore (gidCore gid)) tr pa code o.fmt a.opd a.opdS a.cmp with
            | (s, some (w, fl), _) => s.laneResult gid op a.lane .done w fl
            | (s, none, _) => s.laneResult gid op a.lane .poisoned 0 0) s
        .next (s.finishLoad gid op)
      | _ => .next (s.dropDue ev)
    | _, _ => .next (s.dropDue ev)
  | .store q op =>
    match s.queue? q, s.store? q op with
    | some x, some e =>
      match e.kind with
      | .atomic unit code =>
        let lanes := e.nrLanes unit false
        let pas := lanes.map fun a => a.2.pa a.1.va
        if (x.turn.map fun t => t.id != op).getD true || s.storeBlocked x e || !e.complete || s.anyBusy 0 pas
            || (pas.any fun p => s.heldBack (gidDie x.gid) (paDie p)) then .next s else
        let s := s.dropDue ev
        let cut := lanes.find? fun a => !s.linked (gidDie x.gid) (paDie (a.2.pa a.1.va))
        let run := lanes.foldl (fun (r : State × Option (Nat × Nat × Nat)) a =>
          if r.2.isSome then r else
          let pa := a.2.pa a.1.va
          match (r.1.l2Use (pa / 128) a.2.l2c).bankAct (cacheOfCore (gidCore x.gid)) a.2.tr pa code e.fmt a.1.opd a.1.opdS a.1.cmp with
          | (s, some _, false) => (s.nrDone q e.id a.1.lane, none)
          | (s, some _, true) => (s, some (2, 2, a.1.va))
          | (s, none, _) => (s, some (4, 2, a.1.va))) (s, none)
        let s := match cut, run.2 with
          | some a, _ => (s.notSent (gidDie x.gid) (paDie (a.2.pa a.1.va))).storeEnds q x e .aborted 2 1 a.1.va
          | none, some (cls, cause, va) => s.storeEnds q x e .aborted cls cause va
          | none, none => run.1
        .next (s.closeStore q op)
      | _ => .next (s.dropDue ev)
    | _, _ => .next (s.dropDue ev)
  | _ => .next (s.dropDue ev)

/-- R125: PUSH_ANSWERED: every target has answered every line, and the push leaves sc. -/
def execPushAnswered (q op : Nat) (s : State) : Out :=
  let ev := Instr.pushAnswered q op
  if ev ∉ s.due then .next s else
  let s := s.dropDue ev
  match s.queue? q, s.store? q op with
  | some x, some e =>
    if e.performed && e.answers.isEmpty then
      .next ((s.putQueue q { x with ents := x.ents.filter fun e => e.id != op }).afterStore q)
    else .next s
  | _, _ => .next s

end Sys2Proof.Machine
end

