-- ==== Sys2Proof/Machine/Func.lean ====
section
/-!
DEFINITION. The function instructions' exact values (09 R228): a reciprocal, a reciprocal square root, 2^x, log2 x
and tanh x, each as a truncated magnitude m · 2^e and whether the true magnitude lies above it. The final rounding
takes the second as its sticky bit. 2^x, log2 x and tanh x of an argument without an exact result are irrational;
their truncations here carry far more bits than any FP32 argument needs to round correctly (DESIGN CHOICE, log 13).
-/

namespace Sys2Proof.Machine

/-- A value with its sticky bit and the flags IEEE 754 gives the operation. -/
abbrev FRes := FVal × Bool × Byte

/-- ⌊√z⌋ below 2^n, bit by bit. -/
def isqrtBits : Nat → Nat → Nat → Nat
  | 0, _, r => r
  | n + 1, z, r => if (r + 2 ^ n) * (r + 2 ^ n) ≤ z then isqrtBits n z (r + 2 ^ n) else isqrtBits n z r

/-- Digits of the fixed-point arithmetic below. -/
def fixBits : Nat := 256

/-- ln 2 in units of 2^−256: Σ 1 / (k 2^k). -/
def ln2Sum : Nat → Nat
  | 0 => 0
  | k + 1 => ln2Sum k + 2 ^ fixBits / ((k + 1) * 2 ^ (k + 1))
def ln2Fix : Nat := ln2Sum 264

/-- e^r for r in units of 2^−256, by its series: the terms from the n-th down (Horner). -/
def expSeries (r : Nat) : Nat → Nat → Nat
  | 0, acc => acc
  | n + 1, acc => expSeries r n (2 ^ fixBits + acc * r / ((n + 1) * 2 ^ fixBits))
def expFix (r : Nat) : Nat := expSeries r 70 (2 ^ fixBits)

/-- m · 2^e in units of 2^−256, truncated. -/
def toFix (m : Nat) (e : Int) : Nat := (floorGrid m e (-(fixBits : Int))).1

/-- The fraction bits of log2 y for y in [1, 2) in units of 2^−256: n bits, each from a squaring. -/
def log2Bits : Nat → Nat → Nat → Nat
  | 0, _, acc => acc
  | n + 1, y, acc =>
    let q := y * y / 2 ^ fixBits
    if 2 ^ (fixBits + 1) ≤ q then log2Bits n (q / 2) (2 * acc + 1) else log2Bits n q (2 * acc)

def nanRes (fl : Byte) : FRes := (.nan false false, false, fl)
/-- A NaN operand gives the canonical NaN; a signalling one sets NV. -/
def nanOperand (x : FVal) : FRes := nanRes (flagIf x.isSnan flagNV)

/-- R228: 1/x. -/
def frcp (x : FVal) : FRes :=
  match x with
  | .nan _ _ => nanOperand x
  | .inf n => (.fin n 0 0, false, 0)
  | .fin n m e =>
    if m = 0 then (.inf n, false, flagDZ)
    else
      let k := m.log2 + 64
      (.fin n (2 ^ k / m) (-e - k), decide (2 ^ k % m ≠ 0), 0)

/-- R228: 1/√x. -/
def frsq (x : FVal) : FRes :=
  match x with
  | .nan _ _ => nanOperand x
  | .inf n => if n then nanRes flagNV else (.fin false 0 0, false, 0)
  | .fin n m e =>
    if m = 0 then (.inf n, false, flagDZ)
    else if n then nanRes flagNV
    else
      let (m, e) := if e % 2 = 0 then (m, e) else (2 * m, e - 1)
      let k := m.log2 / 2 + 64
      let r := isqrtBits (k + 1) (2 ^ (2 * k) / m) 0
      (.fin false r (-(e / 2) - k), decide (r * r * m ≠ 2 ^ (2 * k)), 0)

/-- R228: 2^x. -/
def fexp2 (x : FVal) : FRes :=
  match x with
  | .nan _ _ => nanOperand x
  | .inf n => if n then (.fin false 0 0, false, 0) else (.inf false, false, 0)
  | .fin n m e =>
    if m = 0 then (.fin false 1 0, false, 0)
    else
      let top : Int := m.log2 + e
      if 9 ≤ top then (if n then .fin false 1 (-300) else .fin false 1 300, true, 0)
      else if top < -60 then
        if n then (.fin false (2 ^ 64 - 1) (-64), true, 0) else (.fin false 1 0, true, 0)
      else
        let fx := toFix m e
        let i := fx / 2 ^ fixBits
        let f := fx % 2 ^ fixBits
        if f = 0 then (.fin false 1 (if n then -(i : Int) else i), false, 0)
        else
          -- 2^x = 2^j · 2^g with g in (0, 1)
          let (j, g) : Int × Nat := if n then (-(i : Int) - 1, 2 ^ fixBits - f) else (i, f)
          (.fin false (expFix (g * ln2Fix / 2 ^ fixBits) / 2 ^ (fixBits - 120)) (j - 120), true, 0)

/-- R228: log2 x. -/
def flog2 (x : FVal) : FRes :=
  match x with
  | .nan _ _ => nanOperand x
  | .inf n => if n then nanRes flagNV else (.inf false, false, 0)
  | .fin n m e =>
    if m = 0 then (.inf true, false, flagDZ)
    else if n then nanRes flagNV
    else
      let i : Int := m.log2 + e
      if m = 2 ^ m.log2 then (ofInt i, false, 0)
      else
        let l := log2Bits 110 (m * 2 ^ (fixBits - m.log2)) 0
        if 0 ≤ i then (.fin false (i.toNat * 2 ^ 110 + l) (-110), true, 0)
        else (.fin true ((-i).toNat * 2 ^ 110 - l - 1) (-110), true, 0)

/-- R228: tanh x. -/
def ftanh (x : FVal) : FRes :=
  match x with
  | .nan _ _ => nanOperand x
  | .inf n => (.fin n 1 0, false, 0)
  | .fin n m e =>
    if m = 0 then (x, false, 0)
    else
      let top : Int := m.log2 + e
      if top < -40 then (.fin n (m * 2 ^ 64 - 1) (e - 64), true, 0)
      else if 5 ≤ top then (.fin n (2 ^ 64 - 1) (-64), true, 0)
      else
        -- E = e^(2|x|) = 2^k · e^r
        let t := toFix (2 * m) e
        let k := t / ln2Fix
        let big := expFix (t % ln2Fix) * 2 ^ k
        (.fin n ((big - 2 ^ fixBits) * 2 ^ 160 / (big + 2 ^ fixBits)) (-160), true, 0)

end Sys2Proof.Machine
end

