-- ==== Sys2Proof/Machine/RvFloat.lean ====
section
/-!
DEFINITION. The F and D extensions of a service core: NaN boxing, rounding with tininess detected after it, arithmetic,
conversions, compares and classes (13 R310; PRESUMED, log 54).
-/

namespace Sys2Proof.Machine

/-- Binary64. -/
def fp64 : FloatFmt := ⟨11, 52, 1023, 0x7FEFFFFFFFFFFFFF, some 0x7FF0000000000000, some 0x7FF8000000000000⟩

/-- The format of an F or a D instruction. -/
def rvFmt (dbl : Bool) : FloatFmt := if dbl then fp64 else fp32

/-- A narrower value is held with ones above it. -/
def box (dbl : Bool) (v : Nat) : Dword := if dbl then BitVec.ofNat 64 v else (0xFFFFFFFF : Word) ++ BitVec.ofNat 32 v

/-- A register as an instruction reads it: one that is not boxed reads as the canonical NaN. -/
def unbox (dbl : Bool) (w : Dword) : Nat :=
  if dbl then w.toNat else if w.extractLsb' 32 32 = 0xFFFFFFFF then w.toNat % 2 ^ 32 else 0x7FC00000

/-- The rounding modes RNE, RTZ, RDN, RUP and RMM, as `roundIndex` numbers them. -/
def rvMode (rm : Nat) : Nat :=
  match rm with
  | 2 => 3
  | 3 => 2
  | k => k

/-- Whether a value is still below the normal range once rounded to the format's precision with an unbounded exponent. -/
def tinyAfter (f : FloatFmt) (rm : Nat) (neg : Bool) (m : Nat) (e : Int) (s : Bool) : Bool :=
  let q : Int := m.log2 + e - f.mb
  let (k, fr) := floorGrid m e q
  let n := roundIndex rm neg k fr s
  decide (m = 0) || decide ((n.log2 : Int) + q < f.emin)

/-- One rounding, with a sticky bit: the code and the flags. -/
def rvRound (f : FloatFmt) (rm : Nat) (r : FVal × Byte) (s : Bool) : Nat × Byte :=
  let (c, fl) := finalRound r.1 s (.flt f) rm false
  let keep := match r.1 with
    | .fin n m e => tinyAfter f rm n m e s
    | _ => true
  (c, (if keep then fl else fl &&& ~~~flagUF) ||| r.2)

/-- x / y, with its sticky bit. -/
def fdiv (x y : FVal) : FVal × Bool × Byte :=
  let n := x.sign != y.sign
  if x.isNan || y.isNan then (.nan false false, false, flagIf (x.isSnan || y.isSnan) flagNV)
  else
    match x, y with
    | .inf _, .inf _ => (.nan false false, false, flagNV)
    | .inf _, _ => (.inf n, false, 0)
    | _, .inf _ => (.fin n 0 0, false, 0)
    | .fin _ m1 e1, .fin _ m2 e2 =>
      if m2 = 0 then if m1 = 0 then (.nan false false, false, flagNV) else (.inf n, false, flagDZ)
      else
        let k := m2.log2 + 64
        (.fin n (m1 * 2 ^ k / m2) (e1 - e2 - k), decide (m1 * 2 ^ k % m2 ≠ 0), 0)
    | _, _ => (.nan false false, false, 0)

/-- √x, with its sticky bit. -/
def fsqrt (x : FVal) : FVal × Bool × Byte :=
  match x with
  | .nan _ sig => (.nan false false, false, flagIf sig flagNV)
  | .inf n => if n then (.nan false false, false, flagNV) else (.inf false, false, 0)
  | .fin n m e =>
    if m = 0 then (.fin n 0 0, false, 0)
    else if n then (.nan false false, false, flagNV)
    else
      let (m, e) := if e % 2 = 0 then (m, e) else (2 * m, e - 1)
      let z := m * 2 ^ 128
      let r := isqrtBits (z.log2 / 2 + 1) z 0
      (.fin false r (e / 2 - 64), decide (r * r ≠ z), 0)

/-- x · y + z; a product of a zero and an infinity is invalid whatever z is. -/
def rvFma (rm : Nat) (x y z : FVal) : FVal × Byte :=
  let r := ffma rm x y z
  (r.1, r.2 ||| flagIf ((x.isInf && y.isZero) || (x.isZero && y.isInf)) flagNV)

/-- To an integer of `w` bits from −lo to hi: what lies outside is invalid, and a NaN gives hi. -/
def rvToInt (w lo hi rm : Nat) (x : FVal) : Dword × Byte :=
  let wide := fun (c : Nat) => (BitVec.ofNat w c).signExtend 64
  match x with
  | .nan _ _ => (wide hi, flagNV)
  | x =>
    let (c, fl) := finalRound x false (.int w lo hi) rm false
    (wide c, if fl &&& flagNV ≠ 0 then flagNV else fl)

/-- FMIN and FMAX of two codes. -/
def rvMinMax (f : FloatFmt) (mx : Bool) (a b : Nat) : Nat × Byte :=
  let x := f.decode a
  let y := f.decode b
  (match (fminmax mx x y false false).1 with
   | some false => a
   | some true => b
   | none => f.nan.getD 0, flagIf (x.isSnan || y.isSnan) flagNV)

/-- FLE (0), FLT (1) and FEQ (2), which alone is quiet. -/
def rvCompare (op : Nat) (x y : FVal) : Bool × Byte :=
  match compareF x y with
  | .un => (false, flagIf (op != 2 || x.isSnan || y.isSnan) flagNV)
  | .eq => (op != 1, 0)
  | .lt => (op != 2, 0)
  | .gt => (false, 0)

/-- FCLASS. -/
def rvClass (f : FloatFmt) (c : Nat) : Nat :=
  match f.decode c with
  | .nan _ sig => if sig then 2 ^ 8 else 2 ^ 9
  | .inf n => if n then 1 else 2 ^ 7
  | .fin n m _ =>
    let mag := c % f.signBit
    if m = 0 then (if n then 2 ^ 3 else 2 ^ 4)
    else if mag / 2 ^ f.mb = 0 then (if n then 2 ^ 2 else 2 ^ 5)
    else if n then 2 else 2 ^ 6

end Sys2Proof.Machine
end

