-- ==== Sys2Proof/Machine/Float.lean ====
section
/-!
DEFINITION. The floating-point vector instructions: FP32 and packed BF16 arithmetic, the functions, compares,
conversions, final rounding, MX scales and the sticky bit (06 R134 to R151, 09 R227 to R237).
-/

namespace Sys2Proof.Machine

/-! ### FP32 arithmetic (R227, R228) -/

/-- R134, R209: an instruction that computes a new value: `f` gives each lane's data and flags; S = 0, IO from the sources. -/
def floatOp (len : Nat) (gd : BitVec 3) (d : BitVec 7) (srcs : List (BitVec 7)) (f : Ctx → Nat → Nat × Byte) (s : State) : Out :=
  issue ⟨true, (d :: srcs).map vr, gd.toNat, none, len⟩ (fun c s =>
    let ls := c.lanes gd.toNat
    s.commitFlags c len (c.g.writeV d.toNat ls fun l => ⟨BitVec.ofNat 32 (f c l).1, false⟩)
      (c.ioFlag ls (srcs.map (·.toNat)) ||| orFlags ls fun l => (f c l).2)) s

/-- A lane's FP32 operand. -/
def Ctx.fv (c : Ctx) (l : Nat) (f : BitVec 7) : FVal := ofFp32 (c.vd l f)

/-- R227. -/
def execFadd (gd : BitVec 3) (d a b : BitVec 7) (s : State) : Out :=
  floatOp 4 gd d [a, b] (fun c l => roundArith fp32 c.rm (fadd c.rm (c.fv l a) (c.fv l b)) false) s
/-- R227: va + (−vb). -/
def execFsub (gd : BitVec 3) (d a b : BitVec 7) (s : State) : Out :=
  floatOp 4 gd d [a, b] (fun c l => roundArith fp32 c.rm (fadd c.rm (c.fv l a) (c.fv l b).neg) false) s
/-- R227. -/
def execFmul (gd : BitVec 3) (d a b : BitVec 7) (s : State) : Out :=
  floatOp 4 gd d [a, b] (fun c l => roundArith fp32 c.rm (fmul (c.fv l a) (c.fv l b)) false) s
/-- R210, R227: va × vb + vd. -/
def execFfma (gd : BitVec 3) (d a b : BitVec 7) (s : State) : Out :=
  floatOp 4 gd d [a, b, d] (fun c l => roundArith fp32 c.rm (ffma c.rm (c.fv l a) (c.fv l b) (c.fv l d)) false) s
/-- R227. -/
def execFaddl (gd : BitVec 3) (d a : BitVec 7) (x : Word) (s : State) : Out :=
  floatOp 8 gd d [a] (fun c l => roundArith fp32 c.rm (fadd c.rm (c.fv l a) (ofFp32 x)) false) s
/-- R227. -/
def execFmull (gd : BitVec 3) (d a : BitVec 7) (x : Word) (s : State) : Out :=
  floatOp 8 gd d [a] (fun c l => roundArith fp32 c.rm (fmul (c.fv l a) (ofFp32 x)) false) s
/-- R227: va × vb + L. -/
def execFfmal (gd : BitVec 3) (d a b : BitVec 7) (x : Word) (s : State) : Out :=
  floatOp 8 gd d [a, b] (fun c l => roundArith fp32 c.rm (ffma c.rm (c.fv l a) (c.fv l b) (ofFp32 x)) false) s

/-- R228: a function instruction: the value of `fn`, correctly rounded. -/
def floatFun (fn : FVal → FRes) (gd : BitVec 3) (d a : BitVec 7) (s : State) : Out :=
  floatOp 4 gd d [a] (fun c l => let r := fn (c.fv l a); roundArith fp32 c.rm (r.1, r.2.2) r.2.1) s

/-- R228. -/
def execFrcp (gd : BitVec 3) (d a : BitVec 7) (s : State) : Out := floatFun frcp gd d a s
/-- R228. -/
def execFrsq (gd : BitVec 3) (d a : BitVec 7) (s : State) : Out := floatFun frsq gd d a s
/-- R228. -/
def execFexp2 (gd : BitVec 3) (d a : BitVec 7) (s : State) : Out := floatFun fexp2 gd d a s
/-- R228. -/
def execFlog2 (gd : BitVec 3) (d a : BitVec 7) (s : State) : Out := floatFun flog2 gd d a s
/-- R228. -/
def execFtanh (gd : BitVec 3) (d a : BitVec 7) (s : State) : Out := floatFun ftanh gd d a s

/-! ### Moving instructions (R135, R229, R233) -/

/-- A moving instruction that can set flags: `f` gives a lane's register and its flags. -/
def floatMove (gd : BitVec 3) (d : BitVec 7) (srcs : List (BitVec 7)) (f : Ctx → Nat → VReg × Byte) (s : State) : Out :=
  issue ⟨true, (d :: srcs).map vr, gd.toNat, none, 4⟩ (fun c s =>
    let ls := c.lanes gd.toNat
    s.commitFlags c 4 (c.g.writeV d.toNat ls fun l => (f c l).1) (orFlags ls fun l => (f c l).2)) s

/-- R146: FMIN and FMAX in one lane. -/
def minmaxLane (mx : Bool) (a b : VReg) : VReg × Byte :=
  let (o, fl) := fminmax mx (ofFp32 a.data) (ofFp32 b.data) a.s b.s
  (match o with
   | some false => a
   | some true => b
   | none => ⟨qnan, false⟩, fl)

/-- R229. -/
def execFmin (gd : BitVec 3) (d a b : BitVec 7) (s : State) : Out :=
  floatMove gd d [a, b] (fun c l => minmaxLane false (c.v l a) (c.v l b)) s
/-- R229. -/
def execFmax (gd : BitVec 3) (d a b : BitVec 7) (s : State) : Out :=
  floatMove gd d [a, b] (fun c l => minmaxLane true (c.v l a) (c.v l b)) s
/-- R229. -/
def execFabs (gd : BitVec 3) (d a : BitVec 7) (s : State) : Out :=
  floatMove gd d [a] (fun c l => (⟨c.vd l a &&& 0x7FFFFFFF, (c.v l a).s⟩, 0)) s
/-- R229. -/
def execFneg (gd : BitVec 3) (d a : BitVec 7) (s : State) : Out :=
  floatMove gd d [a] (fun c l => (⟨c.vd l a ^^^ 0x80000000, (c.v l a).s⟩, 0)) s

/-- The low or high 16 bits of a register. -/
def half (w : Word) (h : Bool) : Nat := if h then w.toNat / 65536 else w.toNat % 65536

/-- R233: FWIDEN from BF16 (src 0) or FP16 (src 1), lo or hi half. -/
def execFwiden (gd : BitVec 3) (d a : BitVec 7) (src hi : BitVec 1) (s : State) : Out :=
  floatMove gd d [a] (fun c l =>
    (⟨toFp32 ((floatFmt (if src = 0 then 1 else 2)).decode (half (c.vd l a) (hi == 1))), (c.v l a).s⟩, 0)) s

/-- R136: FSCALE of a value with sticky bit `s0` by 2^k. Below 2^-400 every k gives one result, since a finite FP32 value
lies below 2^128 and the least subnormal is 2^-149. -/
def fscaleLane (w : Word) (s0 : Bool) (k : Int) : VReg × Byte :=
  let k := max k (-400)
  match ofFp32 w with
  | .nan n _ => (⟨nanWord n, s0⟩, 0)
  | .inf _ => (⟨w, s0⟩, 0)
  | .fin n m e =>
    if m = 0 then (⟨w, s0⟩, 0)
    else if 127 < (m.log2 : Int) + e + k then (⟨toFp32 (.inf n), s0⟩, flagOF)
    else if -126 ≤ (m.log2 : Int) + e + k then (⟨toFp32 (.fin n m (e + k)), s0⟩, 0)
    else
      let (q, fr) := floorGrid m (e + k) (-149)
      let q' := if fr ≠ 0 ∧ q % 2 = 0 then q + 1 else q
      (⟨BitVec.ofNat 32 (fp32.code n q'), s0 || fr != 0⟩, 0)

/-- R234: FSCALE; k is vb as a signed integer. -/
def execFscale (gd : BitVec 3) (d a b : BitVec 7) (s : State) : Out :=
  floatMove gd d [a, b] (fun c l => fscaleLane (c.vd l a) (c.v l a).s (c.vd l b).toInt) s

/-! ### Packed BF16 (R230) -/

/-- BF16. -/
def bf16 : FloatFmt := floatFmt 1
/-- R230: a half of an operand. -/
def Ctx.hv (c : Ctx) (l : Nat) (f : BitVec 7) (h : Bool) : FVal := bf16.decode (half (c.vd l f) h)

/-- R230: both halves rounded once to BF16. -/
def packedOp (gd : BitVec 3) (d : BitVec 7) (srcs : List (BitVec 7)) (f : Ctx → Nat → Bool → FVal × Byte) (s : State) : Out :=
  floatOp 4 gd d srcs (fun c l =>
    let lo := roundArith bf16 c.rm (f c l false) false
    let hi := roundArith bf16 c.rm (f c l true) false
    (lo.1 + 65536 * hi.1, lo.2 ||| hi.2)) s

/-- R230. -/
def execFaddp (gd : BitVec 3) (d a b : BitVec 7) (s : State) : Out :=
  packedOp gd d [a, b] (fun c l h => fadd c.rm (c.hv l a h) (c.hv l b h)) s
/-- R230. -/
def execFsubp (gd : BitVec 3) (d a b : BitVec 7) (s : State) : Out :=
  packedOp gd d [a, b] (fun c l h => fadd c.rm (c.hv l a h) (c.hv l b h).neg) s
/-- R230. -/
def execFmulp (gd : BitVec 3) (d a b : BitVec 7) (s : State) : Out :=
  packedOp gd d [a, b] (fun c l h => fmul (c.hv l a h) (c.hv l b h)) s
/-- R210, R230: vd := va × vb + vd in each half. -/
def execFfmap (gd : BitVec 3) (d a b : BitVec 7) (s : State) : Out :=
  packedOp gd d [a, b, d] (fun c l h => ffma c.rm (c.hv l a h) (c.hv l b h) (c.hv l d h)) s

/-- R230: FMINP and FMAXP in one lane. -/
def minmaxPacked (mx : Bool) (a b : VReg) : VReg × Byte :=
  let pick := fun h => fminmax mx (bf16.decode (half a.data h)) (bf16.decode (half b.data h)) a.s b.s
  let val := fun (h : Bool) => match (pick h).1 with
    | some false => half a.data h
    | some true => half b.data h
    | none => 0x7FC0
  let froms := [(pick false).1, (pick true).1]
  let st := (decide (some false ∈ froms) && a.s) || (decide (some true ∈ froms) && b.s)
  (⟨BitVec.ofNat 32 (val false + 65536 * val true), st⟩, (pick false).2 ||| (pick true).2)

/-- R230. -/
def execFminp (gd : BitVec 3) (d a b : BitVec 7) (s : State) : Out :=
  floatMove gd d [a, b] (fun c l => minmaxPacked false (c.v l a) (c.v l b)) s
/-- R230. -/
def execFmaxp (gd : BitVec 3) (d a b : BitVec 7) (s : State) : Out :=
  floatMove gd d [a, b] (fun c l => minmaxPacked true (c.v l a) (c.v l b)) s

/-! ### Compares (R145, R216) -/

/-- R216: an FP32 compare with the undecided rule. -/
def fcmpLane (cc : Nat) (a b : VReg) : Bool × Byte := fcmpHolds cc (ofFp32 a.data) (ofFp32 b.data) (a.s || b.s)

/-- A compare into pd: `f` gives a lane's result and flags. -/
def floatCompare (ok : Bool) (len : Nat) (gd p : BitVec 3) (srcs : List (BitVec 7)) (f : Ctx → Nat → Bool × Byte) (s : State) : Out :=
  issue ⟨ok, srcs.map vr, gd.toNat, none, len⟩ (fun c s =>
    let ls := c.lanes gd.toNat
    s.commitFlags c len (c.g.writeP p.toNat ls fun l => (f c l).1) (orFlags ls fun l => (f c l).2)) s

/-- R216. -/
def execFcmp (gd : BitVec 3) (cc : BitVec 4) (p : BitVec 3) (a b : BitVec 7) (s : State) : Out :=
  floatCompare (decide (cc.toNat ≤ 6)) 4 gd p [a, b] (fun c l => fcmpLane cc.toNat (c.v l a) (c.v l b)) s
/-- R216: a literal has S = 0. -/
def execFcmpl (gd : BitVec 3) (cc : BitVec 4) (p : BitVec 3) (a : BitVec 7) (x : Word) (s : State) : Out :=
  floatCompare (decide (cc.toNat ≤ 6)) 8 gd p [a] (fun c l => fcmpLane cc.toNat (c.v l a) ⟨x, false⟩) s

/-! ### Conversion and final rounding (R231, R232) -/

/-- R231: the format a selector names: the fragment's FC where dflt is 1. -/
def Ctx.selFmt (c : Ctx) (dflt : BitVec 1) (code : BitVec 4) : Nat := if dflt = 1 then c.fc else code.toNat

/-- R212, R231: an instruction whose format is selected by fs; `ok` says which formats are assigned. -/
def selIssue (dflt : BitVec 1) (code : BitVec 4) (ok : Nat → Bool) (gd : BitVec 3) (d a : BitVec 7)
    (eff : Ctx → Nat → State → State) (s : State) : Out :=
  issueBy (fun c => ⟨(dflt == 0 || code == 0) && ok (c.selFmt dflt code), [vr d, vr a], gd.toNat, none, 4⟩)
    (fun c s => eff c (c.selFmt dflt code) s) s

/-- R231: the value FCVT and FRND read: FP32, or a signed integer. -/
def srcValue (isrc : BitVec 1) (w : Word) : FVal := if isrc = 1 then ofInt w.toInt else ofFp32 w

/-- R139: FCVT in one lane. -/
def fcvtLane (isrc : BitVec 1) (code : Nat) (a : VReg) : VReg :=
  match srcValue isrc a.data with
  | .nan n _ => ⟨nanWord n, a.s⟩
  | .inf _ => a
  | x => let r := rto x (targetOf code); ⟨toFp32 r.1, r.2 || a.s⟩

/-- R231: FCVT sets no flag. -/
def execFcvt (gd : BitVec 3) (d a : BitVec 7) (isrc dflt : BitVec 1) (code : BitVec 4) (s : State) : Out :=
  selIssue dflt code (fun f => f != 0 && decide (f < 12) && !(isrc == 1 && decide (8 ≤ f))) gd d a (fun c f s =>
    s.commit c 4 (c.g.writeV d.toNat (c.lanes gd.toNat) fun l => fcvtLane isrc f (c.v l a))) s

/-- R232: FRND in one lane. -/
def frndLane (isrc : BitVec 1) (code rm : Nat) (sat : Bool) (a : VReg) : VReg × Byte :=
  let (k, fl) := finalRound (srcValue isrc a.data) a.s (targetOf code) rm sat
  (⟨toFp32 (valueOf code k), false⟩, fl)

/-- R232: FRND, a final rounding point. -/
def execFrnd (gd : BitVec 3) (d a : BitVec 7) (isrc dflt : BitVec 1) (code : BitVec 4) (s : State) : Out :=
  selIssue dflt code (fun f => decide (f < 12)) gd d a (fun c f s =>
    let ls := c.lanes gd.toNat
    let r := fun l => frndLane isrc f c.rm c.sat (c.v l a)
    s.commitFlags c 4 (c.g.writeV d.toNat ls fun l => (r l).1) (orFlags ls fun l => (r l).2)) s

/-! ### MX scales, classes and the sticky bit (R235 to R237) -/

/-- R235: the scale of a row: its active lanes, the others counting as 0. -/
def Ctx.rowScale (c : Ctx) (a : BitVec 7) (code row : Nat) : Nat :=
  mxScale ((List.range 32).filterMap fun b =>
    if c.active.getLsbD (32 * row + b) then some (c.fv (32 * row + b) a) else none) code

/-- R235: FMXS. -/
def execFmxs (gd : BitVec 3) (d a : BitVec 7) (dflt : BitVec 1) (code : BitVec 4) (s : State) : Out :=
  selIssue dflt code (fun f => decide (3 ≤ f) && decide (f ≤ 7)) gd d a (fun c f s =>
    s.commit c 4 (c.g.writeV d.toNat (c.lanes gd.toNat) fun l => ⟨BitVec.ofNat 32 (c.rowScale a f (l / 32)), false⟩)) s

/-- R236: the class mask of an FP32 code. -/
def classMask (w : Word) : Word :=
  match ofFp32 w with
  | .nan _ sig => if sig then 0x100 else 0x200
  | .inf n => if n then 0x001 else 0x080
  | .fin n m _ =>
    let sub := w.extractLsb' 23 8 = 0
    if m = 0 then (if n then 0x008 else 0x010)
    else if sub then (if n then 0x004 else 0x020)
    else (if n then 0x002 else 0x040)

/-- R236: FCLASS. -/
def execFclass (gd : BitVec 3) (d a : BitVec 7) (s : State) : Out :=
  floatMove gd d [a] (fun c l => (⟨classMask (c.vd l a) ||| (if (c.v l a).s then 0x400 else 0), false⟩, 0)) s

/-- R237: FSTK.get. -/
def execFstkGet (gd : BitVec 3) (d a : BitVec 7) (s : State) : Out :=
  floatMove gd d [a] (fun c l => (⟨if (c.v l a).s then 1 else 0, false⟩, 0)) s
/-- R237: FSTK.set writes only the S of vd. -/
def execFstkSet (gd : BitVec 3) (d a : BitVec 7) (s : State) : Out :=
  floatMove gd d [a] (fun c l => (⟨c.vd l d, (c.vd l a).getLsbD 0⟩, 0)) s

end Sys2Proof.Machine
end

