-- ==== Sys2Proof/Machine/LoadStore.lean ====
section
/-!
DEFINITION. The load, store, push, spill, MX, scratchpad and atomic instructions (08 R188, R189, 10 R238 to R249).
-/

namespace Sys2Proof.Machine

/-! ### Checks and encodings -/

/-- R242: the scope codes .grp to .sys. -/
def scopeOk (c : Nat) : Bool := decide (1 ≤ c) && decide (c ≤ 5)

/-- R238: the alignment fault, reported at the lowest misaligned lane. -/
def Ctx.aligned (c : Ctx) (s : State) (ls : List Nat) (ea : Nat → Nat) (al : Nat) (k : State) : State :=
  match ls.find? fun l => ea l % al != 0 with
  | some l => s.trap c 0x0A (ea l) 0
  | none => k

/-- R72: the scratchpad-bounds fault, with the lowest offset beyond the grant. -/
def Ctx.bounded (c : Ctx) (s : State) (ls : List Nat) (off : Nat → Nat) (size : Nat) (k : State) : State :=
  let n := (s.grantOf c.gid c.g).2
  match ls.filterMap fun l => if n < off l + size then some (max (off l) n) else none with
  | [] => k
  | x :: xs => s.trap c 0x0B (xs.foldl min x) n

/-- R240: the base address of an LM instruction. -/
def Ctx.base (c : Ctx) (n : BitVec 6) : Nat := (c.s n).toNat

/-- R240: the byte address of a lane's element of a contiguous access. -/
def elemAddr (a w l : Nat) : Nat := (a + w * l / 8) % 2 ^ 64

/-- R241: a lane's address: base plus signed offset, mod 2^64. -/
def Ctx.gather (c : Ctx) (n : BitVec 6) (v : BitVec 7) (l : Nat) : Nat :=
  (c.s n + (c.g.vreg l (v.toNat + 1)).data.signExtend 64).toNat

/-- R239: the flags of a store: rounding flags, or SD of a raw store. -/
def Ctx.storeFlags (c : Ctx) (sub : Nat) (ls : List Nat) (v : BitVec 7) : Byte :=
  if typeRounds sub then orFlags ls fun l => (storeElem sub c.rm c.sat (c.v l v)).2 else c.sdFlag ls v.toNat

/-! ### Scalar loads and stores (R188, R189) -/

/-- R188: the ord field as a scope, if it is not plain. -/
def ordScope (o : Nat) : Option Nat := if o = 0 then none else some o

/-- R188, R189: SLD. -/
def execSld (d a b : BitVec 6) (o : BitVec 3) (e : BitVec 1) (z : BitVec 2) (s : State) : Out :=
  issue ⟨decide (o.toNat ≤ 5) && !(z == 3 && e == 1), [], 0, some 0, 4⟩ (fun c s =>
    let ea := (c.s a + c.s b).toNat
    let n := 2 ^ z.toNat
    c.aligned s [0] (fun _ => ea) n
      (s.startLoad c (.scalar z.toNat (e == 1)) d.toNat 0 [laneAcc 0 (lineSpans 2 ea n)] (ordScope o.toNat) none 0 [])) s

/-- R188, R189: SST. -/
def execSst (d a b : BitVec 6) (o : BitVec 3) (z : BitVec 2) (s : State) : Out :=
  issue ⟨decide (o.toNat ≤ 5), [], 0, some 1, 4⟩ (fun c s =>
    let ea := (c.s a + c.s b).toNat
    let n := 2 ^ z.toNat
    c.aligned s [0] (fun _ => ea) n
      (s.startStore c .plain [laneStore 0 (byteWrites ea (leBytes n (c.s d).toNat))] (ordScope o.toNat) 0)) s

/-! ### Contiguous loads and stores (R240, R242) -/

/-- R240: a contiguous typed load. -/
def loadRow (ok : Bool) (gd : BitVec 3) (la : BitVec 4) (v : BitVec 7) (n : BitVec 6) (sub : Nat) (acq : Option Nat) (s : State) : Out :=
  issue ⟨ok, [vr v], gd.toNat, some 0, 4⟩ (fun c s =>
    let a := c.base n
    let w := typeWidth sub
    let ls := c.lanes gd.toNat
    c.aligned s ls (elemAddr a w) (max 1 (w / 8))
      (s.startLoad c (.typed sub) v.toNat a (ls.map fun l => laneAcc l (elemSpans a w l)) acq none la.toNat [v.toNat])) s

/-- R239, R240: a contiguous store, a push where it has targets. -/
def storeRow (req : Req) (gd : BitVec 3) (v : BitVec 7) (n : BitVec 6) (sub : Nat) (kind : Ctx → StoreKind) (rel : Option Nat) (s : State) :
    Out :=
  issue req (fun c s =>
    let a := c.base n
    let w := typeWidth sub
    let ls := c.lanes gd.toNat
    c.aligned s ls (elemAddr a w) (max 1 (w / 8))
      (s.startStore c (kind c) (ls.map fun l => laneStore l (elemWrites a w l (storeElem sub c.rm c.sat (c.v l v)).1)) rel
        (c.storeFlags sub ls v))) s

/-- R240: LD. -/
def execLd (gd : BitVec 3) (la : BitVec 4) (v : BitVec 7) (n : BitVec 6) (u : BitVec 4) (s : State) : Out :=
  loadRow true gd la v n u.toNat none s
/-- R240: ST. -/
def execSt (gd : BitVec 3) (v : BitVec 7) (n : BitVec 6) (u : BitVec 4) (s : State) : Out :=
  storeRow ⟨true, [vr v], gd.toNat, some 1, 4⟩ gd v n u.toNat (fun _ => .plain) none s
/-- R242: LDACQ. -/
def execLdacq (gd : BitVec 3) (la : BitVec 4) (v : BitVec 7) (n : BitVec 6) (sc : BitVec 3) (s : State) : Out :=
  loadRow (scopeOk sc.toNat) gd la v n 0 (some sc.toNat) s
/-- R242: STREL. -/
def execStrel (gd : BitVec 3) (v : BitVec 7) (n : BitVec 6) (sc : BitVec 3) (s : State) : Out :=
  storeRow ⟨scopeOk sc.toNat, [vr v], gd.toNat, some 1, 4⟩ gd v n 0 (fun _ => .plain) (some sc.toNat) s

/-- R245: the target cores of a push-group register. -/
def pushTargets (lo hi : Dword) : List Nat :=
  ((List.range 8).flatMap fun j =>
    let set := if j < 4 then lo.extractLsb' (16 * j) 16 else hi.extractLsb' (16 * (j - 4)) 16
    if set.getLsbD 15 then
      ((List.range 4).filter fun k => set.getLsbD k).map fun k => 4 * (set.extractLsb' 4 10).toNat + k
    else []).dedup

/-- R245: a PST that names no target is an ordinary store. -/
def pushKind (ts : List Nat) : StoreKind := if ts.isEmpty then .plain else .push ts

/-- R245: PST. -/
def execPst (gd : BitVec 3) (v : BitVec 7) (n : BitVec 6) (u : BitVec 4) (s : State) : Out :=
  storeRow ⟨decide (u.toNat ≤ 11) && decide (n.toNat ≤ 61), [vr v], gd.toNat, some 1, 4⟩ gd v n u.toNat
    (fun c => pushKind (pushTargets (c.g.sreg (n.toNat + 1)) (c.g.sreg (n.toNat + 2)))) none s

/-- R246: PGSET. -/
def execPgset (d a b : BitVec 6) (j : BitVec 2) (s : State) : Out :=
  issue (plainReq true) (fun c s =>
    let mask := (c.s b).extractLsb' 0 4
    let set : BitVec 16 := (if mask ≠ 0 then 0x8000 else 0) ||| ((c.s a).extractLsb' 0 10).zeroExtend 16 <<< 4 ||| mask.zeroExtend 16
    let m : Dword := 0xFFFF <<< (16 * j.toNat)
    s.commit c 4 (c.g.setS d.toNat ((c.s d &&& ~~~m) ||| (set.zeroExtend 64 <<< (16 * j.toNat))))) s

/-! ### Gathers and scatters (R241) -/

/-- R241: LDG. -/
def execLdg (gd : BitVec 3) (la : BitVec 4) (v : BitVec 7) (n : BitVec 6) (u : BitVec 4) (s : State) : Out :=
  issue ⟨decide (u.toNat ≤ 11), [vr v, vrUp v 1], gd.toNat, some 0, 4⟩ (fun c s =>
    let w := typeWidth u.toNat / 8
    let ls := c.lanes gd.toNat
    c.aligned s ls (c.gather n v) w
      (s.startLoad c (.typed u.toNat) v.toNat (c.base n) (ls.map fun l => laneAcc l (lineSpans 2 (c.gather n v l) w)) none none la.toNat
        [v.toNat])) s

/-- R241: STG. -/
def execStg (gd : BitVec 3) (v : BitVec 7) (n : BitVec 6) (u : BitVec 4) (s : State) : Out :=
  issue ⟨decide (u.toNat ≤ 11), [vr v, vrUp v 1], gd.toNat, some 1, 4⟩ (fun c s =>
    let w := typeWidth u.toNat / 8
    let ls := c.lanes gd.toNat
    c.aligned s ls (c.gather n v) w
      (s.startStore c .plain (ls.map fun l => laneStore l (byteWrites (c.gather n v l)
        (leBytes w (storeElem u.toNat c.rm c.sat (c.v l v)).1))) none (c.storeFlags u.toNat ls v))) s

/-! ### Spills (R148, R243) -/

/-- R148: the address of a lane's data word, and of its row's S word. -/
def spillAddr (a l : Nat) : Nat := (a + 132 * (l / 32) + 4 * (l % 32)) % 2 ^ 64
def spillWord (a l : Nat) : Nat := (a + 132 * (l / 32) + 128) % 2 ^ 64

/-- R243: LDX. -/
def execLdx (gd : BitVec 3) (la : BitVec 4) (v : BitVec 7) (n : BitVec 6) (s : State) : Out :=
  issue ⟨true, [vr v], gd.toNat, some 0, 4⟩ (fun c s =>
    let a := c.base n
    let ls := c.lanes gd.toNat
    c.aligned s ls (spillAddr a) 4
      (s.startLoad c .spill v.toNat a (ls.map fun l => laneAcc l (lineSpans 2 (spillAddr a l) 4 ++ lineSpans 2 (spillWord a l) 4)) none none
        la.toNat [v.toNat])) s

/-- R243: the S bit of a lane, merged into its row's S word. -/
def sWrite (a l : Nat) (st : Bool) : ByteWrite :=
  let b := l % 32
  ⟨spillWord a l + b / 8, BitVec.ofNat 8 (2 ^ (b % 8)), if st then BitVec.ofNat 8 (2 ^ (b % 8)) else 0⟩

/-- R243: STX sets no flag. -/
def execStx (gd : BitVec 3) (v : BitVec 7) (n : BitVec 6) (s : State) : Out :=
  issue ⟨true, [vr v], gd.toNat, some 1, 4⟩ (fun c s =>
    let a := c.base n
    let ls := c.lanes gd.toNat
    c.aligned s ls (spillAddr a) 4
      (s.startStore c .plain (ls.map fun l => laneStore l (byteWrites (spillAddr a l) (leBytes 4 (c.vd l v).toNat) ++ [sWrite a l (c.v l v).s]))
        none 0)) s

/-! ### MX blocks (R149 to R151, R244) -/

/-- The width of an element-format code. -/
def fmtWidth (code : Nat) : Nat := (floatFmt code).eb + (floatFmt code).mb + 1

/-- R244: LDMX. Of a row it reads the elements of the lanes that take part, and the scale (DESIGN CHOICE, log 50). -/
def execLdmx (gd : BitVec 3) (la : BitVec 4) (v : BitVec 7) (n : BitVec 6) (u : BitVec 4) (s : State) : Out :=
  issue ⟨decide (3 ≤ u.toNat) && decide (u.toNat ≤ 7) && decide (n.toNat ≤ 62), [vr v], gd.toNat, some 0, 4⟩ (fun c s =>
    let w := fmtWidth u.toNat
    let a := c.base n
    let sc := (c.g.sreg (n.toNat + 1)).toNat
    s.startLoad c (.mx u.toNat) v.toNat a ((c.lanes gd.toNat).map fun l =>
      laneAcc l (elemSpans ((a + 4 * w * (l / 32)) % 2 ^ 64) w (l % 32) ++ lineSpans 1 ((sc + l / 32) % 2 ^ 64) 1)) none none la.toNat
      [v.toNat]) s

/-- R151, R244: a row's block: the scale, its 32 codes, and their flags. -/
def Ctx.mxBlock (c : Ctx) (v : BitVec 7) (code row : Nat) : Nat × List Nat × Byte :=
  let scale := c.rowScale v code row
  let elem := fun (b : Nat) =>
    let l := 32 * row + b
    if !c.active.getLsbD l then (0, (0 : Byte))
    else if scale = 0xFF then (0, flagNV)
    else finalRound ((c.fv l v).scale (127 - (scale : Int))) (c.v l v).s (targetOf code) c.rm c.sat
  let es := (List.range 32).map elem
  (scale, es.map (·.1), es.foldl (fun f e => f ||| e.2) 0)

/-- R244: STMX; a row's writes stand at its lowest lane. -/
def execStmx (gd : BitVec 3) (v : BitVec 7) (n : BitVec 6) (u : BitVec 4) (s : State) : Out :=
  issue ⟨decide (3 ≤ u.toNat) && decide (u.toNat ≤ 7) && decide (n.toNat ≤ 62), [vr v], gd.toNat, some 1, 4⟩ (fun c s =>
    let w := fmtWidth u.toNat
    let a := c.base n
    let sc := (c.g.sreg (n.toNat + 1)).toNat
    let rows := ((c.lanes gd.toNat).map fun l => l / 32).dedup
    let blocks := rows.map fun r => (r, c.mxBlock v u.toNat r)
    s.startStore c .plain (blocks.map fun b =>
        laneStore (32 * b.1) (((List.range 32).flatMap fun i => elemWrites ((a + 4 * w * b.1) % 2 ^ 64) w i (b.2.2.1.getD i 0))
          ++ byteWrites ((sc + b.1) % 2 ^ 64) [BitVec.ofNat 8 b.2.1]))
      none (blocks.foldl (fun f b => f ||| b.2.2.2) 0)) s

/-! ### Scratchpad accesses (R249) -/

/-- R249: a lane's offset: contiguous, or indexed with the offsets in the next register. -/
def Ctx.scratchOff (c : Ctx) (n : BitVec 6) (v : BitVec 7) (u : BitVec 4) (w l : Nat) : Nat :=
  if u.getLsbD 3 then (c.s n + (c.g.vreg l (v.toNat + 1)).data.zeroExtend 64).toNat else c.base n + w * l

/-- R249: the registers that a scratchpad access names. -/
def scratchRegs (v : BitVec 7) (u : BitVec 4) : List VRef := if u.getLsbD 3 then [vr v, vrUp v 1] else [vr v]

/-- R249: LDS. -/
def execLds (gd : BitVec 3) (la : BitVec 4) (v : BitVec 7) (n : BitVec 6) (u : BitVec 4) (s : State) : Out :=
  issue ⟨true, scratchRegs v u, gd.toNat, some 0, 4⟩ (fun c s =>
    let code := u.toNat % 8
    let w := typeWidth (scratchType code) / 8
    let ls := c.lanes gd.toNat
    let off := c.scratchOff n v u w
    c.aligned s ls off w (c.bounded s ls off w
      (s.startLoad c (.scratch code) v.toNat (c.base n) (ls.map fun l => laneAcc l [⟨off l, w, none, 0, none, false⟩]) none none la.toNat
        [v.toNat]))) s

/-- R249: STS. -/
def execSts (gd : BitVec 3) (v : BitVec 7) (n : BitVec 6) (u : BitVec 4) (s : State) : Out :=
  issue ⟨true, scratchRegs v u, gd.toNat, some 1, 4⟩ (fun c s =>
    let sub := scratchType (u.toNat % 8)
    let w := typeWidth sub / 8
    let ls := c.lanes gd.toNat
    let off := c.scratchOff n v u w
    c.aligned s ls off w (c.bounded s ls off w
      (s.startStore c .scratch (ls.map fun l => laneStore l (byteWrites (off l) (leBytes w (storeElem sub c.rm c.sat (c.v l v)).1))) none
        (c.storeFlags sub ls v)))) s

/-! ### Atomics (R247, R248) -/

/-- R103, R247: the acquire and release parts of ord. -/
def atomAcq (o : BitVec 2) (sc : BitVec 3) : Option Nat := if o = 1 ∨ o = 3 then some sc.toNat else none
def atomRel (o : BitVec 2) (sc : BitVec 3) : Option Nat := if o = 2 ∨ o = 3 then some sc.toNat else none

/-- R247: the registers of an atomic: operand, address, and the compare value of .cas. -/
def atomRegs (unit : AtomUnit) (v : BitVec 7) (op : BitVec 4) : List VRef :=
  [vr v, vrUp v 1] ++ (if unit = .scratch then [] else [vrUp v 2]) ++ (if op = 9 then [vrUp v 3] else [])

/-- R247: ATOM, FATOM and ATOMS. DEDUCED: log 40. -/
def atomic (unit : AtomUnit) (gd : BitVec 3) (la : BitVec 4) (v : BitVec 7) (nr : BitVec 1) (sc : BitVec 3) (o : BitVec 2) (op : BitVec 4)
    (s : State) : Out :=
  issue ⟨atomicAssigned (unit == .far) nr sc o op && (nr == 0 || la == 0), atomRegs unit v op, gd.toNat,
      some (if nr = 1 then 1 else 0), 4⟩ (fun c s =>
    let ls := c.lanes gd.toNat
    let size := atomicSize op.toNat
    let ea := fun (l : Nat) =>
      if unit = .scratch then (c.g.vreg l (v.toNat + 1)).data.toNat
      else ((c.g.vreg l (v.toNat + 2)).data ++ (c.g.vreg l (v.toNat + 1)).data : BitVec 64).toNat
    let cmp := fun (l : Nat) => (c.g.vreg l (v.toNat + 3)).data
    let go :=
      if nr = 1 then
        s.startStore c (.atomic unit op.toNat) (ls.map fun l =>
            ⟨l, (List.range size).map fun i => ⟨ea l + i, 0, 0⟩, .need, c.vd l v, (c.v l v).s, cmp l⟩)
          (atomRel o sc) (c.ioFlag ls [v.toNat])
      else
        s.startLoad c (.atomic unit op.toNat) v.toNat 0 (ls.map fun l =>
            ⟨l, [⟨ea l, size, none, 0, none, false⟩], .need, c.vd l v, (c.v l v).s, cmp l, 0, 0⟩)
          (atomAcq o sc) (atomRel o sc) la.toNat [v.toNat]
    c.aligned s ls ea size (if unit = .scratch then c.bounded s ls ea size go else go)) s

/-- R247: ATOM. DEDUCED: log 40. -/
def execAtom (gd : BitVec 3) (la : BitVec 4) (v : BitVec 7) (nr : BitVec 1) (sc : BitVec 3) (o : BitVec 2) (op : BitVec 4) (s : State) : Out :=
  atomic .near gd la v nr sc o op s
/-- R247, R248: FATOM. DEDUCED: log 40. -/
def execFatom (gd : BitVec 3) (la : BitVec 4) (v : BitVec 7) (nr : BitVec 1) (sc : BitVec 3) (o : BitVec 2) (op : BitVec 4) (s : State) : Out :=
  atomic .far gd la v nr sc o op s
/-- R247: ATOMS. -/
def execAtoms (gd : BitVec 3) (la : BitVec 4) (v : BitVec 7) (nr : BitVec 1) (sc : BitVec 3) (o : BitVec 2) (op : BitVec 4) (s : State) : Out :=
  atomic .scratch gd la v nr sc o op s

end Sys2Proof.Machine
end

