-- ==== Sys2Proof/Machine/Retire.lean ====
section
/-!
DEFINITION. The distributor's records: its journal, the events held while it is down, the completion words it
writes, and the end of a grid (02 R50, 12 R291, R292, 19 R404 to R407).
-/

namespace Sys2Proof.Machine

/-! ### The distributor (R404 to R407) -/

def State.dist (s : State) (d : Nat) : Dist := (s.die d).dist
def State.modDist (s : State) (d : Nat) (f : Dist → Dist) : State := s.modDie d fun x => { x with dist := f x.dist }

/-- R406: a distributor is served: by itself, or by the die that adopted it. -/
def Dist.up (x : Dist) : Bool := x.alive || x.adopter.isSome

/-- R407: an event that needs a distributor which is down is held, in order of arrival, while its queue of 4,096 has room. DEDUCED: log 41. -/
def State.holdEvent (s : State) (d : Nat) (e : Instr) : State :=
  if (s.dist d).held.length < 4096 then (s.dropDue e).modDist d fun x => { x with held := x.held ++ [.event e] } else s

/-- R407: an event that is due and that die d's distributor takes, or holds. DEDUCED: log 41. -/
def atDist (d : Nat) (e : Instr) (f : State → State) (s : State) : Out :=
  .next (if e ∉ s.due then s else if (s.dist d).up then f s else s.holdEvent d e)

/-- R374, R407: an event of the end of a grid: held while the distributor is down, but not on a fenced die, which nothing adopts any
more. DEDUCED: log 18. -/
def atEnd (d : Nat) (e : Instr) (f : State → State) (s : State) : Out :=
  .next (if e ∉ s.due then s else if (s.dist d).up || s.deadDie d then f s else s.holdEvent d e)

/-- An event that is due and waits while die d's distributor is down. DEDUCED: log 41. -/
def whenUp (d : Nat) (e : Instr) (f : State → State) (s : State) : Out :=
  .next (if e ∉ s.due || !(s.dist d).up then s else f s)

/-- R405: where a die's journal lies. -/
def journalSlot (d n : Nat) : Nat := d * 2 ^ 37 + 0x06010000 + 32 * (n % 2048)
def checkpointAt (d : Nat) : Nat := d * 2 ^ 37 + 0x06000000

/-- R405: the state of a distributor before its first journal entry, as far as the journal tells of it. -/
def Ckpt.empty : Ckpt := { jseq := 0, binds := [], kick := 0, slots := [], accepted := 0, tickets := [], tokens := [], grids := [] }

/-- R405, R406: what a journal entry does to that state. -/
def Ckpt.apply (k : Ckpt) (e : JEnt) : Ckpt :=
  let k := { k with jseq := k.jseq + 1 }
  match e.typ with
  | 1 => { k with slots := k.slots ++ [(e.v32, e.queue)] }
  | 2 => { k with slots := k.slots.filter fun x => x.1 != e.v32 }
  | 3 => { k with accepted := e.v32 % 2 ^ 26, grids := k.grids ++ [e.v32] }
  | 5 => { k with binds := match k.binds.find e.queue with
                    | some b => k.binds.put e.queue { b with head := some e.v64 }
                    | none => k.binds }
  | 6 => { k with grids := k.grids.filter (· != e.v32) }
  | 7 => { k with tickets := match k.tickets.find e.v32 with
                    | some t => k.tickets.put e.v32 { t with h := e.v64 / 2 ^ 32 }
                    | none => k.tickets }
  | _ => k

/-- R405: the state of die d's distributor, before the effect of the entry that it is about to write. -/
def State.snapshot (s : State) (d : Nat) : Ckpt :=
  let x := s.dist d
  { jseq := x.jseq, binds := x.binds, kick := x.kick, slots := x.slots, accepted := x.accepted, tickets := x.tickets, tokens := x.tokens
    grids := (s.grids.filter fun e => e.2.die == d).map (·.1) }

/-- R405: an entry's 32 bytes, commit last, and a checkpoint's. -/
def JEnt.bytes (e : JEnt) (n : Nat) : List Byte :=
  leBytes 8 n ++ leBytes 1 e.typ ++ leBytes 1 0 ++ leBytes 2 e.queue ++ leBytes 4 e.v32 ++ leBytes 8 e.v64 ++ leBytes 8 n
def Ckpt.bytes (k : Ckpt) : List Byte := (List.range 65536).map fun i => Config.checkpoint k i

/-- R405: a journal entry, and after every 1,024 a checkpoint of the state that they leave (DESIGN CHOICE, log 16). -/
def State.journal (s : State) (d typ queue v32 v64 : Nat) : State :=
  let e : JEnt := ⟨typ, queue, v32, v64⟩
  let n := (s.dist d).jseq + 1
  let k := (s.snapshot d).apply e
  let s := s.deviceWrite (journalSlot d n) (e.bytes n)
  let s := if n % 1024 = 0 then s.deviceWrite (checkpointAt d) k.bytes else s
  s.modDist d fun x =>
    if n % 1024 = 0 then { x with jseq := n, journal := [], ckpt := some k } else { x with jseq := n, journal := x.journal ++ [e] }

/-- R406: the complete entry with number n in a die's journal, as it stands in memory. -/
def State.journalEntry (s : State) (d n : Nat) : Option JEnt :=
  let at' := journalSlot d n
  let f := fun (off k : Nat) => s.deviceNat (at' + off) k
  if f 0 8 = n ∧ f 0x18 8 = n then some ⟨f 8 1, f 0xA 2, f 0xC 4, f 0x10 8⟩ else none

/-- R406: the entries above a checkpoint in jseq order, as far as they are complete; at most 2,048. -/
def State.replay (s : State) (d : Nat) : Nat → Ckpt → Ckpt
  | 0, k => k
  | n + 1, k =>
    match s.journalEntry d (k.jseq + 1) with
    | some e => s.replay d n (k.apply e)
    | none => k

/-- R404, R406: the checkpoint that the adopter reads: none where it is poisoned, or malformed: its bytes are not those of the
checkpoint that was written (DEDUCED, log 16). -/
def State.readCheckpoint (s : State) (d : Nat) : Option Ckpt :=
  if (List.range 2048).any fun i => decide (checkpointAt d / 32 + i ∈ s.poison) then none else
  match (s.dist d).ckpt with
  | none => some Ckpt.empty
  | some k => if s.deviceBytes (checkpointAt d) 65536 = k.bytes then some k else none

/-- R406: what the adopter rebuilds: the slots, the queue heads, the live grids and the count of identifiers. -/
def State.rebuild (s : State) (d : Nat) (k : Ckpt) : State :=
  let s := s.modDist d fun x =>
    { x with jseq := k.jseq, slots := k.slots, accepted := k.accepted
             binds := x.binds.map fun e => (e.1, match (k.binds.find e.1).bind fun b => b.head with
               | some h => { e.2 with head := some h, record := [] }
               | none => { e.2 with record := [] }) }
  { s with grids := s.grids.filter fun e => e.2.die != d || decide (e.1 ∈ k.grids) }

/-- R404: a record of class 0x14 of die d's distributor. -/
def State.distRecord (s : State) (d sev cause tenant detail : Nat) : State :=
  s.record d (mkRec sev 0x14 cause 2 tenant 0 (unitOf 7 d) 0 0 detail)

/-! ### Physical accesses of the distributor (R291) -/

/-- The pages of `n` bytes from `a`, mod 2^64. -/
def pagesOf (a n : Nat) : List Nat :=
  if n = 0 then [] else (List.range ((a + n - 1) / 65536 + 1 - a / 65536)).map fun i => (a / 65536 + i) % 2 ^ 48

/-- How a read or a write of a distributor goes: done, waiting for a translation, or ended by an abort. -/
inductive Reach (α : Type) where
  | got (x : α) (s : State)
  | waits (s : State)
  | lost

/-- The translation of a byte by a walk of die d made for this access alone. -/
def State.walkTo (s : State) (d asn va : Nat) (want : Want) : Option CtbEntry :=
  match s.walk d asn va want false with
  | .ok t => some t
  | _ => none

/-- R291, R325: `n` bytes at `va` as a distributor reads them for a cluster's die: supplied, or read at home. An access
whose route is closed is answered with an error (R374). -/
def State.distRead (s : State) (c : Nat) (asn : BitVec 16) (va n : Nat) (want : Want) (who : MemRef) : Reach (List Byte) :=
  let d := c / 16
  let ended := (pagesOf va n).any fun v => match s.answerFor who v with | some (.ended _) => true | _ => false
  if ended then .lost else
  let as := (List.range n).map fun i => (va + i) % 2 ^ 64
  let leaf := fun (a : Nat) => s.walkTo d asn.toNat a want
  let tr := fun (a : Nat) => (leaf a).map fun t => (t.pa a, t.tr)
  let open' := as.filter fun a => (s.supplied who a).isNone
  let lacks := ((open'.filter fun a => (tr a).isNone).map pageOf).dedup
  if !lacks.isEmpty then .waits (lacks.foldl (fun s v => s.askWalk c asn v who) s)
  else
    let pas := open'.filterMap tr
    let lines := ((pas.filter fun p => p.2 == 0).map fun p => p.1 / 128).dedup
    if pas.any fun p => !s.reach d (paDie p.1) then .lost
    else if lines.any fun l => s.lineBusy l then .waits s
    else
      let s := (lines.foldl (fun s l => s.homeSync l false []) s).l2Lines
        (open'.filterMap fun a => (leaf a).map fun t => (t.pa a / 128, t.l2c)).eraseDups
      .got (as.map fun a => (s.supplied who a).getD (((tr a).map fun p => s.readByte p.1).getD 0)) s

/-- R91, R291: a distributor's write of bytes at `va`. -/
def State.distWrite (s : State) (c : Nat) (asn : BitVec 16) (va : Nat) (bs : List Byte) (who : MemRef) : Reach Unit :=
  let d := c / 16
  let as := (List.range bs.length).map fun i => (va + i) % 2 ^ 64
  let tr := fun (a : Nat) => s.walkTo d asn.toNat a Want.distWrite
  let lacks := ((as.filter fun a => (tr a).isNone).map pageOf).dedup
  if !lacks.isEmpty then .waits (lacks.foldl (fun s v => s.askWalk c asn v who) s)
  else
    let ts := as.filterMap fun a => (tr a).map fun t => (t.pa a, a, t)
    let lines := ((ts.filter fun p => p.2.2.tr == 0).map fun p => p.1 / 128).dedup
    if ts.any fun p => !s.reach d (paDie p.1) then .lost
    else if lines.any fun l => s.lineBusy l then .waits s
    else
      let s := lines.foldl (fun s l => s.homeSync l true []) s
      let s := (s.markLeaves c (ts.map fun p => (pageOf p.2.1, p.2.2)).dedup).l2Lines (ts.map fun p => (p.1 / 128, p.2.2.l2c)).eraseDups
      .got () (s.writeHome ((ts.map (·.1)).zip bs))

/-! ### The end of a grid (R50, R203, R292, R384) -/

/-- R292: the completion word of a grid. -/
def Grid.word (g : Grid) (id : Nat) : Dword := BitVec.ofNat 64 ((if g.aborted then 4 else 0) * 2 ^ 32 + id)

/-- R203: the child of a launch has retired: its member leaves the batch of the launching group. -/
def State.leaveLaunch (s : State) (g : Grid) : State :=
  match g.parent, g.batch with
  | some (pg, pgang, _), some (i, b) =>
    match ((s.gang? pg pgang).bind fun x => x.groups.getD i none) with
    | some gid => (s.modGroup gid fun x => x.leaveBatch b).settle gid
    | none => s
  | _, _ => s

/-- R39, R322: the call of a lane goes on: its fragment may take a resumption. -/
def State.prompt (s : State) (w : PeatWait) : State :=
  match (s.gang? w.grid w.gang).bind fun x => x.groups.getD w.index none with
  | none => s
  | some gid =>
    match ((s.group? gid).bind fun g => g.frags.find? fun f => f.2.mask.getLsbD w.lane).bind fun f => f.2.call.bind fun c => c.handle with
    | some h => s.addDue (.partialResumptionAllocated (BitVec.ofNat 10 (gidCluster gid)) (BitVec.ofNat 16 h))
    | none => s

/-- R50: the grid no longer exists; its parent may now retire. -/
def State.endGrid (s : State) (id : Nat) : State :=
  match s.grid? id with
  | none => s
  | some g =>
    let s := s.leaveLaunch g
    let s := match g.parent with
      | some (pg, pgang, _) =>
        ((s.modGrid pg fun p => { p with children := p.children - 1 }).modGang pg pgang fun x =>
          { x with childGrids := x.childGrids.erase id }).addDue (.gridRetire (BitVec.ofNat 32 pg))
      | none => s
    let s := g.dies.foldl (fun s d => s.modDist d fun x =>
      { x with tickets := x.tickets.erase id, tokens := x.tokens.filter (fun t => t.1 != id), blocked := x.blocked.filter (fun b => b.1 != id),
                 restores := x.restores.filter (fun r => r.1 != id), waits := x.waits.erase id }) s
    let mine := fun (w : PeatWait) => w.on == .grid id
    let p := { s.peat with completions := s.peat.completions.put id (g.word id)
                           handlerGrids := s.peat.handlerGrids.filter fun h => h.1 != id
                           waits := s.peat.waits.map fun w => if mine w then { w with res := some (g.word id) } else w }
    (s.peat.waits.filter mine).foldl State.prompt { s with grids := s.grids.erase id, peat := p }

/-! ### Completion words (R291, R292) -/

/-- Where a completion word goes: cluster, address space, address and value. -/
def State.wordOf (s : State) (who : MemRef) : Option (Nat × BitVec 16 × Nat × Dword) :=
  match who with
  | .completion id => (s.grid? id.toNat).map fun g =>
      ((match g.parent with | some (_, _, gid) => gidCluster gid | none => 16 * g.die), g.asn, g.doneVa, g.word id.toNat)
  | .rejection n => (s.rejections.find n).map fun r => (r.cluster, r.asn, r.va, r.word)
  | _ => none

/-- R291: the word has been written, or its write was aborted, which leaves a record (`lost`); where a timeout ended it, R385 has. -/
def State.wordDone (s : State) (who : MemRef) (lost : Bool) : State :=
  match who with
  | .completion id =>
    match s.grid? id.toNat with
    | some g =>
      let q := (g.queue.map (·.1)).getD 0
      (if lost then s.distRecord g.die 1 6 g.tenant.toNat (q + id.toNat * 2 ^ 32) else s).endGrid id.toNat
    | none => s
  | .rejection n =>
    match s.rejections.find n with
    | some r => { (if lost then s.distRecord (r.cluster / 16) 1 6 r.tenant.toNat r.detail else s) with
        rejections := s.rejections.erase n }
    | none => s
  | _ => s

/-- R292: the write of a completion word is tried; without a translation it asks for one. -/
def State.offerWord (s : State) (who : MemRef) : State :=
  match s.wordOf who with
  | none => s
  | some (c, asn, va, w) =>
    match s.distWrite c asn va (leBytes 8 w.toNat) who with
    | .got _ s => s.wordDone who false
    | .waits s => s.askWalk c asn (pageOf va) who
    | .lost => s.wordDone who true

/-- R50, R384: whether a grid can retire: its gangs and its children have, and every store of a retired group of it is over. -/
def State.gridDone (s : State) (id : Nat) (g : Grid) : Bool :=
  g.gangs.isEmpty && decide (g.children = 0) && (g.aborted || decide (g.retiredGangs = g.e0 * g.e1 * g.e2))
    && s.queues.all fun q => q.2.grid.toNat != id || q.2.ents.isEmpty

/-- R50, R292, R403: GRID_RETIRE: the journal entry, the completion word, the end; for a fenced die whose distributor is down no one
writes an entry or a word (DEDUCED, log 18). -/
def execGridRetire (grid : Word) (s : State) : Out :=
  let id := grid.toNat
  let ev := Instr.gridRetire grid
  match s.grid? id with
  | none => .next (s.dropDue ev)
  | some g =>
    atEnd g.die ev (fun s =>
      if g.completing then s.dropDue ev
      else if !s.gridDone id g then s.dropDue ev
      else if !(s.dist g.die).up then (s.dropDue ev).endGrid id
      else
        let s := (s.dropDue ev).journal g.die 6 ((g.queue.map (·.1)).getD 0) id (if g.aborted then 4 else 0)
        if g.doneVa = 0 then s.endGrid id
        else (s.modGrid id fun g => { g with completing := true }).offerWord (.completion grid)) s

end Sys2Proof.Machine
end

