-- ==== Sys2Proof/Machine/Parking.lean ====
section
/-!
DEFINITION. Page walks, and the life of parked accesses: who waits for a page, joins, answers, aborts and timeouts
(04 R85 to R96, 18 R380, R385, R386, 20 R412).
-/

namespace Sys2Proof.Machine

/-! ### The pages of engine operations (R251, R253) -/

/-- R251: where the rows of one side of a copy start. -/
def CopyDesc.rows (d : CopyDesc) (src : Bool) : List Nat :=
  if d.e0 = 0 then [] else
  (List.range d.e2).flatMap fun i2 => (List.range d.e1).map fun i1 =>
    (((if src then (d.src : Int) + i1 * d.ss1 + i2 * d.ss2 else (d.dst : Int) + i1 * d.ds1 + i2 * d.ds2) % 2 ^ 64).toNat)

/-- R251: whether a side of a copy is in global memory. -/
def CopyDesc.global (d : CopyDesc) (src : Bool) : Bool := if src then d.dir == 0 || d.dir == 1 else d.dir == 0 || d.dir == 2

/-- The pages of a global side of a copy. -/
def CopyDesc.pages (d : CopyDesc) (src : Bool) : List Nat :=
  if d.global src then ((d.rows src).flatMap fun r => pagesOf r d.e0).dedup else []

/-- The lowest address that rows of `n` bytes touch in a page. -/
def firstIn (rows : List Nat) (n vpn : Nat) : Nat :=
  let as := rows.filterMap fun r =>
    let lo := max r (65536 * vpn)
    if 2 ^ 64 + 65536 * vpn < r + n then some (65536 * vpn)
    else if lo < min (r + n) (65536 * (vpn + 1)) then some lo else none
  as.foldl min (65536 * vpn + 65535)

/-- R251, R253: what an engine operation asks of a page's leaf: of an update W, and R too unless it only stores (DESIGN
CHOICE, log 50). -/
def EngOp.wantOf (o : EngOp) (src : Bool) : Want :=
  match o.kind with
  | .copy _ => if src then Want.copyRead else Want.copyWrite
  | .fupd op _ _ _ _ _ => ⟨op != 6, true, false, 5⟩

/-! ### Who waits (R92, R291) -/

/-- The lowest address of a load, or of a store, in a page. -/
def LoadOp.vaIn (o : LoadOp) (vpn : Nat) : Nat :=
  ((o.lanes.find? fun a => a.st == .need && a.spans.any fun p => pageOf p.va == vpn).bind fun a =>
    (a.spans.find? fun p => pageOf p.va == vpn).map (·.va)).getD (65536 * vpn)
def StoreOp.vaIn (e : StoreOp) (vpn : Nat) : Nat :=
  ((e.lanes.find? fun l => l.st == .need && l.writes.any fun w => pageOf w.addr == vpn).bind fun l =>
    (l.writes.find? fun w => pageOf w.addr == vpn).map (·.addr)).getD (65536 * vpn)

/-- The engine operation of a group. -/
def State.eng? (s : State) (gid id : Nat) : Option EngOp := (s.group? gid).bind fun g => g.engs.find? fun e => e.id == id
def State.modEng (s : State) (gid id : Nat) (f : EngOp → EngOp) : State :=
  s.modGroup gid fun g => { g with engs := g.engs.map fun e => if e.id = id then f e else e }

/-- A group as the issuer of an access at `pc`. -/
def Group.party (g : Group) (gid pc : Nat) : Party := ⟨gidCluster gid, g.asn, g.tenant, gid, pc⟩

/-- A fragment of a group. -/
def State.frag? (s : State) (g : Gid) (f : BitVec 5) : Option (Group × Frag) :=
  (s.group? g.toNat).bind fun x => (x.frags.find f.toNat).map fun y => (x, y)

/-- R290: the field of `n` bytes at `off` of a record read. -/
def recField (bs : List Byte) (off n : Nat) : Nat := leNat ((bs.drop off).take n)

/-- R293: where the record at a queue's head lies. -/
def QBind.recVa (b : QBind) : Nat := b.base + 128 + 192 * (b.head.getD 0 % 2 ^ b.size)

/-- The address in a page that a run of bytes from `a` first touches. -/
def clipVa (a vpn : Nat) : Nat := if pageOf a = vpn then a else 65536 * vpn

/-- R92, R95, R291: the issuer of a waiting access to a page, what it asks, and the address of its fault record; none
for an access that is over. -/
def State.partyOf (s : State) (who : MemRef) (vpn : Nat) : Option (Party × Want × Nat) :=
  match who with
  | .load g op =>
    match s.group? g.toNat, s.load? g.toNat op with
    | some gr, some o => some (gr.party g.toNat o.pc.toNat, o.kind.want, o.vaIn vpn)
    | _, _ => none
  | .store q op =>
    match s.queue? q, s.store? q op with
    | some x, some e => some (⟨gidCluster x.gid, x.asn, x.tenant, x.gid, e.pc.toNat⟩, e.kind.want, e.vaIn vpn)
    | _, _ => none
  | .fetch g f =>
    (s.frag? g f).bind fun (gr, fr) =>
      if fr.hold = .fetch then
        let h := (if fr.reread then fr.hdr else fr.pc).toNat
        some (gr.party g.toNat h, Want.fetch, clipVa h vpn)
      else none
  | .copy g op =>
    match s.group? g.toNat, s.eng? g.toNat op with
    | some gr, some o =>
      if o.failed.isSome then none else
      let p := gr.party g.toNat o.pc.toNat
      match o.kind with
      | .copy d =>
        let src := decide (vpn ∈ d.pages true) && (s.lookup p.cluster p.asn (65536 * vpn) Want.copyRead).isNone
        some (p, o.wantOf src, firstIn (if d.global src then d.rows src else []) d.e0 vpn)
      | .fupd _ _ dst _ _ _ => some (p, o.wantOf false, dst)
    | _, _ => none
  | .ipin g f =>
    (s.frag? g f).bind fun (gr, fr) =>
      match fr.hold with
      | .ipin _ lo _ => some (gr.party g.toNat fr.pc.toNat, Want.fetch, clipVa lo vpn)
      | _ => none
  | .launchRec g f =>
    (s.frag? g f).bind fun (gr, fr) =>
      match fr.hold with
      | .launch _ _ a _ _ _ => some (gr.party g.toNat fr.pc.toNat, Want.load, clipVa a vpn)
      | _ => none
  | .launchDesc g f =>
    (s.frag? g f).bind fun (gr, fr) =>
      match fr.hold with
      | .launch _ _ _ r _ _ => some (gr.party g.toNat 0, Want.distRead, clipVa (recField r 8 8) vpn)
      | _ => none
  | .queueRec die q =>
    ((s.die die.toNat).dist.binds.find q.toNat).map fun b =>
      let p : Party := ⟨16 * die.toNat, b.asn, b.tenant, 0, 0⟩
      if pageOf b.base = vpn then (p, ⟨true, true, false, 6⟩, b.base)
      else (p, Want.distRead, clipVa (if b.record.isEmpty then b.recVa else recField b.record 8 8) vpn)
  | .completion grid =>
    (s.grid? grid.toNat).map fun g =>
      match g.parent with
      | some (_, _, gid) => (⟨gidCluster gid, g.asn, g.tenant, gid, 0⟩, Want.distWrite, clipVa g.doneVa vpn)
      | none => (⟨16 * g.die, g.asn, g.tenant, 0, 0⟩, Want.distWrite, clipVa g.doneVa vpn)
  | .rejection n => (s.rejections.find n).map fun r =>
      (⟨r.cluster, r.asn, r.tenant, r.gid, 0⟩, Want.distWrite, clipVa r.va vpn)

/-- R40: a fragment whose access has parked enters mem-park. -/
def State.toPark (s : State) (who : MemRef) : State :=
  let park := fun (g : Gid) (f : Nat) => s.modGroup g.toNat fun x => x.modFrag f fun y => { y with state := .memPark }
  match who with
  | .load g op =>
    match s.load? g.toNat op, s.group? g.toNat with
    | some o, some x =>
      if ((x.frags.find o.frag).map fun y => y.hold == .translate op).getD false then park g o.frag else s
    | _, _ => s
  | .fetch g f | .ipin g f | .launchRec g f => park g f.toNat
  | _ => s

/-- A fetch whose translation has come is made again: its fragment is ready (R97). -/
def State.wakeFetch (s : State) (who : MemRef) : State :=
  match who with
  | .fetch g f => s.modGroup g.toNat fun x => x.modFrag f.toNat fun y =>
      if y.hold = .fetch then { y with state := .ready, hold := .none } else y
  | _ => s

/-- R94: a member of an entry in rewalk has walked again; the last one frees the entry. -/
def State.leaveRewalk (s : State) (d : Nat) (asn : BitVec 16) (vpn : Nat) (who : MemRef) : State :=
  s.modDie d fun x =>
    let q := x.quag.map fun e =>
      if e.2.st = .rewalk ∧ e.2.asn = asn then (e.1, { e.2 with members := e.2.members.erase (who, vpn) }) else e
    { x with quag := q.filter fun e => !(e.2.st == .rewalk && e.2.members.isEmpty) }

/-- R87: whether an access translates through the cluster's buffer. -/
def buffered : MemRef → Bool
  | .queueRec _ _ | .completion _ | .rejection _ | .launchDesc _ _ => false
  | _ => true

/-- R92: an access has parked, and its fragment with it, or it waits in the walk queue. -/
def State.parked (who : MemRef) (r : Bool × State) : State := if r.1 then r.2.toPark who else r.2

/-- R87: the walks of a die under way: at most 256, in order of arrival. -/
def State.walking (s : State) (d : Nat) : List Instr :=
  (s.due.filter fun e => match e with | .pageWalk c _ _ _ => c.toNat / 16 == d | _ => false).take 256

/-- R406, R407: a completion word that a distributor writes waits while the distributor is down. -/
def State.wordWaits (s : State) (who : MemRef) : Bool :=
  match who with
  | .completion g => ((s.grid? g.toNat).map fun x => !(s.dist x.die).up).getD false
  | .rejection n => ((s.rejections.find n).map fun r => !(s.dist (r.cluster / 16)).up).getD false
  | _ => false

/-- R85, R87, R90, R92, R338: PAGE_WALK: the walk ends in a translation, or the access parks; one that meets a die which is not
reached parks with kind 4. -/
def execPageWalk (c : BitVec 10) (asn : BitVec 16) (vpn : Nat) (who : MemRef) (s : State) : Out :=
  let e := Instr.pageWalk c asn vpn who
  let d := c.toNat / 16
  if e ∉ s.walking d || s.wordWaits who then .next s else
  let s := (s.dropDue e).leaveRewalk d asn vpn who
  match s.partyOf who vpn with
  | none => .next s
  | some (p, want, va) =>
    let r := s.walk d asn.toNat va want false
    let s := s.walkFill d asn.toNat va 2 (bits (s.spaceEntry d asn.toNat) 42 16) 1
    match r with
    | .ok t =>
      let s := if buffered who then
          { s.modCluster c.toNat fun x => x.ctbFill t s.fresh with fresh := s.fresh + 1 }
        else s
      .next ((s.wakeFetch who).offerWord who)
    | .fault kind level => .next (State.parked who (s.park p vpn va kind level want who))
    | .scrub t frame => .next (State.parked who (s.parkScrub p vpn va t.level frame want who))
    | .closed home => .next (State.parked who ((s.notSent d home).park p vpn va 4 0 want who))

/-- R92, R412: QUAG_ROOM_FREED: the first access in the walk queue that could now park walks again. -/
def execQuagRoomFreed (die : BitVec 6) (s : State) : Out :=
  let e := Instr.quagRoomFreed die
  if e ∉ s.due then .next s else
  let d := die.toNat
  let x := s.die d
  let fits := fun (w : WalkWait) => (x.quagOf w.asn w.vpn .parked).isSome ||
    (match s.partyOf w.who w.vpn with
     | some (p, _, _) => (x.quagRoom p.tenant).isSome
     | none => true)
  match x.walkQ.find? fits with
  | none => .next (if x.walkQ.isEmpty then s.dropDue e else s)
  | some w =>
    .next ((s.modDie d fun x => { x with walkQ := x.walkQ.erase w }).addDue (.pageWalk (BitVec.ofNat 10 w.cluster) w.asn w.vpn w.who))

/-- R94: an entry's members walk again. -/
def State.rewalk (s : State) (d entry : Nat) (q : Quag) : State :=
  let s := s.modDie d fun x => { x with quag := if q.members.isEmpty then x.quag.erase entry else x.quag.put entry { q with st := .rewalk } }
  q.members.foldl (fun s m => s.addDue (.pageWalk (BitVec.ofNat 10 q.cluster) q.asn m.2 m.1)) s

/-- R94: SCRUB_WAIT_REREAD: the ownership entry is read again; once the frame has left scrub-pending, or its die is no longer
reached, the members rewalk. -/
def execScrubWaitReread (die : BitVec 6) (entry : BitVec 10) (s : State) : Out :=
  let e := Instr.scrubWaitReread die entry
  if e ∉ s.due then .next s else
  match (s.die die.toNat).quag.find entry.toNat with
  | some q =>
    if q.st ≠ .scrubWait then .next (s.dropDue e)
    else if s.linked die.toNat (paDie (65536 * q.frame)) && ownState (s.ownEntry (65536 * q.frame)) == 2 then .next s
    else .next ((s.dropDue e).rewalk die.toNat entry.toNat q)
  | none => .next (s.dropDue e)

/-! ### Answers (R96, R380, R381, R382) -/

/-- R96: a member that no answer fits walks again. -/
def State.retryOne (s : State) (q : Quag) (who : MemRef) : State :=
  s.addDue (.pageWalk (BitVec.ofNat 10 q.cluster) q.asn q.vpn who)

/-- R325: the bytes of a span from supplied lines. -/
def Span.fromLines (p : Span) (m : SMap (List Dword)) : Option (List Byte) :=
  (m.find (p.va % 65536 / 128)).map fun ds => (List.range p.len).map fun i => lineByte ds ((p.va + i) % 128)

/-- An address beyond every die: where a span stands whose bytes were supplied. -/
def nowhere : Nat := 2 ^ 43

/-- R96, R325: member lanes of a load receive their bytes from the supplied lines. -/
def State.emulateLanes (s : State) (gid op vpn : Nat) (m : SMap (List Dword)) : State :=
  match s.group? gid with
  | none => s
  | some g =>
    let ws := s.olderWrites (gidCluster gid) g op
    let s := s.modLoad gid op fun o => { o with lanes := o.lanes.map fun a =>
      let mine := a.spans.filter fun p => pageOf p.va == vpn && p.data.isNone
      if a.st = .need ∧ (mine.all fun p => (p.fromLines m).isSome) = true then
        { a with spans := a.spans.map fun p =>
            if pageOf p.va = vpn ∧ p.data = none then
              { p with pa := some nowhere, tr := 2, l2c := false, data := (p.fromLines m).map fun bs =>
                  (List.range bs.length).map fun i => (forwardByte ws (p.va + i) nowhere (bs.getD i 0)).1 }
            else p }
      else a }
    (s.commitLanes gid op).finishLoad gid op

/-- R96: the access of an engine that has parked for a page is a write: what it asked of the page when it parked. -/
def State.parksWrite (s : State) (q : Quag) (who : MemRef) : Bool :=
  match who with
  | .copy _ _ => (s.partyOf who q.vpn).any fun p => p.2.1.w
  | _ => false

/-- R96: emulate-load on one member. -/
def State.emulateLoadOne (s : State) (q : Quag) (who : MemRef) : State :=
  let keep := { s with answers := s.answers ++ [⟨who, q.vpn, .lines q.lines⟩] }
  match who with
  | .load g op =>
    match s.load? g.toNat op with
    | some o =>
      match o.kind with
      | .atomic _ _ => s.retryOne q who
      | _ => s.emulateLanes g.toNat op q.vpn q.lines
    | none => s
  | .store _ _ => s.retryOne q who
  | .fetch _ _ => keep.wakeFetch who
  | .completion _ | .rejection _ => s.retryOne q who
  | _ => if q.lines.isEmpty || s.parksWrite q who then s.retryOne q who else keep

/-- R96: emulate-store on one member: the member's writes to the page count as performed. -/
def State.emulateStoreOne (s : State) (q : Quag) (who : MemRef) : State :=
  match who with
  | .store n op =>
    match s.store? n op with
    | some e =>
      match e.kind with
      | .atomic _ _ => s.retryOne q who
      | _ =>
        let s := s.modStore n op fun e => { e with lanes := e.lanes.map fun l =>
          if l.st = .need then
            let ws := l.writes.filter fun w => pageOf w.addr != q.vpn
            { l with writes := ws, st := if ws.isEmpty then .done else .need }
          else l }
        s.closeStore n op
    | none => s
  | .copy g op =>
    match s.eng? g.toNat op with
    | some o =>
      match o.kind with
      | .copy _ => if s.parksWrite q who then s.modEng g.toNat op fun o => { o with skip := o.skip ++ [q.vpn] } else s.retryOne q who
      | .fupd _ _ _ _ _ _ => s.retryOne q who
    | none => s
  | .completion _ | .rejection _ => s.wordDone who false
  | _ => s.retryOne q who

/-- R254, R381, R388: a LAUNCH whose record was not read stands at its instruction, its lanes as replay mask, and leaves its batch. -/
def State.standLaunch (s : State) (gid fid : Nat) : State :=
  s.modGroup gid fun g =>
    match g.frags.find fid with
    | none => g
    | some f =>
      match f.hold with
      | .launch _ lanes _ _ b _ => (g.leaveBatch b).modFrag fid fun f =>
          { f with inClause := false, reread := true, words := [], state := .memPark, hold := .none, replay := lanes }
      | _ => g

/-- R380 to R382, R398: abort of one member; `timed` for a timeout. A store ends as a whole: it has written nothing yet. Of a copy the
page that was aborted first is the one that counts (R397). -/
def State.abortOne (s : State) (q : Quag) (timed : Bool) (who : MemRef) : State :=
  let ended := { s with answers := s.answers ++ [⟨who, q.vpn, .ended timed⟩] }
  let st : LaneSt := if timed then .expired else .aborted
  match who with
  | .load g op =>
    (s.modLoad g.toNat op fun o => { o with lanes := o.lanes.map fun a =>
      if a.st = .need ∧ (a.spans.any fun p => pageOf p.va == q.vpn && p.data.isNone) = true then { a with st := st } else a }).finishLoad g.toNat op
  | .store n op =>
    match s.queue? n, s.store? n op with
    | some x, some e =>
      if e.lanes.any fun l => l.st == .need then (s.storeEnds n x e st 2 1 (e.vaIn q.vpn)).closeStore n op else s
    | _, _ => s
  | .fetch g f | .ipin g f =>
    match s.frag? g f with
    | some (_, y) =>
      let va := ((s.partyOf who q.vpn).map (·.2.2)).getD 0
      let pc := (if y.reread then y.hdr else y.pc).toNat
      let s := if timed then s.haltGroup g.toNat 0x0304 pc else s.takeException g.toNat ⟨1, 0x0E, pc, va, 0⟩
      s.modGroup g.toNat fun x => x.modFrag f.toNat fun y => { y with state := .ready, hold := .none }
    | none => s
  | .launchRec g f =>
    match s.frag? g f with
    | some (gr, y) =>
      match y.hold with
      | .launch _ lanes a _ _ _ =>
        let n := (lanesOf lanes gr.lanes).length
        let s := s.dropDue (.launchRecordAccept (BitVec.ofNat 6 (gidDie g.toNat)) (.group g f))
        let s := if timed then s.haltGroup g.toNat 0x0304 y.pc.toNat else s.takeException g.toNat ⟨1, 0x0E, y.pc.toNat, a, n⟩
        s.standLaunch g.toNat f.toNat
      | _ => s
    | none => s
  | .copy g op =>
    match s.eng? g.toNat op with
    | some o =>
      let va := match o.kind with
        | .copy _ => ((s.partyOf who q.vpn).map (·.2.2)).getD 0
        | .fupd _ _ dst _ _ _ => dst / 128 * 128
      let cause := match o.kind with | .copy _ => 1 | .fupd _ _ _ _ _ _ => 3
      if o.failed.isSome then s else
      (s.modEng g.toNat op fun o => { o with failed := some (cause, va, timed) }).addDue
        (.engineOperationFailed g op (BitVec.ofNat 8 cause) (BitVec.ofNat 64 va))
    | none => s
  | .completion _ | .rejection _ => s.wordDone who (!timed)
  | _ => ended

/-- R96, R386: an answer to a parked entry; one that is not parked ignores it. Its entry is freed, and its timer with it. -/
def State.answer (s : State) (d entry : Nat) (one : State → Quag → MemRef → State) : State :=
  match (s.die d).quag.find entry with
  | none => s
  | some q =>
    if q.st ≠ .parked then s else
    let s := (s.dropDue (.parkingTimeout (BitVec.ofNat 6 d) (BitVec.ofNat 10 entry))).modDie d fun x => { x with quag := x.quag.erase entry }
    q.members.foldl (fun s m => one s { q with vpn := m.2 } m.1) s

/-- R96: the retry answer: the entry goes to rewalk. -/
def State.answerRetry (s : State) (d entry : Nat) : State :=
  match (s.die d).quag.find entry with
  | none => s
  | some q =>
    if q.st ≠ .parked then s
    else (s.dropDue (.parkingTimeout (BitVec.ofNat 6 d) (BitVec.ofNat 10 entry))).rewalk d entry q

/-- R385: qtmo's fields. -/
def Die.qtmoEn (x : Die) : Bool := x.qtmo.getLsbD 63
def Die.qtmoLimit (x : Die) : Nat := (x.qtmo.extractLsb' 0 32).toNat

/-- R385: PARKING_TIMEOUT: the entry has reached qtmo's limit: a record, and the end of an abort. -/
def execParkingTimeout (die : BitVec 6) (entry : BitVec 10) (s : State) : Out :=
  let e := Instr.parkingTimeout die entry
  let d := die.toNat
  let x := s.die d
  match x.quag.find entry.toNat with
  | none => .next (s.dropDue e)
  | some q =>
    if q.st ≠ .parked then .next (s.dropDue e)
    else if !x.qtmoEn || decide (s.clock d < q.clock + x.qtmoLimit * 4096) then .next s
    else
      let s := s.record d (mkRec 1 3 4 14 q.tenant.toNat q.gid (unitOf 4 d) q.pc.toNat q.va entry.toNat)
      .next (s.answer d entry.toNat fun s q m => s.abortOne q true m)

end Sys2Proof.Machine
end

