-- ==== Sys2Proof/Machine/Power.lean ====
section
/-!
DEFINITION. Power grants: requests, grants in order of age, releases and the power monitor (12 R308, R309, 19 R401).
-/

namespace Sys2Proof.Machine

/-- R308, R401: firmware writes the capacity; a value outside 8 to 140 is ignored. -/
def State.setCap (s : State) (d c : Nat) : State :=
  if 8 ≤ c ∧ c ≤ 140 then s.modDie d fun x => { x with power := { x.power with cap := c } } else s

/-- R309, R401: POWER_GRANT: the oldest request is granted if its cost fits and the reading is not over the limit. -/
def execPowerGrant (die : BitVec 6) (s : State) : Out :=
  let e := Instr.powerGrant die
  if e ∉ s.due then .next s else
  let p := (s.die die.toNat).power
  match p.queue with
  | [] => .next (s.dropDue e)
  | (t, cost) :: rest =>
    if p.overSince.isNone && decide (p.units + cost ≤ p.cap) then
      .next (s.modDie die.toNat fun x =>
        { x with power := { x.power with queue := rest, held := x.power.held ++ [(t, cost)], units := x.power.units + cost } })
    else .next s

/-- R401: a grant that is still recorded in a reservation table or a copy engine of the die, or whose release is on its way. -/
def State.grantRecorded (s : State) (d ticket : Nat) : Bool :=
  ((List.range 16).any fun i => (s.cluster (16 * d + i)).table.any fun r => r.ticket == some ticket)
    || (s.groups.any fun e => gidDie e.1 == d && e.2.engs.any fun o => o.ticket == some ticket)
    || decide (Instr.powerRelease (BitVec.ofNat 6 d) ticket ∈ s.due)

/-- R309, R401: POWER_RELEASE, and the audit of the count against the grants that are recorded. -/
def execPowerRelease (die : BitVec 6) (ticket : Nat) (s : State) : Out :=
  let d := die.toNat
  let p := (s.die d).power
  let s := s.dropDue (.powerRelease die ticket)
  match p.held.find? fun h => h.1 == ticket with
  | none => .next s
  | some h =>
    let held := p.held.filter fun h => h.1 != ticket && s.grantRecorded d h.1
    let units := p.units - h.2
    let sum := (held.map (·.2)).sum
    let s := if units = sum then s
      else s.record d (mkRec 0 0x12 1 2 0 0 (unitOf 7 d) 0 0 (units * 2 ^ 32 + sum))
    .next (s.modDie d fun x => { x with power := { x.power with held := held, units := sum } })

/-- R401: POWER_OVER_LIMIT: the monitor reads more than 140 W: no new grant is made. -/
def execPowerOverLimit (die : BitVec 6) (s : State) : Out :=
  let d := die.toNat
  if (s.die d).power.overSince.isSome then .next s else
  let s := s.record d (mkRec 0 0x12 2 2 0 0 (unitOf 7 d) 0 0 0)
  .next ((s.modDie d fun x => { x with power := { x.power with overSince := some (s.clock d) } }).addDue (.powerOverLimit10ms die))

/-- R20, R401: the cycles of 10 ms at 850 MHz. -/
def tenMs : Nat := 8500000

/-- R401: POWER_OVER_LIMIT_10MS: severity 3, and the die is fenced. -/
def execPowerOverLimit10ms (die : BitVec 6) (s : State) : Out :=
  let d := die.toNat
  match (s.die d).power.overSince with
  | none => .next (s.dropDue (.powerOverLimit10ms die))
  | some t =>
    if s.clock d < t + tenMs then .next s
    else .next ((s.dropDue (.powerOverLimit10ms die)).record d (mkRec 3 0x12 3 2 0 0 (unitOf 7 d) 0 0 0))

/-- R401: POWER_READING_RECOVERED: the reading is 126 W or below: grants resume. -/
def execPowerReadingRecovered (die : BitVec 6) (s : State) : Out :=
  .next ((s.dropDue (.powerOverLimit10ms die)).modDie die.toNat fun x =>
    { x with power := { x.power with overSince := none } })

end Sys2Proof.Machine
end

