-- ==== Sys2Proof/Machine/Engine.lean ====
section
/-!
DEFINITION. Fences, copies, element-wise updates, batches, and cache and instruction-cache maintenance (10 R250 to
R259, 05 R109 to R111, 04 R98, 19 R397 to R400).
-/

namespace Sys2Proof.Machine

/-! ### FENCE, BCOMMIT, BWAIT (R250, R254, R255) -/

/-- R250: FENCE. -/
def execFence (sc : BitVec 3) (s : State) : Out :=
  issue (plainReq (scopeOk sc.toNat)) (fun c s =>
    if !s.drained c.g c.upto then s.opWait c (.fence c.upto)
    else (s.commit c 4 c.g).acquire (gidCore c.gid)) s

/-- R254: BCOMMIT. -/
def execBcommit (d : BitVec 6) (s : State) : Out :=
  issue (plainReq true) (fun c s =>
    if 15 ≤ c.g.lag then s.opWait c .lag
    else
      let g := c.g.setS d.toNat (c.g.ob.zeroExtend 64)
      (s.commit c 4 (Group.advanceCb 16 { g with ob := g.ob + 1 })).settle c.gid) s

/-- R255: the batch that a BWAIT waits for: the last closed one where the operand names none that is closed. -/
def bwaitBatch (g : Group) (n : BitVec 16) : BitVec 16 :=
  if g.ob - n = 0 ∨ 0x8000 ≤ (g.ob - n).toNat then g.ob - 1 else n

/-- R110, R255: BWAIT joins and acquires at .grp. -/
def execBwait (a : BitVec 6) (s : State) : Out :=
  issue (plainReq true) (fun c s =>
    let n := match c.f.hold with
      | .batch n => BitVec.ofNat 16 n
      | _ => bwaitBatch c.g ((c.s a).extractLsb' 0 16)
    if c.g.batchDone n then (s.commit c 4 c.g).acquire (gidCore c.gid) else s.opWait c (.batch n.toNat)) s

/-! ### The issue of engine operations (R109, R251 to R253) -/

/-- R254: an engine operation joins the open batch and moves ec. -/
def State.startEng (s : State) (c : Ctx) (kind : EngKind) (ticket : Option Nat) (ev : Gid → Nat → Instr) : State :=
  let id := c.g.nextOp
  let o : EngOp := { id := id, pc := c.f.pc, kind := kind, batch := c.g.ob.toNat, ticket := ticket, skip := [], failed := none }
  (s.commit c 4 { c.g.joinBatch with engs := c.g.engs ++ [o], nextOp := id + 1 }).addDue (ev (BitVec.ofNat 18 c.gid) id)

/-- R251: the descriptor in six scalars. DEDUCED: log 45. -/
def Ctx.copyDesc (c : Ctx) (a : Nat) (dir : Nat) : CopyDesc :=
  let r := fun k => c.g.sreg (a + k)
  { dir := dir, dst := (r 0).toNat, src := (r 1).toNat, e0 := ((r 2).extractLsb' 0 32).toNat, e1 := ((r 2).extractLsb' 32 32).toNat,
    e2 := ((r 3).extractLsb' 0 32).toNat, ss1 := ((r 4).extractLsb' 0 32).toInt, ss2 := ((r 4).extractLsb' 32 32).toInt,
    ds1 := ((r 5).extractLsb' 0 32).toInt, ds2 := ((r 5).extractLsb' 32 32).toInt }

/-- R251: the lowest offset beyond a grant of n bytes that a row of `len` bytes at `r` touches, mod 2^64. -/
def rowBeyond (n len r : Nat) : Option Nat :=
  if r + len ≤ n then none
  else if 2 ^ 64 + n < r + len then some n
  else some (max r n)

/-- R251: the rows of the scratchpad sides of a copy. -/
def CopyDesc.padRows (d : CopyDesc) : List Nat :=
  (if d.global false then [] else d.rows false) ++ (if d.global true then [] else d.rows true)

/-- R308: the cost of a copy's power grant, as its pages translate now; none if it asks for none. -/
def State.copyCost (s : State) (gid : Nat) (g : Group) (d : CopyDesc) : Option Nat :=
  if d.e0 * d.e1 * d.e2 ≤ 1048576 then none else
  let die := gidDie gid
  let far := fun (src : Bool) => (d.pages src).any fun v =>
    match s.walk die g.asn.toNat (65536 * v) (if src then Want.copyRead else Want.copyWrite) false with
    | .ok t => paDie (t.frame * 65536) != die
    | _ => false
  some (if far true || far false then 8 else 4)

/-- R251, R252: CPY. DEDUCED: log 45. -/
def execCpy (a : BitVec 6) (r : BitVec 2) (s : State) : Out :=
  issue ⟨decide (a.toNat ≤ 58), [], 0, some 2, 4⟩ (fun c s =>
    let d := c.copyDesc a.toNat r.toNat
    let n := (s.grantOf c.gid c.g).2
    match d.padRows.filterMap (rowBeyond n d.e0) with
    | x :: xs => s.trap c 0x0B (xs.foldl min x) n
    | [] =>
      match s.copyCost c.gid c.g d with
      | none => s.startEng c (.copy d) none .copyComplete
      | some w =>
        let (t, s) := s.askPower (gidDie c.gid) w
        s.startEng c (.copy d) (some t) .copyComplete) s

/-- R253: FUPD. An alignment fault reports sa, whichever operand is at fault (DESIGN CHOICE, log 50). DEDUCED: log 45. -/
def execFupd (d a b : BitVec 6) (t : BitVec 2) (o : BitVec 4) (s : State) : Out :=
  issue ⟨decide (t.toNat ≤ 1) && decide (o.toNat ≤ 6) && !(t == 1 && decide (3 ≤ o.toNat) && decide (o.toNat ≤ 5)), [], 0, some 2, 4⟩
    (fun c s =>
      let n := (c.s d).toNat
      let dst := (c.s a).toNat
      let src := (c.s b).toNat
      let grant := (s.grantOf c.gid c.g).2
      if n < 4 ∨ 128 < n ∨ n % 4 ≠ 0 ∨ dst % 4 ≠ 0 ∨ src % 4 ≠ 0 ∨ 128 < dst % 128 + n then s.trap c 0x0A dst 0
      else if grant < src + n then s.trap c 0x0B (max src grant) grant
      else s.startEng c (.fupd o.toNat t.toNat dst src n c.rm) none .fupdPerformed) s

/-! ### Engine operations in flight -/

/-- R109: every earlier store and push of the group has been performed and every earlier load has returned. -/
def State.engReady (s : State) (g : Group) (id : Nat) : Bool :=
  (g.loads.all fun l => decide (id ≤ l.id)) &&
    ((s.queue? g.sq).map fun q => q.ents.all fun e => decide (id ≤ e.id) || e.performed).getD true

/-- R62, R254, R309: an engine operation leaves ec, fulfils its batch and gives up its grant. -/
def State.endEng (s : State) (gid : Nat) (o : EngOp) : State :=
  let s := (s.modGroup gid fun g => ({ g with engs := g.engs.filter fun e => e.id != o.id }).leaveBatch o.batch).endPower (gidDie gid) o.ticket
  (s.dropAnswers (.copy (BitVec.ofNat 18 gid) o.id)).settle gid

/-- R398: an operation is to fail, with a cause and an address. -/
def State.failEng (s : State) (gid : Nat) (o : EngOp) (cause va : Nat) : State :=
  (s.modEng gid o.id fun o => { o with failed := some (cause, va, false) }).addDue
    (.engineOperationFailed (BitVec.ofNat 18 gid) o.id (BitVec.ofNat 8 cause) (BitVec.ofNat 64 va))

/-- R397: a record of class 0x11. -/
def EngOp.errRec (o : EngOp) (gid : Nat) (g : Group) (cause addr : Nat) : ErrRec :=
  mkRec 1 0x11 cause (6 + if addr = 0 then 0 else 8) g.tenant.toNat gid (coreUnit gid) o.pc.toNat addr 0

/-- One end of a byte that a copy moves: memory with its page's treatment, the scratchpad, a byte supplied by an
answer, or a write that an answer has performed. -/
inductive CopyEnd where
  | mem (pa tr : Nat)
  | pad (off : Nat)
  | given (b : Byte)
  | gone
deriving DecidableEq, Repr

/-- R252: where a byte of a copy is, if its page translates or an answer covers it. -/
def State.copyEnd (s : State) (gid : Nat) (g : Group) (o : EngOp) (d : CopyDesc) (src : Bool) (va : Nat) : Option CopyEnd :=
  let c := gidCluster gid
  if !d.global src then some (.pad ((s.grantOf gid g).1 + va))
  else
    let given := if src then (s.supplied (.copy (BitVec.ofNat 18 gid) o.id) va).map CopyEnd.given
      else if pageOf va ∈ o.skip then some .gone else none
    match given with
    | some e => some e
    | none => (s.lookup c g.asn va (if src then Want.copyRead else Want.copyWrite)).map fun t => .mem (t.pa va) t.tr

/-- R251: the source and destination address of every byte of a copy. -/
def CopyDesc.bytes (d : CopyDesc) : List (Nat × Nat) :=
  ((d.rows true).zip (d.rows false)).flatMap fun r => (List.range d.e0).map fun i => ((r.1 + i) % 2 ^ 64, (r.2 + i) % 2 ^ 64)

/-- The byte at an end. -/
def State.endByte (s : State) (cl : Nat) : CopyEnd → Byte
  | .mem pa _ => s.readByte pa
  | .pad off => (s.cluster cl).sbyte off
  | .given b => b
  | .gone => 0
/-- R388: whether an end is poisoned. -/
def State.endPoisoned (s : State) (cl : Nat) : CopyEnd → Bool
  | .mem pa _ => s.poisoned pa
  | .pad off => (s.cluster cl).spoiled off
  | _ => false
/-- A byte written at an end. -/
def State.endWrite (s : State) (cl : Nat) (e : CopyEnd) (b : Byte) : State :=
  match e with
  | .mem pa _ => s.writeHome [(pa, b)]
  | .pad off => s.modCluster cl fun c => c.setSbyte off b
  | _ => s

/-- R388: the marks that a copy's writes leave: those they cover wholly go, and poison is carried (R399). -/
def State.endMarks (s : State) (cl : Nat) (dsts carried : List CopyEnd) : State :=
  let mems := dsts.filterMap fun e => match e with | .mem pa _ => some (pa, (0 : Byte)) | _ => none
  let pads := dsts.filterMap fun e => match e with | .pad off => some off | _ => none
  let memBad := (carried.filterMap fun e => match e with | .mem pa _ => some (pa / 32) | _ => none).dedup
  let padBad := (carried.filterMap fun e => match e with | .pad off => some (off / 4) | _ => none).dedup
  let left := s.poison.filter fun k => !coversSector mems k && decide (k ∉ memBad)
  let s := { s with poison := left ++ memBad }
  s.modCluster cl fun c =>
    { c with spoison := (c.spoison.filter fun k => decide (k ∉ padBad) && !((List.range 4).all fun i => decide (4 * k + i ∈ pads))) ++ padBad }

/-- The elements of a list in an order the spec leaves open (R252; DESIGN CHOICE, log 1). -/
def anyOrder {α : Type} : Nat → List α → List α
  | _, [] => []
  | k, x :: xs =>
    let ys := anyOrder (k + 1) xs
    let n := Config.pick k % (ys.length + 1)
    ys.take n ++ x :: ys.drop n

/-- R252: the bytes of a copy are moved. They are in no order, and a source byte that is also a destination byte gives
its old value or one the copy writes (DESIGN CHOICE, logs 1 and 9). -/
def State.moveBytes (s : State) (cl : Nat) (es : List (CopyEnd × CopyEnd)) : State :=
  let lines := fun (l : List CopyEnd) => (l.filterMap fun e => match e with | .mem pa 0 => some (pa / 128) | _ => none).dedup
  let s := (lines (es.map (·.1))).foldl (fun s l => s.homeSync l false []) s
  let s := (lines (es.map (·.2))).foldl (fun s l => s.homeSync l true []) s
  let s0 := s
  let dsts : List CopyEnd := es.map (·.2)
  let plain := decide (List.Nodup dsts) && es.all fun e => decide (e.1 ∉ dsts)
  let order := if plain then es.zipIdx else anyOrder s.fresh es.zipIdx
  let s := order.foldl (fun s x => s.endWrite cl x.1.2 ((if Config.takeNew s0.fresh x.2 then s else s0).endByte cl x.1.1)) s
  { s.endMarks cl dsts ((es.filter fun e => s0.endPoisoned cl e.1).map (·.2)) with fresh := s.fresh + 1 }

/-- R91: the pages that an engine operation writes are marked as written. -/
def State.markEng (s : State) (gid : Nat) (g : Group) (pages : List Nat) (want : Want) : State :=
  s.markLeaves (gidCluster gid) (pages.filterMap fun v => (s.lookup (gidCluster gid) g.asn (65536 * v) want).map fun t => (v, t))

/-- The pages of a copy that still lack a translation and an answer. -/
def State.copyLacks (s : State) (gid : Nat) (g : Group) (o : EngOp) (d : CopyDesc) : List Nat :=
  let lack := fun (src : Bool) (va : Nat) => if (s.copyEnd gid g o d src va).isNone then some (pageOf va) else none
  (d.bytes.flatMap fun b => (lack true b.1).toList ++ (lack false b.2).toList).dedup

/-- The lowest of a list of numbers, 0 for none. -/
def lowest : List Nat → Nat
  | [] => 0
  | x :: xs => xs.foldl min x

/-- R374, R397: the first byte of an access whose route to its home is closed or fenced. -/
def State.cutOff (s : State) (d : Nat) (l : List (Nat × CopyEnd)) : Option Nat :=
  (l.find? fun e => match e.2 with | .mem pa _ => !s.linked d (paDie pa) | _ => false).map (·.1)

/-- R79: the lines that a copy touches, with their leaves' L2C. -/
def State.copyLines (s : State) (gid : Nat) (g : Group) (d : CopyDesc) : List (Nat × Bool) :=
  let one : Bool → Nat → Option (Nat × Bool) := fun src va => if d.global src then
      (s.lookup (gidCluster gid) g.asn va (if src then Want.copyRead else Want.copyWrite)).map fun t => (t.pa va / 128, t.l2c)
    else none
  (d.bytes.flatMap fun b => (one true b.1).toList ++ (one false b.2).toList).eraseDups

/-- R308, R309: a copy that turns out to need a larger grant, since a page that had no translation at its issue lies on another
die, gives its grant up and asks again, before its first access. -/
def State.repower (s : State) (gid : Nat) (g : Group) (o : EngOp) (d : CopyDesc) : Option State :=
  match o.ticket, s.copyCost gid g d with
  | some t, some w =>
    if (s.die (gidDie gid)).power.held.any fun h => h.1 == t && decide (h.2 < w) then
      let (n, s) := (s.endPower (gidDie gid) (some t)).askPower (gidDie gid) w
      some (s.modEng gid o.id fun o => { o with ticket := some n })
    else none
  | _, _ => none

/-- R252, R397, R399: a copy all of whose bytes can be moved. -/
def State.finishCopy (s : State) (gid : Nat) (g : Group) (o : EngOp) (d : CopyDesc) : State :=
  let cl := gidCluster gid
  let fb := fun (src : Bool) (va : Nat) => (s.copyEnd gid g o d src va).getD .gone
  let es := d.bytes.map fun b => (fb true b.1, fb false b.2)
  let vas := (d.bytes.map fun b => (b.1, fb true b.1)) ++ (d.bytes.map fun b => (b.2, fb false b.2))
  let pas := vas.filterMap fun v => match v.2 with | .mem pa 0 => some pa | _ => none
  let homes := (vas.filterMap fun v => match v.2 with | .mem pa _ => some (paDie pa) | _ => none).dedup
  if s.anyBusy 0 pas || (homes.any fun h => s.heldBack (gidDie gid) h) then s else
  match s.cutOff (gidDie gid) vas with
  | some va => s.failEng gid o 4 va
  | none =>
    let bad := (es.filter fun e => s.endPoisoned cl e.1).filterMap fun e => match e.1 with
      | .mem pa _ => some pa
      | .pad off => some (off - (s.grantOf gid g).1)
      | _ => none
    let s := if bad.isEmpty then s else s.record (gidDie gid) (o.errRec gid g 2 (lowest bad))
    (((s.markEng gid g (d.pages false) Want.copyWrite).moveBytes cl es).l2Lines (s.copyLines gid g d)).endEng gid o

/-- R109, R252: COPY_COMPLETE: a powered copy asks for the translations it lacks; with all of them it moves its bytes. -/
def execCopyComplete (gv : Gid) (op : Nat) (s : State) : Out :=
  let ev := Instr.copyComplete gv op
  let gid := gv.toNat
  if ev ∉ s.due then .next s else
  match s.group? gid, s.eng? gid op with
  | some g, some o =>
    match o.kind with
    | .copy d =>
      if o.failed.isSome then .next (s.dropDue ev)
      else if !s.powered (gidDie gid) o.ticket || !s.engReady g op then .next s
      else
        let lacks := s.copyLacks gid g o d
        if !lacks.isEmpty then .next (lacks.foldl (fun s v => s.askWalk (gidCluster gid) g.asn v (.copy gv op)) s)
        else
          match s.repower gid g o d with
          | some s => .next s
          | none =>
            let t := s.finishCopy gid g o d
            .next (if (t.eng? gid op).isNone then t.dropDue ev else t)
    | .fupd _ _ _ _ _ _ => .next (s.dropDue ev)
  | _, _ => .next (s.dropDue ev)

/-- R253: one element of an update. -/
def fupdElem (op typ rm : Nat) (m v : Word) : Word :=
  if op = 6 then v
  else if typ = 0 then
    match op with
    | 0 => m + v
    | 1 => minBv true m v
    | 2 => maxBv true m v
    | 3 => m &&& v
    | 4 => m ||| v
    | _ => m ^^^ v
  else
    match op with
    | 0 => BitVec.ofNat 32 (roundArith fp32 rm (fadd rm (ofFp32 m) (ofFp32 v)) false).1
    | 1 => (minmaxLane false ⟨m, false⟩ ⟨v, false⟩).1.data
    | _ => (minmaxLane true ⟨m, false⟩ ⟨v, false⟩).1.data

/-- R80, R253: the update of a line at its bank. -/
def State.updateLine (s : State) (cl pa tr off count : Nat) (f : Word → Word → Word) : State :=
  let s := if tr = 0 then s.homeSync (pa / 128) true [] else s
  let bs := (List.range (count / 4)).flatMap fun i =>
    let m := BitVec.ofNat 32 (s.readNat (pa + 4 * i) 4)
    let v := BitVec.ofNat 32 (leNat ((s.cluster cl).sbytes (off + 4 * i) 4))
    leBytes 4 (f m v).toNat
  s.writeHome (bs.zipIdx.map fun b => (pa + b.2, b.1))

/-- R253: FUPD_PERFORMED. -/
def execFupdPerformed (gv : Gid) (op : Nat) (s : State) : Out :=
  let ev := Instr.fupdPerformed gv op
  let gid := gv.toNat
  if ev ∉ s.due then .next s else
  match s.group? gid, s.eng? gid op with
  | some g, some o =>
    match o.kind with
    | .fupd code typ dst src count rm =>
      let cl := gidCluster gid
      let want := o.wantOf false
      if o.failed.isSome then .next (s.dropDue ev)
      else if !s.engReady g op then .next s
      else
        match s.lookup cl g.asn dst want with
        | none => .next (s.askWalk cl g.asn (pageOf dst) (.copy gv op))
        | some t =>
          let pa := t.pa dst
          let off := (s.grantOf gid g).1 + src
          if (t.tr = 0 ∧ s.lineBusy (pa / 128)) ∨ s.heldBack (gidDie gid) (paDie pa) then .next s
          else if !s.linked (gidDie gid) (paDie pa) then .next ((s.failEng gid o 4 dst).dropDue ev)
          else
            let s' := s.markEng gid g [pageOf dst] want
            let s'' := if t.tr = 0 then s'.homeSync (pa / 128) true [] else s'
            let bad := s''.marks (pa / 128) ≠ 0 ∨ ((List.range count).any fun i => (s.cluster cl).spoiled (off + i)) = true
            if bad then .next ((s''.failEng gid o 3 (dst / 128 * 128)).dropDue ev)
            else .next ((((s''.updateLine cl pa t.tr off count (fupdElem code typ rm)).l2Use (pa / 128) t.l2c).endEng gid o).dropDue ev)
    | .copy _ => .next (s.dropDue ev)
  | _, _ => .next (s.dropDue ev)

/-- R398: the destination bytes of a failed copy: each keeps its value or takes the one the copy writes (DESIGN CHOICE, log 9); what
is not reached is neither read nor written (R338). -/
def State.failedBytes (s : State) (gid : Nat) (g : Group) (o : EngOp) (d : CopyDesc) : State :=
  let near := fun (e : CopyEnd) => match e with | .mem pa _ => s.linked (gidDie gid) (paDie pa) | _ => true
  let es := d.bytes.zipIdx.filterMap fun b =>
    match s.copyEnd gid g o d true b.1.1, s.copyEnd gid g o d false b.1.2 with
    | some x, some y =>
      if Config.takeNew s.fresh b.2 && near x && near y && !s.endPoisoned (gidCluster gid) x then some (x, y) else none
    | _, _ => none
  ({ s with fresh := s.fresh + 1 }).moveBytes (gidCluster gid) es

/-- R398: an access of an operation is still in flight: it walks, waits for room or is parked. -/
def State.inFlight (s : State) (d : Nat) (who : MemRef) : Bool :=
  ((s.die d).quag.any fun e => e.2.members.any fun m => decide (m.1 = who)) || ((s.die d).walkQ.any fun w => decide (w.who = who))
    || s.due.any fun e => match e with | .pageWalk _ _ _ w => decide (w = who) | _ => false

/-- R398, R400: ENGINE_OPERATION_FAILED: once no access of the operation is in flight, its record, the halt of its group, then the
operation leaves ec. -/
def execEngineOperationFailed (gv : Gid) (op : Nat) (cause : Byte) (addr : Dword) (s : State) : Out :=
  let ev := Instr.engineOperationFailed gv op cause addr
  let gid := gv.toNat
  if ev ∉ s.due || s.inFlight (gidDie gid) (.copy gv op) then .next s else
  let s := s.dropDue ev
  match s.group? gid, s.eng? gid op with
  | some g, some o =>
    match o.failed with
    | none => .next s
    | some (cause, va, timed) =>
      let s := if timed then s.haltGroup gid 0x0304 o.pc.toNat
        else (s.record (gidDie gid) (o.errRec gid g cause va)).haltGroup gid (0x1100 + cause) o.pc.toNat
      let s := match o.kind with
        | .copy d => s.failedBytes gid g o d
        | .fupd _ _ _ _ _ _ => s
      .next (((s.endEng gid o).dropDue (.copyComplete gv op)).dropDue (.fupdPerformed gv op))
  | _, _ => .next s

/-! ### Prefetch and data-cache maintenance (R256, R257) -/

/-- R256: sb[31:0]. -/
def Ctx.count (c : Ctx) (b : BitVec 6) : Nat := ((c.s b).extractLsb' 0 32).toNat

/-- R256: a prefetch of a line into an L1: an open choice (DESIGN CHOICE, log 12), and not for a U page or a home that is not
reached. -/
def State.prefetchLine (s : State) (k : Nat) (line : Nat) (t : CtbEntry) : State :=
  let s' := { s with fresh := s.fresh + 1 }
  if t.tr = 2 ∨ (s.cache k).lines.has line ∨ s.linked (k / 80) (lineDie line) = false then s
  else if Config.prefetches s.fresh then ((if t.tr = 0 then s'.requestFill k line none else s'.fillV k line).l2Use line t.l2c)
  else s'

/-- R79, R256, R259: a prefetch of a line into L2: likewise, and only through a leaf with L2C = 1. -/
def State.prefetchL2 (s : State) (line : Nat) (t : CtbEntry) : State :=
  { s with fresh := s.fresh + 1 }.l2Use line (Config.prefetches s.fresh && t.l2c)

/-- R256: PREF. -/
def execPref (_d a b : BitVec 6) (l : BitVec 1) (s : State) : Out :=
  issue (plainReq true) (fun c s =>
    let k := cacheOfCore (gidCore c.gid)
    let ls := s.maintLines (gidCluster c.gid) c.g.asn (c.s a).toNat (c.count b)
    (ls.foldl (fun s x => if l = 1 then s.prefetchL2 x.1 x.2 else s.prefetchLine k x.1 x.2) s).commit c 4 c.g) s

/-- R257: CINV and CFLUSH enter the store queue. -/
def maintain (flush : Bool) (a b : BitVec 6) (sc : BitVec 3) (s : State) : Out :=
  issue ⟨scopeOk sc.toNat, [], 0, some 1, 4⟩ (fun c s =>
    s.startStore c (.maint flush sc.toNat (c.s a).toNat (c.count b)) [] none 0) s

/-- R257: CINV. -/
def execCinv (_d a b : BitVec 6) (sc : BitVec 3) (s : State) : Out := maintain false a b sc s
/-- R257: CFLUSH. -/
def execCflush (_d a b : BitVec 6) (sc : BitVec 3) (s : State) : Out := maintain true a b sc s

/-! ### Instruction-cache maintenance (R98, R258, R259) -/

/-- The instruction counts, and its fragment waits in op-wait for an event. -/
def State.holdAt (s : State) (c : Ctx) (h : Hold) (ev : Gid → BitVec 5 → Instr) : State :=
  let g := c.g.countWindows c.fid
  let g := g.modFrag c.fid fun f => { f with state := .opWait, hold := h }
  ((s.putGroup c.gid { g with instrs := g.instrs + 1 }).endTurn c.gid).addDue (ev (BitVec.ofNat 18 c.gid) (BitVec.ofNat 5 c.fid))

/-- R258: the cores, and the service cores, whose instruction caches a scope selects for a group. -/
def scopeCores (gid scope : Nat) : List Nat × List Nat :=
  let cl := gidCluster gid
  match scope with
  | 1 => ([gidCore gid], [])
  | 2 => ((List.range 4).map fun i => 4 * cl + i, [cl])
  | 3 => ((List.range 64).map fun i => 64 * gidDie gid + i, (List.range 16).map fun i => 16 * gidDie gid + i)
  | _ => (List.range 4096, List.range 1024)

/-- R258: ICINV. -/
def execIcinv (a b : BitVec 6) (sc : BitVec 3) (s : State) : Out :=
  issue (plainReq (scopeOk sc.toNat)) (fun c s =>
    if !s.drained c.g c.upto then s.opWait c (.drain c.upto)
    else s.holdAt c (.icinv (c.s a).toNat (c.count b) sc.toNat) .icinvDone) s

/-- R258: the lines go from every selected cache; pins stay. A count of 0 selects every line. Lines of a page whose
translation or ownership check fails are skipped (DESIGN CHOICE, log 50). -/
def State.dropCode (s : State) (gid : Nat) (g : Group) (lo n scope : Nat) : State :=
  let sel := scopeCores gid scope
  let lines : List Nat := (s.maintLines (gidCluster gid) g.asn lo n).map (·.1)
  let keep := fun (m : SMap (List Byte)) => if n = 0 then [] else m.filter fun e => decide (e.1 ∉ lines)
  let s := (sel.1.filter fun k => s.cores.has k).foldl (fun s k => s.modCore k fun x => { x with icache := keep x.icache }) s
  (sel.2.filter fun k => s.clusters.has k).foldl (fun s k => s.modSvc k fun x => { x with icache := keep x.icache }) s

/-- R258: ICINV_DONE: every selected cache has acted, and the fragment goes on. -/
def execIcinvDone (gv : Gid) (fv : BitVec 5) (s : State) : Out :=
  let ev := Instr.icinvDone gv fv
  if ev ∉ s.due then .next s else
  let s := s.dropDue ev
  match s.frag? gv fv with
  | some (g, f) =>
    match f.hold with
    | .icinv lo n scope => .next (((s.dropCode gv.toNat g lo n scope).advanceFrag gv.toNat fv.toNat 4).settle gv.toNat)
    | _ => .next s
  | none => .next s

/-- R259: IPREF. -/
def execIpref (a b : BitVec 6) (l : BitVec 1) (s : State) : Out :=
  issue (plainReq true) (fun c s =>
    let core := gidCore c.gid
    let ls := s.maintLines (gidCluster c.gid) c.g.asn (c.s a).toNat (c.count b)
    let one := fun (s : State) (line : Nat) (t : CtbEntry) =>
      let s' := { s with fresh := s.fresh + 1 }
      if Config.prefetches s.fresh && s.marks line == 0 && s.linked (gidDie c.gid) (lineDie line) then s'.icFill core line t.l2c else s'
    (ls.foldl (fun s x => if l = 1 then s.prefetchL2 x.1 x.2 else one s x.1 x.2) s).commit c 4 c.g) s

/-- R259: IPIN. -/
def execIpin (d a b : BitVec 6) (s : State) : Out :=
  issue (plainReq true) (fun c s => s.holdAt c (.ipin d.toNat (c.s a).toNat (c.count b)) .instructionFetchFill) s

/-- R98: the pins after an IPIN of lines in ascending order: it stops at 128 pinned lines, or at 7 in a set. -/
def pinLines (pins : List Nat) : List Nat → List Nat
  | [] => pins
  | l :: ls =>
    if l ∈ pins then pinLines pins ls
    else if 128 ≤ pins.length ∨ 7 ≤ (pins.filter fun p => p % 64 == l % 64).length then pins
    else pinLines (pins ++ [l]) ls

/-- R259: INSTRUCTION_FETCH_FILL: the range of an IPIN has been fetched: its lines are pinned and counted. -/
def execInstructionFetchFill (gv : Gid) (fv : BitVec 5) (s : State) : Out :=
  let ev := Instr.instructionFetchFill gv fv
  let gid := gv.toNat
  if ev ∉ s.due then .next s else
  match s.frag? gv fv with
  | some (g, f) =>
    match f.hold with
    | .ipin sd lo n =>
      let who := MemRef.ipin gv fv
      let vas := if n = 0 then [] else (List.range ((lo + n - 1) / 128 + 1 - lo / 128)).map fun i => 128 * (lo / 128 + i) % 2 ^ 64
      let leaf := fun (a : Nat) => (s.lookup (gidCluster gid) g.asn a Want.fetch).map fun t => (lineOf (t.pa a), t.l2c)
      let given := fun (a : Nat) => (s.supplied who a).isSome
      let lacks := ((vas.filter fun a => (leaf a).isNone && !given a).map pageOf).dedup
      if !lacks.isEmpty then .next (lacks.foldl (fun s v => s.askWalk (gidCluster gid) g.asn v who) s)
      else
        let leaves := (vas.filter fun a => !given a).filterMap leaf
        let lines := leaves.map (·.1)
        let core := gidCore gid
        let out := fun (s : State) (cause addr : Nat) => ((s.takeException gid ⟨1, cause, f.pc.toNat, addr, 0⟩).modGroup gid fun g =>
          g.modFrag fv.toNat fun f => { f with state := .ready, hold := .none }).dropDue ev
        match vas.find? fun a => !given a && (leaf a).any fun l => !(s.core core).icache.has l.1 && !s.linked (gidDie gid) (lineDie l.1) with
        | some a => .next (out (s.notSent (gidDie gid) (((leaf a).map fun l => lineDie l.1).getD 0)) 0x0E a)
        | none =>
        match lines.find? fun l => !(s.core core).icache.has l && s.marks l != 0 with
        | some l =>
          let pa := lowest (([0, 1, 2, 3].filter fun i => (s.marks l).getLsbD i).map fun i => 128 * l + 32 * i)
          .next (out s 0x0F pa)
        | none =>
          let s := s.modCore core fun x => { x with pins := pinLines x.pins lines }
          let s := leaves.foldl (fun s l => s.icFill core l.1 l.2) s
          let count := (lines.filter fun l => decide (l ∈ (s.core core).pins)).length
          let s := (s.dropDue ev).dropAnswers who
          .next (((s.modGroup gid fun g => g.setS sd (BitVec.ofNat 64 count)).advanceFrag gid fv.toNat 4).settle gid)
    | _ => .next (s.dropDue ev)
  | none => .next (s.dropDue ev)

/-- R259: IUNPIN; a count of 0 removes every pin on the core. Of a page that does not translate, or fails the ownership check, the pins
stay (DESIGN CHOICE, log 50). -/
def execIunpin (a b : BitVec 6) (s : State) : Out :=
  issue (plainReq true) (fun c s =>
    let lines : List Nat := (s.maintLines (gidCluster c.gid) c.g.asn (c.s a).toNat (c.count b)).map (·.1)
    (s.modCore (gidCore c.gid) fun x =>
      { x with pins := if c.count b = 0 then [] else x.pins.filter fun l => decide (l ∉ lines) }).commit c 4 c.g) s

end Sys2Proof.Machine
end

