-- ==== Sys2Proof/Machine/Matrix.lean ====
section
/-!
DEFINITION. The matrix engine: descriptors, the reservation table and its arbitration, K-steps, tiles and their
readout, and its faults (11 R261 to R288, 14 R342, 19 R393 to R396).
-/

namespace Sys2Proof.Machine

/-! ### Modes, tiles and halves (R262, R269, R342, R395) -/

/-- R342: whether a cluster's engine is in split mode. -/
def State.split (s : State) (c : Nat) : Bool := (s.die (c / 16)).mmodeCur.getLsbD (c % 16)

/-- R262: the half a tile's operations queue in; a whole engine has one queue. -/
def State.halfOf (s : State) (c tile : Nat) : Bool := s.split c && decide (4 ≤ tile)

/-- R395: whether a half has been disabled. -/
def State.disabledHalf (s : State) (c tile : Nat) : Bool := (s.die (c / 16)).mhealth.getLsbD (2 * (c % 16) + (if 4 ≤ tile then 1 else 0))

/-- R367, R393: the unit of a half; in whole mode kind 2. -/
def State.arrayUnit (s : State) (c tile : Nat) : Nat := unitOf (if s.halfOf c tile then 3 else 2) c

/-- R269: the tile mask of a group's gang. -/
def State.tmask (s : State) (g : Group) : Byte := ((s.gang? g.grid.toNat g.gang.toNat).map (·.tmask)).getD 0

/-- R299: the places of the reservations made so far: those on the placing die, and those that a peer has reserved. -/
def State.heldPlaces (s : State) : List (Nat × Nat × Byte × Nat × Place) :=
  s.dies.flatMap fun e => e.2.dist.pending.flatMap fun p =>
    (p.places.filter fun q => q.cluster / 16 == e.1 || decide (q.cluster / 16 ∈ p.reserved)).map fun q =>
      (p.grid, p.gang, p.tmask, ((s.grid? p.grid).map fun g => g.desc.scratch).getD 0, q)

/-- R269, R342: the tiles that gangs placed in a cluster hold, and those that reservations hold. -/
def State.tilesHeld (s : State) (c : Nat) : Byte :=
  s.heldPlaces.foldl (fun h p => if p.2.2.2.2.cluster = c then h ||| p.2.2.1 else h) <|
  (s.grids.flatMap fun e => e.2.gangs.map (·.2)).foldl (fun m x => if x.places.any fun p => p.1 == c then m ||| x.tmask else m) 0

/-- R393: a precise fault of class 0x10: its record names the half, and the group halts. -/
def State.matrixTrap (s : State) (c : Ctx) (cause tile detail : Nat) : State :=
  let cl := gidCluster c.gid
  s.recordHalt (gidDie c.gid) (mkRec 1 0x10 cause 6 c.g.tenant.toNat c.gid (s.arrayUnit cl tile) c.pc 0 (detail % 16 + 16 * (tile % 8)))
    c.gid (0x1000 + cause) c.pc

/-- R269, R395: the checks of an instruction that names tile t: its mask, then whether its half works. -/
def Ctx.onTile (c : Ctx) (s : State) (t : Nat) (health : Bool) (k : State) : State :=
  if !(s.tmask c.g).getLsbD t then s.matrixTrap c 1 t 15
  else if health && s.disabledHalf (gidCluster c.gid) t then s.matrixTrap c 6 t 0
  else k

/-! ### The loop descriptor (R264, R270, R272, R273) -/

/-- R272: a loop descriptor. -/
structure LoopDesc where
  a : Int
  b : Int
  ainc : Int
  binc : Int
  astr : Int
  bstr : Int
  m : Nat
  n : Nat
  k : Nat
  steps : Nat
  fa : Nat
  fb : Nat
  w : Nat
  tile : Nat
  prio : Nat
  asc : Bool
  bsc : Bool
  as : Int
  bs : Int
  asinc : Int
  bsinc : Int
deriving Repr

/-- R272: the fields of seven doublewords with dfl resolved. -/
def loopDesc (r : List Dword) : LoopDesc :=
  let f := fun (i lo n : Nat) => ((r.getD i 0).extractLsb' lo n).toNat
  let i := fun (k lo : Nat) => ((r.getD k 0).extractLsb' lo 32).toInt
  { a := i 0 0, b := i 0 32, ainc := i 1 0, binc := i 1 32, astr := i 2 0, bstr := i 2 32, m := f 3 0 8, n := f 3 8 9, k := f 3 17 9,
    steps := f 3 32 16, fa := f 4 0 4, fb := f 4 4 4, w := f 4 8 5, tile := f 4 16 3, prio := f 4 19 2, asc := f 4 21 1 == 1,
    bsc := f 4 22 1 == 1, as := i 5 0, bs := i 5 32, asinc := i 6 0, bsinc := i 6 32 }

/-- R272: dfl is resolved with the fragment's fmt. DEDUCED: log 43. -/
def resolveDfl (r : List Dword) (fmt : Word) : List Dword :=
  let x := r.getD 4 0
  if x.getLsbD 23 then
    r.set 4 ((x &&& ~~~(0x8000FF : Dword)) ||| (fmt.extractLsb' 4 4).zeroExtend 64 ||| ((fmt.extractLsb' 8 4).zeroExtend 64 <<< 4))
  else r

/-- R264: the matrix formats, those that take scales, and those with windows. -/
def matFormat (c : Nat) : Bool := c == 1 || (3 ≤ c && c ≤ 11)
def matScaled (c : Nat) : Bool := 3 ≤ c && c ≤ 7
def matWindow (c : Nat) : Bool := c == 1 || c == 4

/-- R264: bits of an element, and log2 of a fixed format's factor. -/
def matWidth (c : Nat) : Nat :=
  match c with
  | 11 | 10 => 2
  | 9 | 7 => 4
  | 5 | 6 => 6
  | 1 => 16
  | _ => 8
def matFactor (c : Nat) : Nat :=
  match c with
  | 7 => 1
  | 5 => 3
  | 6 => 4
  | 3 => 9
  | _ => 0

/-- R270: the tiles of a loop. -/
def LoopDesc.tiles (d : LoopDesc) : List Nat := if 128 < d.n ∧ d.tile < 4 then [d.tile, d.tile + 4] else [d.tile]
def tileSet (ts : List Nat) : Byte := ts.foldl (fun m t => m ||| BitVec.twoPow 8 t) 0

/-- R273, R393: the descriptor register that the first failing condition names, 15 for a tile outside the mask. DEDUCED: log 43. -/
def loopFault (raw : List Dword) (d : LoopDesc) (mask : Byte) (split : Bool) : Option Nat :=
  let f := fun (i lo n : Nat) => (raw.getD i 0).extractLsb' lo n
  if f 3 48 16 ≠ 0 ∨ f 3 26 6 ≠ 0 then some 3
  else if f 4 48 16 ≠ 0 ∨ f 4 24 8 ≠ 0 ∨ f 4 13 3 ≠ 0 ∨ (f 4 23 1 = 1 ∧ f 4 0 8 ≠ 0) then some 4
  else if d.steps = 0 ∨ d.k = 0 ∨ 256 < d.k ∨ d.n = 0 ∨ 256 < d.n ∨ d.m = 0 ∨ 128 < d.m then some 3
  else if !matFormat d.fa || !matFormat d.fb then some 4
  else if (d.asc && !matScaled d.fa) || (d.bsc && !matScaled d.fb) then some 4
  else if (d.w == 0) == (matWindow d.fa || matWindow d.fb) then some 4
  else if 28 < d.w then some 4
  else if d.tiles.any fun t => !mask.getLsbD t then some 15
  else if 128 < d.n && (split || decide (4 ≤ d.tile)) then some 3
  else none

/-- Bytes of a row of K elements. -/
def rowBytes (code k : Nat) : Nat := (k * matWidth code + 7) / 8

/-- R272: what a loop reads: base, increment, stride, rows and bytes of each row. -/
def LoopDesc.streams (d : LoopDesc) : List (Int × Int × Int × Nat × Nat) :=
  [(d.a, d.ainc, d.astr, d.m, rowBytes d.fa d.k), (d.b, d.binc, d.bstr, d.n, rowBytes d.fb d.k)]
    ++ (if d.asc then [(d.as, d.asinc, 8, d.m, (d.k + 31) / 32)] else [])
    ++ (if d.bsc then [(d.bs, d.bsinc, 8, d.n, (d.k + 31) / 32)] else [])

/-- R272: the offsets of the rows that a stream reads in step st. -/
def streamRows (x : Int × Int × Int × Nat × Nat) (st : Nat) : List Int :=
  (List.range x.2.2.2.1).map fun (m : Nat) => x.1 + (st : Int) * x.2.1 + (m : Int) * x.2.2.1

/-- Whether all rows of a stream in `steps` steps lie within n bytes: offsets are linear in step and row. -/
def streamFits (x : Int × Int × Int × Nat × Nat) (steps n : Nat) : Bool :=
  let (base, inc, stride, rows, len) := x
  let e1 : Int := (steps - 1 : Nat) * inc
  let e2 : Int := (rows - 1 : Nat) * stride
  decide (0 ≤ base + min 0 e1 + min 0 e2) && decide (base + max 0 e1 + max 0 e2 + len ≤ n)

/-- R72, R273: the lowest offset beyond a grant of n bytes that a loop reads in its steps, a negative one taken mod 2^64. DEDUCED: log 43. -/
def LoopDesc.beyond (d : LoopDesc) (steps n : Nat) : Option Nat :=
  let bad := d.streams.filter fun x => !streamFits x steps n
  let all := bad.flatMap fun x => (List.range steps).flatMap fun st => (streamRows x st).filterMap fun (o : Int) =>
    let e : Int := o + x.2.2.2.2
    if o < 0 then (if n < e then some n else some (o % 2 ^ 64).toNat)
    else if n < e then some (max o.toNat n) else none
  match all with
  | [] => none
  | x :: xs => some (xs.foldl min x)

/-! ### The reservation table (R271, R279) -/

/-- R271: an entry is free for an operation on tile t. -/
def State.tableRoom (s : State) (c tile : Nat) : Bool :=
  let x := s.cluster c
  if s.split c then decide ((x.table.filter fun r => decide (4 ≤ r.tile) == decide (4 ≤ tile)).length < 16)
  else decide (x.table.length < 32)

/-- The arbiter of a half has something to do. -/
def State.kickArray (s : State) (c tile : Nat) : State := s.addDue (.kstepGrant (BitVec.ofNat 10 c) (s.halfOf c tile))

/-- R279, R283: an operation takes its entry at the end of table order; an MLOOP joins the open batch. -/
def State.takeEntry (s : State) (c : Ctx) (kind : ResKind) (tile : Nat) (tiles : Byte) (args : List Dword) : State :=
  let cl := gidCluster c.gid
  let id := c.g.nextOp
  let r : ResOp := { gid := c.gid, id := id, pc := c.f.pc, kind := kind, tile := tile, tiles := tiles, args := args, done := 0, st := .queued,
                     ticket := none, batch := if kind = .mloop then c.g.ob.toNat else 0, passed := 0, after := none, abandon := false,
                     snap := none, stg := none }
  let g := { (if kind = .mloop then c.g.joinBatch else c.g) with nextOp := id + 1 }
  ((s.modCluster cl fun x => { x with table := x.table ++ [r] }).commit c 4 g).kickArray cl tile

/-- R279, R280, R281: MZERO and MCFG. -/
def tileOp (kind : ResKind) (t : BitVec 3) (args : Ctx → List Dword) (s : State) : Out :=
  issue ⟨true, [], 0, some 2, 4⟩ (fun c s =>
    c.onTile s t.toNat true
      (if s.tableRoom (gidCluster c.gid) t.toNat then s.takeEntry c kind t.toNat (tileSet [t.toNat]) (args c) else s.opWait c .unit)) s

/-- R281: MCFG. -/
def execMcfg (a b : BitVec 6) (t : BitVec 3) (s : State) : Out := tileOp .mcfg t (fun c => [c.s a, c.s b]) s
/-- R280: MZERO. -/
def execMzero (a : BitVec 6) (t : BitVec 3) (s : State) : Out := tileOp .mzero t (fun c => [c.s a]) s

/-- R273, R279: MLDW and MLOOP: the descriptor check, the health of the half, the bounds, then room in the table. For sa above 57, where
no descriptor can be read, the record names tile 0 and its half (DESIGN CHOICE, log 43). -/
def loopOp (kind : ResKind) (a : BitVec 6) (s : State) : Out :=
  issue ⟨true, [], 0, some 2, 4⟩ (fun c s =>
    if 57 < a.toNat then s.matrixTrap c 1 0 15 else
    let cl := gidCluster c.gid
    let raw := (List.range 7).map fun i => c.g.sreg (a.toNat + i)
    let args := resolveDfl raw c.f.fmt
    let d := loopDesc args
    match loopFault raw d (s.tmask c.g) (s.split cl) with
    | some r => s.matrixTrap c 1 d.tile r
    | none =>
      if s.disabledHalf cl d.tile then s.matrixTrap c 6 d.tile 0
      else
        let n := (s.grantOf c.gid c.g).2
        match d.beyond (if kind = .mldw then 1 else d.steps) n with
        | some x => s.trap c 0x0B x n
        | none => if s.tableRoom cl d.tile then s.takeEntry c kind d.tile (tileSet d.tiles) args else s.opWait c .unit) s

/-- R282: MLDW. -/
def execMldw (a : BitVec 6) (s : State) : Out := loopOp .mldw a s
/-- R283: MLOOP. -/
def execMloop (a : BitVec 6) (s : State) : Out := loopOp .mloop a s

/-! ### Readout and status (R284 to R286) -/

/-- R284, R285: MRD and MRDS. -/
def tileRead (raw : Bool) (gd : BitVec 3) (la : BitVec 4) (v : BitVec 7) (n : BitVec 6) (sub : Nat) (s : State) : Out :=
  let regs := if raw then [0, 1, 2, 3] else [0]
  issue ⟨raw || decide (sub ≤ 1), regs.map (vrUp v), gd.toNat, some 0, 4⟩ (fun c s =>
    let pos := c.s n
    let t := pos.toNat % 8
    if pos &&& ~~~(0x7F7F07 : Dword) ≠ 0 ∨ (s.tmask c.g).getLsbD t = false then s.matrixTrap c 1 t 15
    else s.startLoad c (.tile raw sub t (pos.toNat / 256 % 128) (pos.toNat / 65536 % 128)) v.toNat 0
      ((c.lanes gd.toNat).map fun l => laneAcc l []) none none la.toNat (regs.map fun k => v.toNat + k)) s

/-- R284: MRD. -/
def execMrd (gd : BitVec 3) (la : BitVec 4) (v : BitVec 7) (n : BitVec 6) (u : BitVec 4) (s : State) : Out :=
  tileRead false gd la v n u.toNat s
/-- R285: MRDS. -/
def execMrds (gd : BitVec 3) (la : BitVec 4) (v : BitVec 7) (n : BitVec 6) (s : State) : Out := tileRead true gd la v n 0 s

/-- R286: the status of a tile's current loop. -/
def Cluster.tileStatus (x : Cluster) (t : Nat) : Dword :=
  let tl := x.tiles.get Tile.reset t
  let hdr := (if tl.ovf then 2 ^ 36 else 0) + (if tl.ferr then 2 ^ 35 else 0)
  match x.table.find? fun r => r.kind == .mloop && r.tiles.getLsbD t with
  | none => BitVec.ofNat 64 hdr
  | some r =>
    let st := match r.st with
      | .running => 2
      | .held => 3
      | _ => 1
    BitVec.ofNat 64 (hdr + st * 2 ^ 32 + (loopDesc r.args).steps * 65536 + r.done)

/-- R286: MSTAT. -/
def execMstat (d : BitVec 6) (t : BitVec 3) (s : State) : Out :=
  issue (plainReq true) (fun c s =>
    c.onTile s t.toNat false (s.commit c 4 (c.g.setS d.toNat ((s.cluster (gidCluster c.gid)).tileStatus t.toNat)))) s

/-! ### MRESUME and MREL (R287, R288) -/

/-- R99, R287: every held loop on a tile is queued again; its next K-step follows what the resuming group has issued. -/
def State.resumeTile (s : State) (c t : Nat) (after : Option (Nat × Nat)) : State :=
  let hit := fun (r : ResOp) => r.kind == .mloop && r.tiles.getLsbD t && r.st == .held
  if !(s.cluster c).table.any hit then s else
  (s.modCluster c fun x => { x with table := x.table.map fun r => if hit r then { r with st := .queued, passed := 0, ticket := none, after := after } else r }).kickArray
    c t

/-- R287: MRESUME. -/
def execMresume (t : BitVec 3) (s : State) : Out :=
  issue (plainReq true) (fun c s => c.onTile s t.toNat true ((s.resumeTile (gidCluster c.gid) t.toNat (some (c.gid, c.g.nextOp))).commit c 4 c.g)) s

/-- Groups of a cluster, after an entry of its table has been freed: those that wait for room issue again (R279). -/
def State.settleCluster (s : State) (c : Nat) : State :=
  ((s.groups.map (·.1)).filter fun g => gidCluster g == c).foldl (fun s g => s.settle g) s

/-- R282: an MLOOP that does not use the staging of its half discards it. -/
def State.dropStaging (s : State) (c tile : Nat) : State :=
  let other := fun (e : Staged) => s.halfOf c (loopDesc e.desc).tile != s.halfOf c tile
  s.modCluster c fun x => { x with staged := x.staged.filter other }

/-- R282, R283, R288: an operation is complete or abandoned: its entry, its grant, its batch membership; a loop abandoned before its
first K-step discards the staging. -/
def State.freeEntry (s : State) (c : Nat) (r : ResOp) : State :=
  let s := (s.modCluster c fun x => { x with table := x.table.filter fun e => !(e.gid == r.gid && e.id == r.id) }).endPower (c / 16) r.ticket
  let s := if r.kind = .mloop then s.modGroup r.gid fun g => g.leaveBatch r.batch else s
  let s := if r.kind = .mloop ∧ r.done = 0 ∧ r.snap = none then s.dropStaging c r.tile else s
  s.settleCluster c

/-- R288: MREL: held loops on the tile are abandoned, with `all` the queued ones too, and a running one at the end of its K-step. -/
def State.releaseTile (s : State) (c t : Nat) (all : Bool) : State :=
  let mine := fun (r : ResOp) => r.kind == .mloop && r.tiles.getLsbD t
  let go := (s.cluster c).table.filter fun r => mine r && (r.st == .held || (all && r.st == .queued))
  let s := go.foldl (fun s r => s.freeEntry c r) s
  if all then s.modCluster c fun x => { x with table := x.table.map fun r => if mine r && r.st == .running then { r with abandon := true } else r }
  else s

/-- R288: MREL. -/
def execMrel (a : BitVec 1) (t : BitVec 3) (s : State) : Out :=
  issue (plainReq true) (fun c s =>
    c.onTile s t.toNat false
      ((s.commit c 4 c.g).releaseTile (gidCluster c.gid) t.toNat (a == 1))) s

/-! ### Operands of a K-step (R264 to R266) -/

/-- R264: a block of an operand row: its exponent, its integers, and whether an element has discarded bits or is invalid. -/
structure MBlock where
  exp : Int
  ints : List Int
  disc : Bool
  inv : Bool
deriving DecidableEq, Repr

/-- R132: element k of a row of `w`-bit elements, from the bytes of the row. -/
def rowElem (w : Nat) (row : Nat → Byte) (k : Nat) : Nat :=
  let lo := w * k / 8
  leNat ((List.range ((w * k + w - 1) / 8 + 1 - lo)).map fun i => row (lo + i)) / 2 ^ (w * k % 8) % 2 ^ w

/-- The signed integer of a sign and a magnitude. -/
def signed (neg : Bool) (m : Nat) : Int := if neg then -(m : Int) else m

/-- R264, R266: a block of an operand from its element codes and its scale code. -/
def mkBlock (code w : Nat) (scale : Option Nat) (els : List Nat) : MBlock :=
  let sc : Int := match scale with | some c => (c : Int) - 127 | none => 0
  let xs := els.map (valueOf code)
  let finite := xs.filterMap fun x => match x with | .fin n m e => some (n, m, e) | _ => none
  let emax : Option Int := (finite.filter fun x => x.2.1 != 0).foldl (fun o x =>
    let t : Int := x.2.1.log2 + x.2.2
    match o with | none => some t | some y => some (max t y)) none
  let grid : Int := if matWindow code then (emax.getD 0) - w + 1 else -(matFactor code)
  let bad := scale == some 255
  let one := fun (x : FVal) =>
    match x with
    | .fin n m e =>
        let (k, r) := floorGrid m e grid
        (if bad then 0 else signed n k, r != 0, bad)
    | _ => (0, false, true)
  let rs := xs.map one
  { exp := grid + sc, ints := rs.map (·.1), disc := rs.any (·.2.1), inv := rs.any (·.2.2) }

/-- A row of an operand: its blocks, and whether a ternary code 0b10 stands in it (R131, R266). -/
structure MRow where
  blocks : List MBlock
  ferr : Bool
deriving DecidableEq, Repr

/-- R264: a row of K elements, with the scale of each block. -/
def mkRow (code w k : Nat) (el : Nat → Nat) (scale : Nat → Option Nat) : MRow :=
  { blocks := (List.range ((k + 31) / 32)).map fun b =>
      mkBlock code w (scale b) ((List.range (min 32 (k - 32 * b))).map fun i => el (32 * b + i))
    ferr := code == 11 && (List.range k).any fun i => el i == 2 }

def MRow.disc (r : MRow) : Bool := r.blocks.any (·.disc)
def MRow.inv (r : MRow) : Bool := r.blocks.any (·.inv)

/-- The product sum of two lists of integers. -/
def dot : List Int → List Int → Int
  | a :: as, b :: bs => a * b + dot as bs
  | _, _ => 0

/-- R267: the exact sum of a row and a column, as an integer times a power of two. -/
def rowSum (x y : MRow) : Int × Int :=
  let ts := (x.blocks.zip y.blocks).map fun p => (dot p.1.ints p.2.ints, p.1.exp + p.2.exp)
  match ts with
  | [] => (0, 0)
  | t :: rest =>
    let lo := rest.foldl (fun m u => min m u.2) t.2
    ((ts.map fun u => u.1 * 2 ^ (u.2 - lo).toNat).sum, lo)

/-- R267, R281: an accumulator clipped to 96 bits, and whether it was. -/
def clip96 (t : Int) : BitVec 96 × Bool :=
  if t > 2 ^ 95 - 1 then (BitVec.ofInt 96 (2 ^ 95 - 1), true)
  else if t < -(2 ^ 95) then (BitVec.ofInt 96 (-(2 ^ 95)), true)
  else (BitVec.ofInt 96 t, false)

/-- R267: one entry of a K-step, and whether it saturated: a sum beyond the range clips and sets OVF, and an invalid element sets V. -/
def stepEntry (ae : BitVec 16) (e : TEntry) (x y : MRow) : TEntry × Bool :=
  let (c, ex) := rowSum x y
  let (k, r) := floorGrid c.natAbs ex ae.toInt
  let (acc, ovf) := clip96 (e.acc.toInt + signed (decide (c < 0)) k)
  ({ acc := acc, s := e.s || r != 0 || x.disc || y.disc, v := e.v || x.inv || y.inv }, ovf)

/-- R267: a tile after a K-step over activation rows and the weight columns that fall to it. -/
def stepTile (t : Tile) (as bs : List MRow) : Tile :=
  let go := as.zipIdx.foldl (fun (st : SMap TEntry × Bool) a =>
    bs.zipIdx.foldl (fun (st : SMap TEntry × Bool) b =>
      let key := 128 * a.2 + b.2
      let (e, o) := stepEntry t.ae (st.1.get TEntry.zero key) a.1 b.1
      (st.1.set TEntry.zero key e, st.2 || o)) st) (t.ents, t.ovf)
  { t with ents := go.1, ovf := go.2, ferr := t.ferr || as.any (·.ferr) || bs.any (·.ferr) }

/-- R281: a tile after MCFG. -/
def cfgTile (t : Tile) (a b : Dword) : Tile :=
  let ae := a.extractLsb' 0 16
  let one := fun (e : TEntry) =>
    let x := e.acc.toInt
    let (k, r) := floorGrid x.natAbs t.ae.toInt ae.toInt
    let (acc, o) := clip96 (signed (decide (x < 0)) k)
    ({ e with acc := acc, s := e.s || r != 0 }, o)
  let rs := t.ents.map fun e => (e.1, one e.2)
  { ae := ae, ovf := (t.ovf || rs.any (·.2.2)) && !b.getLsbD 0, ferr := t.ferr && !b.getLsbD 1, ents := rs.map fun e => (e.1, e.2.1) }

/-! ### Reading the scratchpad (R268, R272, R276, R282, R388) -/

/-- A cluster with the scratchpad of a snapshot. -/
def Cluster.withSnap (c : Cluster) (x : Snap) : Cluster := { c with scratch := x.scratch, fills := x.fills }
def Cluster.snapshot (c : Cluster) : Snap := ⟨c.scratch, c.fills⟩

/-- One of two values, by an open choice where they differ (DESIGN CHOICE, log 9). -/
def eitherOf {α : Type} [DecidableEq α] (k i : Nat) (old new : α) : α :=
  if old = new then new else if Config.takeNew k i then new else old

/-- R100, R276: a byte that a loop reads: as it stood when the loop began, or as it stands; of `pair`, an aligned 2-byte element,
both bytes alike. -/
def Cluster.loopByte (c : Cluster) (r : ResOp) (k : Nat) (pair : Bool) (off : Nat) : Byte :=
  match r.snap with
  | none => c.sbyte off
  | some x => eitherOf k (if pair then off / 2 * 2 else off) ((c.withSnap x).sbyte off) (c.sbyte off)

/-- R272: the bytes that step `st` of a loop reads, as offsets in the grant. -/
def LoopDesc.offsets (d : LoopDesc) (st : Nat) : List Nat :=
  d.streams.flatMap fun x => (streamRows x st).flatMap fun (o : Int) => (List.range x.2.2.2.2).map fun i => o.toNat + i

/-- R267: the rows that a K-step multiplies: activations, then weight columns. -/
def Cluster.stepRows (c : Cluster) (r : ResOp) (d : LoopDesc) (base k : Nat) : List MRow × List MRow :=
  let rows := fun (i : Nat) => match d.streams[i]? with | some x => streamRows x r.done | none => []
  let byteAt := fun (code : Nat) (o : Int) (i : Nat) => c.loopByte r k (code == 1) (base + (o + i).toNat)
  let bi := if d.asc then 3 else 2
  let scaleAt := fun (on : Bool) (i row b : Nat) => if on then some (byteAt 0 ((rows i).getD row 0) b).toNat else none
  let as := (rows 0).zipIdx.map fun a =>
    mkRow d.fa d.w d.k (rowElem (matWidth d.fa) (byteAt d.fa a.1)) (scaleAt d.asc 2 a.2)
  let bs := (rows 1).zipIdx.map fun b =>
    let now := rowElem (matWidth d.fb) (byteAt d.fb b.1)
    let el := match r.stg, r.done with
      | some x, 0 => fun i => eitherOf k (2 ^ 32 + 256 * b.2 + i)
          (rowElem (matWidth d.fb) (fun j => (c.withSnap x).sbyte (base + (b.1 + j).toNat)) i) (now i)
      | _, _ => now
    mkRow d.fb d.w d.k el (scaleAt d.bsc bi b.2)
  (as, bs)

/-- R267: a K-step's sums are written into the tiles of its set. -/
def Cluster.writeStep (c : Cluster) (r : ResOp) (d : LoopDesc) (base k : Nat) : Cluster :=
  let (as, bs) := c.stepRows r d base k
  let put := fun (c : Cluster) (t : Nat) (bs : List MRow) =>
    { c with tiles := c.tiles.set Tile.reset t (stepTile (c.tiles.get Tile.reset t) as bs) }
  let c := put c d.tile (bs.take 128)
  if 128 < d.n then put c (d.tile + 4) (bs.drop 128) else c

/-! ### K-steps (R267, R274, R275, R394, R395) -/

/-- R271: no operation earlier in table order overlaps. -/
def Cluster.firstOn (c : Cluster) (r : ResOp) : Bool :=
  (c.table.takeWhile fun e => !(e.gid == r.gid && e.id == r.id)).all fun e => e.tiles &&& r.tiles == 0

/-- R278: whether an operation, or a K-step, of a group may begin: its group is not halted. -/
def State.mayBegin (s : State) (r : ResOp) : Bool := ((s.group? r.gid).map fun g => g.halt.isNone).getD false

/-- R280 to R283: MZERO, MCFG and MLDW take effect; a loop with no K-step left is complete. A second MLDW of a group discards what its
first has staged, whatever its descriptor and tiles (DESIGN CHOICE, log 43). -/
def State.smallOp (s : State) (c : Nat) (r : ResOp) : State :=
  let s := s.modCluster c fun x =>
    let t := x.tiles.get Tile.reset r.tile
    match r.kind with
    | .mzero => { x with tiles := x.tiles.set Tile.reset r.tile { Tile.reset with ae := (r.args.getD 0 0).extractLsb' 0 16 } }
    | .mcfg => { x with tiles := x.tiles.set Tile.reset r.tile (cfgTile t (r.args.getD 0 0) (r.args.getD 1 0)) }
    | .mloop => x
    | .mldw => { x with staged := x.staged.filter (fun e => e.gid != r.gid) ++ [⟨r.gid, r.args, x.snapshot⟩] }
  s.freeEntry c r

/-- A change to an entry of the table. -/
def State.modEntry (s : State) (c : Nat) (r : ResOp) (f : ResOp → ResOp) : State :=
  s.modCluster c fun x => { x with table := x.table.map fun e => if e.gid = r.gid ∧ e.id = r.id then f e else e }

/-- R275, R308: a loop whose turn on its tiles has come asks for its power grant. -/
def State.askLoopPower (s : State) (c : Nat) (r : ResOp) : State :=
  let (t, s) := s.askPower (c / 16) (if s.split c then 3 else 6)
  s.modEntry c r fun e => { e with ticket := some t }

/-- R274: the loops of a half that can take the next K-step. -/
def State.eligible (s : State) (c : Nat) (half : Bool) : List ResOp :=
  let x := s.cluster c
  x.table.filter fun r => r.kind == .mloop && r.st == .queued && (s.halfOf c r.tile == half) && x.firstOn r && s.mayBegin r
    && r.ticket.isSome && s.powered (c / 16) r.ticket && ((s.group? r.gid).map fun g => s.engReady g r.id).getD false
    && (r.after.bind fun a => (s.group? a.1).map fun g => s.engReady g a.2).getD true

/-- R274: the arbiter's choice: the oldest passed over 16 times, else the oldest of the highest priority. -/
def arbiterPick (rs : List ResOp) : Option ResOp :=
  match rs.find? fun r => decide (16 ≤ r.passed) with
  | some r => some r
  | none => rs.foldl (fun o r => match o with
      | none => some r
      | some b => if (loopDesc b.args).prio < (loopDesc r.args).prio then some r else some b) none

/-- R274, R276, R282: the K-step is granted; at its first the loop takes its staging, and discards any other. -/
def State.startStep (s : State) (c : Nat) (half : Bool) (r : ResOp) (rs : List ResOp) : State :=
  let x := s.cluster c
  let stg := (x.staged.find? fun e => e.gid == r.gid && e.desc == r.args).map (·.snap)
  let first := r.snap.isNone
  let s := if first then s.dropStaging c r.tile else s
  let s := s.modCluster c fun x =>
    { x with
      table := x.table.map fun e =>
        if e.gid = r.gid ∧ e.id = r.id then
          { e with st := .running, passed := 0, snap := if first then some x.snapshot else e.snap, stg := if first then stg else none }
        else if rs.any fun q => q.gid == e.gid && q.id == e.id then { e with passed := e.passed + 1 } else e }
  s.addDue (.kstepComplete (BitVec.ofNat 10 c) half 0)

/-- R271, R274, R275: KSTEP_GRANT: an operation that may take effect does; loops ask for power; the arbiter grants. -/
def execKstepGrant (cv : BitVec 10) (half : Bool) (s : State) : Out :=
  let ev := Instr.kstepGrant cv half
  let c := cv.toNat
  if ev ∉ s.due then .next s else
  let x := s.cluster c
  let mine := x.table.filter fun r => s.halfOf c r.tile == half
  if mine.isEmpty then .next (s.dropDue ev) else
  match mine.find? fun r => (r.kind != .mloop || decide ((loopDesc r.args).steps ≤ r.done)) && r.st == .queued && x.firstOn r && s.mayBegin r with
  | some r => .next (s.smallOp c r)
  | none =>
    let s := (mine.filter fun r => r.kind == .mloop && r.st == .queued && r.ticket.isNone && x.firstOn r && s.mayBegin r).foldl
      (fun s r => s.askLoopPower c r) s
    if mine.any fun r => r.st == .running then .next s else
    let rs := s.eligible c half
    match arbiterPick rs with
    | none => .next s
    | some r => .next (s.startStep c half r rs)

/-- R393: a record of class 0x10 for a loop. -/
def State.loopRec (s : State) (c : Nat) (r : ResOp) (sev cause addr detail : Nat) : ErrRec :=
  let t := ((s.group? r.gid).map (·.tenant.toNat)).getD 0
  mkRec sev 0x10 cause (6 + if addr = 0 then 0 else 8) t r.gid (s.arrayUnit c r.tile) r.pc.toNat addr detail

/-- R288, R394: a loop stops in its K-step: held, its grant given up, its group halted, with the record that says so; a loop
that MREL.all has named is abandoned. -/
def State.holdLoop (s : State) (c : Nat) (r : ResOp) (cause : Nat) (e : Option ErrRec) : State :=
  let s := match e with
    | some e => (s.record (c / 16) e).haltGroup r.gid (0x1000 + cause) r.pc.toNat
    | none => s.haltGroup r.gid (0x1000 + cause) r.pc.toNat
  if r.abandon then s.freeEntry c r
  else (s.modEntry c r fun e => { e with st := .held, ticket := none, snap := none }).endPower (c / 16) r.ticket

/-- R395: a half, or in whole mode both, is disabled: every loop of it is held and its groups halt. -/
def State.disableHalf (s : State) (c : Nat) (half : Bool) : State :=
  let b := if s.split c then BitVec.twoPow 64 (2 * (c % 16) + (if half then 1 else 0)) else (3 : Dword) <<< (2 * (c % 16))
  let s := s.modDie (c / 16) fun x => { x with mhealth := x.mhealth ||| b }
  ((s.cluster c).table.filter fun r => r.kind == .mloop && (s.halfOf c r.tile == half)).foldl (fun s r => s.holdLoop c r 5 none) s

/-- R267, R277, R283, R288: a K-step that wrote its sums is over. -/
def State.endStep (s : State) (c : Nat) (r : ResOp) (d : LoopDesc) : State :=
  let r := { r with done := r.done + 1 }
  let halt := (s.group? r.gid).bind (·.halt)
  let s := match s.group? r.gid with
    | some g => s.modGang g.grid.toNat g.gang.toNat fun x => { x with ksteps := x.ksteps + 1 }
    | none => s
  if r.abandon || decide (d.steps ≤ r.done) then s.freeEntry c r
  else
    match halt with
    | some h =>
      (s.modEntry c r fun e => { e with done := r.done, st := if h.save then .suspended else .held, ticket := none, snap := none }).endPower (c / 16) r.ticket
    | none => s.modEntry c r fun e => { e with done := r.done, st := .queued }

/-- R262: a K-step moves the performance counter of its half, by an amount that the spec does not give (log 53). -/
def Cluster.count (x : Cluster) (half : Bool) (k : Nat) : Cluster :=
  let i := if half then 1 else 0
  { x with perf := x.perf.set 0 i (x.perf.get 0 i + Config.perfStep k) }

/-- R267, R394, R395: KSTEP_COMPLETE. `checkErrors` counts the failed checks of the K-step: 1 is corrected by a rerun,
2 disables the half. -/
def execKstepComplete (cv : BitVec 10) (half : Bool) (checkErrors : BitVec 2) (s : State) : Out :=
  let ev := Instr.kstepComplete cv half 0
  let c := cv.toNat
  if ev ∉ s.due then .next s else
  let s := s.dropDue ev
  let x := s.cluster c
  match x.table.find? fun r => r.st == .running && (s.halfOf c r.tile == half) with
  | none => .next s
  | some r =>
    let d := loopDesc r.args
    let base := ((s.group? r.gid).map fun g => (s.grantOf r.gid g).1).getD 0
    let s := if checkErrors = 0 then s else s.record (c / 16) (s.loopRec c r 0 4 0 r.done)
    if 2 ≤ checkErrors.toNat then .next ((s.record (c / 16) (s.loopRec c r 1 5 0 r.done)).disableHalf c half)
    else
      match (d.offsets r.done).filter fun o => x.spoiled (base + o) with
      | o :: os =>
        .next ((s.holdLoop c r 2 (some (s.loopRec c r 1 2 (os.foldl min o) (r.done + r.tile * 2 ^ 32)))).kickArray c r.tile)
      | [] =>
        let s := { s.putCluster c (((s.cluster c).writeStep r d base s.fresh).count half s.fresh) with fresh := s.fresh + 1 }
        .next ((s.endStep c r d).kickArray c r.tile)

/-- R342: ARRAY_MODE_SWITCH: with an empty table and no gang's tile in the cluster the engine takes the requested mode. -/
def execArrayModeSwitch (cv : BitVec 10) (s : State) : Out :=
  let ev := Instr.arrayModeSwitch cv
  let c := cv.toNat
  if ev ∉ s.due then .next s else
  let x := s.die (c / 16)
  let want := x.mmodeReq.getLsbD (c % 16)
  if want = x.mmodeCur.getLsbD (c % 16) then .next (s.dropDue ev)
  else if (s.cluster c).table.isEmpty && s.tilesHeld c == 0 then
    let b := BitVec.twoPow 16 (c % 16)
    .next ((s.dropDue ev).modDie (c / 16) fun x => { x with mmodeCur := if want then x.mmodeCur ||| b else x.mmodeCur &&& ~~~b })
  else .next s

/-- R387, R396: TILE_ENTRY_ECC_ERROR: the entry is set to acc 0, S 0, V 1, and recorded for the tenant that holds the tile. -/
def execTileEntryEccError (cv : BitVec 10) (tile : BitVec 3) (row col : BitVec 7) (s : State) : Out :=
  let c := cv.toNat
  let t := tile.toNat
  let tenant := ((s.grids.find? fun e => e.2.gangs.any fun x => (x.2.places.any fun p => p.1 == c) && x.2.tmask.getLsbD t).map
    fun e => e.2.tenant.toNat).getD 0
  let s := s.modCluster c fun x =>
    let tl := x.tiles.get Tile.reset t
    { x with tiles := x.tiles.set Tile.reset t { tl with ents := tl.ents.set TEntry.zero (128 * row.toNat + col.toNat) ⟨0, false, true⟩ } }
  .next (s.record (c / 16)
    (mkRec 1 0x10 3 2 tenant 0 (s.arrayUnit c t) 0 0 (t + row.toNat * 256 + col.toNat * 65536)))

end Sys2Proof.Machine
end

