-- ==== Sys2Proof/Machine/Launch.lean ====
section
/-!
DEFINITION. Launch records, queues, gang tickets and the placement of gangs (08 R202, R203, 02 R45 to R49, 12 R289 to
R301).
-/

namespace Sys2Proof.Machine

/-! ### LAUNCH (R202, R203) -/

/-- R202, R254: LAUNCH: a member of the batch open at its issue, until it is rejected or its child grid retires. Its record takes a
place in the issue order (R101). It waits until what the group has accessed before is performed, which is how the model makes the
fork edge of R203 (DESIGN CHOICE, log 59). -/
def execLaunch (gd : BitVec 3) (d a b : BitVec 7) (s : State) : Out :=
  issue ⟨true, [vr d, vr a, vr b], gd.toNat, none, 4⟩ (fun c s =>
    if c.g.depth.toNat = 10 then s.trap c 0x07 0 10
    else if !s.drained c.g c.upto then s.opWait c (.drain c.upto)
    else
      let l := lowestLane c.f.mask
      let addr := (c.vd l b).toNat * 2 ^ 32 + (c.vd l a).toNat
      s.holdAt { c with g := { c.g.joinBatch with nextOp := c.g.nextOp + 1 } } (.launch d.toNat (c.guarded gd.toNat) addr [] c.g.ob.toNat c.g.nextOp)
        fun g f => .launchRecordAccept (BitVec.ofNat 6 (gidDie c.gid)) (.group g f)) s

/-! ### Launch records and descriptors (R289 to R291) -/

/-- R290: the checks of a record that status 1 reports. -/
def recordOk (r : List Byte) : Bool :=
  let f := recField r
  let n := f 0x10 4 * f 0x14 4 * f 0x18 4
  f 0 2 == 1 && decide (f 2 2 < 2) && f 4 4 == 0 && f 0x1C 4 == 0 && f 0x28 8 == 0 && f 0xA8 24 == 0
    && n != 0 && decide (n < 2 ^ 32) && f 0x20 8 % 8 == 0

/-- R289: the fields of a descriptor. -/
def kdescOf (k : List Byte) : KDesc :=
  let f := recField k
  { entry := BitVec.ofNat 64 (f 8 8), lanes := f 0x10 2, regs := f 0x12 1, groups := f 0x13 1, cls := f 0x14 1, tiles := f 0x15 1,
    idem := f 0x16 1 / 2 % 2 == 1, zero := f 0x16 1 % 2 == 1, scratch := f 0x18 4, fmt := BitVec.ofNat 32 (f 0x1C 4),
    wi := f 0x20 8, wk := f 0x28 4 }

/-- R289: a descriptor all of whose fields lie in their ranges. -/
def kdescOk (k : List Byte) : Bool :=
  let f := recField k
  let d := kdescOf k
  f 0 4 == 1 && f 4 4 == 64 && decide (32 ≤ d.lanes) && decide (d.lanes ≤ 1024) && d.lanes % 32 == 0
    && decide (8 ≤ d.regs) && decide (d.regs ≤ 128) && d.regs % 8 == 0 && decide (1 ≤ d.groups) && decide (d.groups ≤ 16)
    && decide (d.cls ≤ 2) && decide (d.tiles ≤ 8) && decide (f 0x16 1 < 4) && f 0x17 1 == 0
    && d.scratch % 4096 == 0 && decide (d.scratch ≤ 2 ^ 22) && fmtLegal d.fmt && f 0x2C 20 == 0

/-- R17: the 16 clusters of a die. -/
def clustersOf (d : Nat) : List Nat := (List.range 16).map fun i => 16 * d + i

/-- R315: bytes of a cluster's scratchpad that its enabled call rings occupy. -/
def Cluster.ringBytes (x : Cluster) : Nat := (x.rings.map fun e => if e.2.weight = 0 then 0 else e.2.bytes).sum

/-- R291: a group of the gang could be held by some cluster of the dies. -/
def State.holdable (s : State) (dies : List Nat) (d : KDesc) : Bool :=
  let cs := dies.flatMap clustersOf
  decide (d.lanes * d.regs ≤ 65536) && (decide (d.tiles ≤ 4) || cs.any fun c => !s.split c)
    && cs.any fun c => decide (d.scratch + (s.cluster c).ringBytes ≤ 2 ^ 22)

/-- R292: the next grid identifier of a die: its count skips 0 and every value still live. -/
def State.nextGrid (s : State) (d : Nat) : Nat :=
  let at' := fun k => ((s.dist d).accepted + 1 + k) % 2 ^ 26
  let free := fun n => n != 0 && (s.grid? (d * 2 ^ 26 + n)).isNone
  at' (((List.range (s.grids.length + 2)).find? fun k => free (at' k)).getD 0)

/-- R297: gang indices below n that fall to rank r of D dies. -/
def ticketsOf (n r dN : Nat) : Nat := (n + dN - 1 - r) / dN

/-- Who launches (R49, R203, R297). -/
structure Launcher where
  tenant : BitVec 12
  asn : BitVec 16
  depth : Nat
  dies : List Nat
  queue : Option (Nat × Bool × Nat)
  parent : Option (Nat × Nat × Nat)
  batch : Option (Nat × Nat)
  record : Nat                  -- the index of its record (R405)

/-- R291, R292, R297, R405: the grid is accepted by die d: its identifier, its journal entry, and the tickets of its dies. -/
def State.acceptGrid (s : State) (d : Nat) (r : List Byte) (k : KDesc) (l : Launcher) : State × Nat :=
  let f := recField r
  let n := s.nextGrid d
  let id := d * 2 ^ 26 + n
  let gangs := f 0x10 4 * f 0x14 4 * f 0x18 4
  let g : Grid :=
    { desc := k, e0 := f 0x10 4, e1 := f 0x14 4, e2 := f 0x18 4, args := (List.range 15).map fun i => BitVec.ofNat 64 (f (0x30 + 8 * i) 8),
      tenant := l.tenant, asn := l.asn, depth := l.depth, die := d, dies := l.dies, doneVa := f 0x20 8, demand := f 2 2 % 2 == 1,
      queue := l.queue, parent := l.parent, batch := l.batch, gangs := [], retiredGangs := 0, children := 0, aborted := false,
      completing := false }
  let s := s.journal d 3 ((l.queue.map (·.1)).getD 0) id l.record
  let s := (s.modDist d fun x => { x with accepted := n }).putGrid id g
  let s := l.dies.zipIdx.foldl (fun s e =>
    (s.modDist e.1 fun x => { x with tickets := x.tickets.put id ⟨e.2, 0, ticketsOf gangs e.2 l.dies.length, [], [], false⟩ }).addDue
      (.ticketTake (BitVec.ofNat 6 e.1) (BitVec.ofNat 32 id))) s
  (s, id)

/-- R292, R405: a record is rejected: its journal entry, and its completion word. -/
def State.rejectRecord (s : State) (c queue index status : Nat) (l : Launcher) (gid done : Nat) : State :=
  let s := s.journal (c / 16) 4 queue status index
  if done = 0 then s else
  let n := s.fresh
  let r : Rej := ⟨c, l.asn, l.tenant, gid, done, BitVec.ofNat 64 (status * 2 ^ 32), queue + index % 2 ^ 32 * 2 ^ 32⟩
  ({ s with rejections := s.rejections.put n r, fresh := n + 1 }).offerWord (.rejection n)

/-- What the check of a record comes to. -/
inductive Verdict where
  | accept (k : KDesc) (s : State)
  | reject (status : Nat) (s : State)
  | waits (s : State)

/-- R291: the record is checked, its descriptor read and checked, in the order of the table. -/
def State.judge (s : State) (c : Nat) (l : Launcher) (r : List Byte) (who : MemRef) : Verdict :=
  if !recordOk r then .reject 1 s else
  match s.distRead c l.asn (recField r 8 8) 64 Want.distRead who with
  | .waits s => .waits s
  | .lost => .reject 2 (s.dropAnswers who)
  | .got k s =>
    let s := s.dropAnswers who
    if !kdescOk k then .reject 2 s
    else if !s.holdable l.dies (kdescOf k) then .reject 3 s
    else .accept (kdescOf k) s

/-! ### A LAUNCH's record (R202, R203, R291) -/

/-- How the read of a LAUNCH's record goes. -/
inductive RecRead where
  | got (bs : List Byte) (s : State)
  | waits (s : State)
  | poison (pa : Nat)
  | closed (va home : Nat)

/-- A line as the record's read finds it: its number, its bytes and its marks. -/
abbrev SeenLine := Nat × List Byte × BitVec 4

/-- R113, R202: lines of the record read through the core's L1, or asked for; none once one of them is not there yet. -/
def State.loadLines (s : State) (k : Nat) (ls : List (Nat × Nat × Bool)) : State × Option (List SeenLine) :=
  ls.foldl (fun r l =>
    let s := r.1
    if s.lineReady k l.1 l.2.1 then
      let (s, data, psn) := s.readLine k l.1 l.2.1 false l.2.2
      (s, r.2.map fun ms => ms ++ [(l.1, data, psn)])
    else ((s.requestFill k l.1 none).l2Use l.1 l.2.2, none)) (s, some [])

/-- R202: the record of a LAUNCH, read as a load of its group. -/
def State.readLaunch (s : State) (gid : Nat) (g : Group) (who : MemRef) (a : Nat) : RecRead :=
  let c := gidCluster gid
  let k := cacheOfCore (gidCore gid)
  let as := (List.range 192).map fun i => (a + i) % 2 ^ 64
  let tr := fun (x : Nat) => (s.lookup c g.asn x Want.load).map fun t => (t.pa x, t.tr, t.l2c)
  let open' := as.filter fun x => (s.supplied who x).isNone
  let lacks := ((open'.filter fun x => (tr x).isNone).map pageOf).dedup
  if !lacks.isEmpty then .waits (lacks.foldl (fun s v => s.askWalk c g.asn v who) s)
  else
    let far := fun (x : Nat) => (tr x).any fun p =>
      !(p.2.1 != 2 && (s.cache k).lines.has (p.1 / 128)) && !s.linked (gidDie gid) (paDie p.1)
    match open'.find? far with
    | some x => .closed x (paDie (((tr x).map (·.1)).getD 0))
    | none =>
      match s.loadLines k ((open'.filterMap tr).map fun p => (p.1 / 128, p.2)).eraseDups with
      | (s, none) => .waits s
      | (s, some seen) =>
        let at' := fun (pa : Nat) => (seen.find? fun l => l.1 == pa / 128).getD (0, [], 0)
        match (open'.filterMap tr).find? fun p => (at' p.1).2.2.getLsbD (p.1 % 128 / 32) with
        | some p => .poison p.1
        | none => .got (as.map fun x =>
            (s.supplied who x).getD (((tr x).map fun p => (at' p.1).2.1.getD (p.1 % 128) 0).getD 0)) s

/-- R202, R203: the answer of a LAUNCH: vd in every guarded lane. -/
def State.answerLaunch (s : State) (gid fid rd : Nat) (lanes : Mask) (id : Nat) : State :=
  let s := s.modGroup gid fun g => g.writeV rd (lanesOf lanes g.lanes) fun _ => ⟨BitVec.ofNat 32 id, false⟩
  (s.advanceFrag gid fid 4).settle gid

/-- R202, R291: a LAUNCH that waits: its record, which no younger access precedes, then its descriptor, then acceptance or
rejection; one of a group whose grid has been aborted meanwhile is rejected with status 4 (DEDUCED, log 59). -/
def State.serveLaunch (s : State) (ev : Instr) (gv : Gid) (fv : BitVec 5) : State :=
  let gid := gv.toNat
  let d := gidDie gid
  match s.frag? gv fv with
  | none => s.dropDue ev
  | some (g, f) =>
    match f.hold with
    | .launch rd lanes a [] b op =>
      if g.fenced op then s else
      let stop := fun (s : State) (cause addr : Nat) =>
        ((s.takeException gid ⟨1, cause, f.pc.toNat, addr, (lanesOf lanes g.lanes).length⟩).standLaunch gid fv.toNat).dropDue ev
      match s.readLaunch gid g (.launchRec gv fv) a with
      | .waits s => s
      | .poison pa => stop s 0x0F pa
      | .closed _ home => stop (s.notSent (gidDie gid) home) 0x0E a
      | .got bs s =>
        (s.dropAnswers (.launchRec gv fv)).modGroup gid fun g => g.modFrag fv.toNat fun f => { f with hold := .launch rd lanes a bs b op, state := .opWait }
    | .launch rd lanes _ r b _ =>
      let l : Launcher :=
        { tenant := g.tenant, asn := g.asn, depth := g.depth.toNat + 1, dies := [d], queue := none,
          parent := some (g.grid.toNat, g.gang.toNat, gid), batch := some (g.index.toNat, b), record := 0 }
      let reject := fun (s : State) (status : Nat) =>
        (((s.modGroup gid fun g => g.leaveBatch b).rejectRecord (gidCluster gid) 0 0 status l gid (recField r 0x20 8)).answerLaunch gid fv.toNat rd lanes 0).dropDue ev
      match s.judge (gidCluster gid) l r (.launchDesc gv fv) with
      | .waits s => s
      | .reject status s => reject s status
      | .accept k s =>
        if ((s.grid? g.grid.toNat).map fun p => p.aborted).getD false then reject s 4 else
        let (s, id) := s.acceptGrid d r k l
        let s := s.modGrid g.grid.toNat fun p => { p with children := p.children + 1 }
        let s := s.modGang g.grid.toNat g.gang.toNat fun x => { x with childGrids := x.childGrids ++ [id] }
        (s.answerLaunch gid fv.toNat rd lanes id).dropDue ev
    | _ => s.dropDue ev

/-! ### Launch queues (R293 to R296) -/

/-- A queue's service is under way or due. -/
def queueEv (d q : Nat) : Instr := .launchRecordAccept (BitVec.ofNat 6 d) (.queue (BitVec.ofNat 10 q))

/-- R296: a slot takes a queue, with its journal entry. -/
def State.bindSlot (s : State) (d slot q : Nat) : State :=
  ((s.journal d 1 q slot 0).modDist d fun x => { x with slots := x.slots ++ [(slot, q)] }).addDue (queueEv d q)

/-- R296: a slot is freed; a queue with records left has its bit set again. -/
def State.freeSlot (s : State) (d : Nat) (e : Nat × Nat) (left : Bool) : State :=
  ((s.journal d 2 e.2 e.1 0).modDist d fun x =>
    { x with slots := x.slots.erase e, kick := if left then x.kick ||| BitVec.twoPow 1024 e.2 else x.kick }).dropDue (queueEv d e.2)

/-- R296: a queue in a slot is empty when its tail was last found at its head and no notify has come since. -/
def State.queueIdle (s : State) (d q : Nat) : Bool := !(s.dist d).kick.getLsbD q && decide (queueEv d q ∉ s.due)

/-- The priority of a bound queue. -/
def Dist.prioOf (x : Dist) (q : Nat) : Nat := ((x.binds.find q).map (·.prio)).getD 0

/-- The best of a list by a key, the first of equals. -/
def firstMax {α : Type} (key : α → Nat) : List α → Option α
  | [] => none
  | x :: xs => some (xs.foldl (fun b y => if key b < key y then y else b) x)

/-- R296: a slot for a pending queue: a free one, an empty queue's, or that of a preemptible queue of lower priority. -/
def State.slotFor (s : State) (d q : Nat) : State :=
  let x := s.dist d
  if x.slots.length < 64 then
    match (List.range 64).find? fun n => x.slots.all fun e => e.1 != n with
    | some n => s.bindSlot d n q
    | none => s
  else
    match x.slots.find? fun e => s.queueIdle d e.2 with
    | some e => (s.freeSlot d e false).bindSlot d e.1 q
    | none =>
      let low := x.slots.filter fun e => ((x.binds.find e.2).map fun b => b.preemptible && decide (b.prio < x.prioOf q)).getD false
      match firstMax (fun e => 8 - x.prioOf e.2) low with
      | some e => (s.freeSlot d e true).bindSlot d e.1 q
      | none => s

/-- R295, R296: the queues with a pending bit, bound and without a slot. -/
def Dist.pendingQueues (x : Dist) : List Nat :=
  (x.binds.map (·.1)).filter fun q => x.kick.getLsbD q && x.slots.all fun e => e.2 != q

/-- R296, R356: every pending queue looks for a slot, highest priority first; in host-assisted mode in the
order that the host chooses, once a link to it is up (R423). -/
def State.seekSlots (s : State) (d : Nat) : State :=
  let x := s.dist d
  let host := (s.die d).fmode.getLsbD 1
  let qs := x.pendingQueues
  let order := if !host then (List.range 8).reverse.flatMap fun p => qs.filter fun q => x.prioOf q == p
    else if (s.hostLink d).isSome then anyOrder s.fresh qs else []
  order.foldl (fun s q => s.slotFor d q) s

/-- R423: what waited for a link goes on: events leave, and the hosts that choose queues choose again. -/
def State.linkUp (s : State) : State :=
  (List.range 64).foldl (fun s d => if (s.die d).fmode.getLsbD 1 then s.seekSlots d else s) s.flushHost

/-- R295: the bit of a queue is set; a queue that holds a slot is served. -/
def State.kickQueue (s : State) (d q : Nat) : State :=
  let s := s.modDist d fun x => { x with kick := x.kick ||| BitVec.twoPow 1024 q }
  let s := if (s.die d).fmode.getLsbD 1 then s.tellHost d (.kick d) else s
  if (s.dist d).slots.any fun e => e.2 == q then s.addDue (queueEv d q)
  else if (s.dist d).up then s.seekSlots d else s

/-- R295: QUEUE_NOTIFY: a value with a bit above [9:0] set is ignored. -/
def execQueueNotify (die : BitVec 6) (value : Word) (s : State) : Out :=
  .next (if value.toNat < 1024 then s.kickQueue die.toNat value.toNat else s)

/-- R294: where a queue's entry lies. -/
def queueEntryAt (d q : Nat) : Nat := d * 2 ^ 37 + 0x07000000 + 32 * q

/-- R294, R335: a die mask includes this die and lies within its partition. -/
def State.dieMaskOk (s : State) (d : Nat) (m : BitVec 64) : Bool :=
  m.getLsbD d && (List.range 64).all fun e => !m.getLsbD e || s.samePart d e

/-- R294: the binding that a queue-table entry describes, if it is accepted. -/
def State.queueEntry (s : State) (d q : Nat) : Option QBind :=
  let f := fun (off n : Nat) => s.deviceNat (queueEntryAt d q + off) n
  let dies := BitVec.ofNat 64 (f 8 8)
  if f 0x12 2 < 4096 ∧ f 0x15 1 / 16 % 8 = 0 ∧ f 0x16 10 = 0 ∧ 4 ≤ f 0x14 1 ∧ f 0x14 1 ≤ 16 ∧ f 0 8 % 128 = 0 ∧ s.dieMaskOk d dies = true then
    some ⟨f 0 8, dies, BitVec.ofNat 16 (f 0x10 2), BitVec.ofNat 12 (f 0x12 2), f 0x14 1, f 0x15 1 / 8 % 2 == 1, f 0x15 1 % 8, none, []⟩
  else none

/-- R294, R296: the queue is unbound: it takes no slot, and its bit stays as it is. -/
def State.unbind (s : State) (d q : Nat) : State :=
  let left := !s.queueIdle d q
  let s := match (s.dist d).slots.find? fun e => e.2 == q with
    | some e => s.freeSlot d e left
    | none => s
  let s := s.modDist d fun x => { x with binds := x.binds.erase q }
  s.dropAnswers (.queueRec (BitVec.ofNat 6 d) (BitVec.ofNat 10 q))

/-- R294: QUEUE_BINDING. -/
def execQueueBinding (die : BitVec 6) (qv : BitVec 10) (s : State) : Out :=
  let d := die.toNat
  let q := qv.toNat
  whenUp d (.queueBinding die qv) (fun s =>
    let s := s.dropDue (.queueBinding die qv)
    let valid := s.deviceNat (queueEntryAt d q + 0x15) 1 / 128 % 2 = 1
    if !valid then (s.unbind d q).seekSlots d
    else
      match s.queueEntry d q with
      | none => ((s.unbind d q).distRecord d 1 4 0 q).seekSlots d
      | some b =>
        let s := (s.unbind d q).modDist d fun x => { x with binds := x.binds.put q b }
        s.seekSlots d) s

/-- R291: a parked read of a queue holds up no other queue. -/
def State.queueParked (s : State) (d q : Nat) : Bool :=
  let who := MemRef.queueRec (BitVec.ofNat 6 d) (BitVec.ofNat 10 q)
  ((s.die d).quag.any fun e => e.2.members.any fun m => decide (m.1 = who)) || (s.die d).walkQ.any fun w => decide (w.who = who)

/-- R296: the queue whose turn it is: of the highest priority, and within it the next in rotation. -/
def State.queueTurn (s : State) (d : Nat) : Option Nat :=
  let x := s.dist d
  let ready := (x.slots.map (·.2)).filter fun q => decide (queueEv d q ∈ s.due) && !s.queueParked d q
  firstMax (fun q => x.prioOf q) ready

/-- R293: the dies of a mask in ascending order. -/
def diesOf (m : BitVec 64) : List Nat := (List.range 64).filter fun d => m.getLsbD d

/-- R291, R405: a record has been dealt with: the head's journal entry, the head, and the queue's place in the rotation. -/
def State.advanceHead (s : State) (d q : Nat) (b : QBind) (head : Nat) : State :=
  let who := MemRef.queueRec (BitVec.ofNat 6 d) (BitVec.ofNat 10 q)
  let s := s.journal d 5 q 0 (head + 1)
  let s := match s.distWrite (16 * d) b.asn (b.base + 8) (leBytes 8 (head + 1)) who with
    | .got _ s => s
    | .waits s => s
    | .lost => s
  (s.dropAnswers who).modDist d fun x =>
    { x with binds := x.binds.put q { b with head := some (head + 1), record := [] }
             slots := x.slots.filter (fun e => e.2 != q) ++ x.slots.filter fun e => e.2 == q }

/-- R293: who launches for a queue's head. -/
def QBind.launcher (b : QBind) (q head : Nat) : Launcher :=
  { tenant := b.tenant, asn := b.asn, depth := 0, dies := diesOf b.dies, queue := some (q, b.preemptible, b.prio), parent := none,
    batch := none, record := head }

/-- R291, R293: a queue's record, once it is read: its descriptor, then acceptance or rejection, and the head moves on. -/
def State.judgeQueue (s : State) (d q : Nat) (b : QBind) : State :=
  let head := b.head.getD 0
  let l := b.launcher q head
  match s.judge (16 * d) l b.record (.queueRec (BitVec.ofNat 6 d) (BitVec.ofNat 10 q)) with
  | .waits s => s
  | .reject status s => (s.rejectRecord (16 * d) q head status l 0 (recField b.record 0x20 8)).advanceHead d q b head
  | .accept k s => ((s.acceptGrid d b.record k l).1).advanceHead d q b head

/-- R293, R296: one record of a queue is served. Once read it is held, so that what parks next is its descriptor's read. -/
def State.serveQueue (s : State) (ev : Instr) (d q : Nat) (b : QBind) : State :=
  let c := 16 * d
  let who := MemRef.queueRec (BitVec.ofNat 6 d) (BitVec.ofNat 10 q)
  if !b.record.isEmpty then s.judgeQueue d q b else
  let s := s.modDist d fun x => { x with kick := x.kick &&& ~~~(BitVec.twoPow 1024 q) }
  match s.distRead c b.asn b.base 16 ⟨true, true, false, 6⟩ who with
  | .waits s => s
  | .lost => (s.dropAnswers who).dropDue ev
  | .got h s =>
    if (s.walkTo d b.asn.toNat (b.base + 8) Want.distWrite).isNone then s.askWalk c b.asn (pageOf b.base) who else
    let tail := recField h 0 8
    let head := b.head.getD (recField h 8 8)
    let b := { b with head := some head }
    let s := s.modDist d fun x => { x with binds := x.binds.put q b }
    if tail = head then ((s.dropAnswers who).dropDue ev).seekSlots d
    else
      match s.distRead c b.asn b.recVa 192 Want.distRead who with
      | .waits s => s
      | .lost =>
        ((s.rejectRecord c q head 1 (b.launcher q head) 0 0).distRecord d 1 6 b.tenant.toNat (q + head % 2 ^ 32 * 2 ^ 32)).advanceHead d q b head
      | .got r s =>
        let b := { b with record := r }
        ((s.dropAnswers who).modDist d fun x => { x with binds := x.binds.put q b }).judgeQueue d q b

/-- R291, R296: LAUNCH_RECORD_ACCEPT. -/
def execLaunchRecordAccept (die : BitVec 6) (src : LaunchSrc) (s : State) : Out :=
  let d := die.toNat
  let ev := Instr.launchRecordAccept die src
  match src with
  | .group g f => atDist d ev (fun s => s.serveLaunch ev g f) s
  | .queue q =>
    whenUp d ev (fun s =>
      match (s.dist d).binds.find q.toNat with
      | none => s.dropDue ev
      | some b => if s.queueTurn d = some q.toNat then s.serveQueue ev d q.toNat b else s) s

/-! ### Room for a gang (R28, R47, R269, R299) -/

/-- R28, R306: the identities in use on a core: resident groups, groups awaited by a restored gang, and reserved ones. -/
def State.coreIds (s : State) (k : Nat) : List Nat :=
  (((s.groups.map (·.1)) ++ ((s.cluster (k / 4)).restored.map (·.1)) ++
    (s.heldPlaces.flatMap fun p => p.2.2.2.2.groups.map (·.2))).filter fun g => gidCore g == k).dedup

/-- R28: lane-registers in use on a core. -/
def State.coreRegs (s : State) (k : Nat) : Nat :=
  let need := fun (grid : Nat) => ((s.grid? grid).map fun g => g.desc.lanes * g.desc.regs).getD 0
  (s.groups.map fun e => if gidCore e.1 = k then e.2.lanes * e.2.regs else 0).sum
    + ((s.cluster (k / 4)).restored.map fun e => if gidCore e.1 = k then need e.2.grid else 0).sum
    + (s.heldPlaces.flatMap fun p => p.2.2.2.2.groups.map fun g => if gidCore g.2 = k then need p.1 else 0).sum

/-- R28, R32: how many groups of a descriptor a core can admit. -/
def State.coreRoom (s : State) (k : Nat) (d : KDesc) : Nat :=
  let ids := (s.coreIds k).length
  let extra := ids - (s.groups.filter fun e => gidCore e.1 == k).length
  min (64 - ids) (min ((65536 - s.coreRegs k) / (d.lanes * d.regs)) (128 - s.poolUsed k - extra))

/-- The free slots of a core, lowest first. -/
def State.freeSlots (s : State) (k : Nat) : List Nat :=
  let ids := s.coreIds k
  (List.range 64).filter fun n => decide (64 * k + n ∉ ids)

/-- R72, R315: the bytes of a cluster's scratchpad in use: base and size of each grant, ring and reservation. A disabled ring that
still holds records is in use. -/
def State.padUsed (s : State) (c : Nat) : List (Nat × Nat) :=
  let x := s.cluster c
  (x.grants.map fun g => (g.base, g.size))
    ++ ((x.rings.filter fun e => e.2.weight != 0 || !e.2.recs.isEmpty).map fun e => (e.2.base.toNat, e.2.bytes))
    ++ ((s.heldPlaces.filter fun p => p.2.2.2.2.cluster == c).map fun p => (p.2.2.2.2.base, p.2.2.2.1))

/-- R299: where a grant of `n` bytes fits: the lowest such place. -/
def State.grantRoom (s : State) (c n : Nat) : Option Nat :=
  let used := s.padUsed c
  let starts := (0 :: used.map fun u => (u.1 + u.2 + 4095) / 4096 * 4096).filter fun b =>
    decide (b + n ≤ 2 ^ 22) && used.all fun u => decide (b + n ≤ u.1) || decide (u.1 + u.2 ≤ b) || u.2 == 0
  match starts with
  | [] => none
  | b :: bs => some (bs.foldl min b)

/-- R340, R341: the half that a tenant holds in a cluster in split mode; in whole mode it holds the whole array. -/
def State.tenantHalf (s : State) (c : Nat) (tenant : BitVec 12) : Option Bool :=
  ((List.range 16).find? fun n =>
    let e := (s.die (c / 16)).tcfg.get 0 n
    e.getLsbD 63 && e.extractLsb' 48 12 == tenant && e.getLsbD (16 + c % 16)).map fun n =>
      ((s.die (c / 16)).tcfg.get 0 n).getLsbD (c % 16)

/-- R269: the tile mask of a gang of n tiles in a cluster, in the cluster's current mode. -/
def State.maskFor (s : State) (c n : Nat) (tenant : BitVec 12) : Option Byte :=
  if n = 0 then some 0
  else if s.split c then
    if 4 < n then none
    else (s.tenantHalf c tenant).map fun b => tileSet ((List.range n).map fun i => if b then 4 + i else i)
  else (s.tenantHalf c tenant).map fun _ => tileSet ([0, 4, 1, 5, 2, 6, 3, 7].take n)

/-- R269, R342, R395: tiles that a gang may take in a cluster: free, of halves that work, with no mode change awaited. -/
def State.tilesFree (s : State) (c : Nat) (m : Byte) : Bool :=
  let x := s.die (c / 16)
  let i := c % 16
  m == 0 || (m &&& s.tilesHeld c == 0 && (x.mmodeReq.getLsbD i == x.mmodeCur.getLsbD i)
    && !(x.mhealth.getLsbD (2 * i) && m &&& 0x0F != 0) && !(x.mhealth.getLsbD (2 * i + 1) && m &&& 0xF0 != 0))

/-- R299, R304, R409: whether a cluster can take part in a placement, with a tile mask. -/
def State.usable (s : State) (grid c : Nat) (d : KDesc) (m : Byte) : Bool :=
  !(s.cluster c).out && (s.grantRoom c d.scratch).isSome && s.tilesFree c m
    && decide ((grid, c) ∉ (s.dist (c / 16)).blocked)

/-- R299: cores for the groups `ids` of one cluster; a choice among several cores is open (DESIGN CHOICE, log 1). `taken` are the slots
given so far. -/
def State.seatGroups (s : State) (c : Nat) (d : KDesc) : List Nat → List Nat → List (Nat × Nat)
  | [], _ => []
  | i :: is, taken =>
    let room := fun k => s.coreRoom k d - (taken.filter fun g => gidCore g == k).length
    let ks := ((List.range 4).map fun k => 4 * c + k).filter fun k => room k != 0
    let pick := match ks with
      | [] => none
      | [k] => some k
      | k :: ks => some ((k :: ks).getD (Config.pick (s.fresh + i) % (ks.length + 1)) k)
    match pick with
    | none => []
    | some k =>
      match (s.freeSlots k).find? fun n => decide (64 * k + n ∉ taken) with
      | none => []
      | some n => (i, 64 * k + n) :: s.seatGroups c d is (taken ++ [64 * k + n])

/-- How many groups of a descriptor a cluster can admit. -/
def State.clusterRoom (s : State) (c : Nat) (d : KDesc) : Nat := ((List.range 4).map fun k => s.coreRoom (4 * c + k) d).sum

/-- R299: the groups `ids` spread over clusters in the order given, as many in each as it can admit. -/
def State.spread (s : State) (d : KDesc) : List Nat → List Nat → List Place
  | [], _ => []
  | c :: cs, ids =>
    let n := min (s.clusterRoom c d) ids.length
    if n = 0 then s.spread d cs ids
    else ⟨c, (s.grantRoom c d.scratch).getD 0, s.seatGroups c d (ids.take n) []⟩ :: s.spread d cs (ids.drop n)

/-- Whether a spread seats all `n` groups. -/
def seatsAll (n : Nat) (ps : List Place) : Bool := (ps.map fun p => p.groups.length).sum == n

/-- R12: dies by hop count from d, then by number. -/
def hops (a b : Nat) : Nat := (a % 8 - b % 8) + (b % 8 - a % 8) + (a / 8 - b / 8) + (b / 8 - a / 8)
def nearDies (d : Nat) : List Nat := (List.range 15).flatMap fun h => (List.range 64).filter fun e => hops d e == h

/-- R299: a placement on the clusters given, tried with one mask after another. -/
def State.tryPlace (s : State) (grid : Nat) (d : KDesc) (cs : List Nat) (one : Bool) : List Byte → Option (Byte × List Place)
  | [] => none
  | m :: ms =>
    let ids := List.range d.groups
    let ok := cs.filter fun c => s.usable grid c d m && (decide (d.tiles = 0) || s.maskFor c d.tiles ((s.grid? grid).elim 0 (·.tenant)) == some m)
    let best := if one then (ok.filter fun c => decide (d.groups ≤ s.clusterRoom c d)).take 1 else ok
    let ps := s.spread d best ids
    if seatsAll d.groups ps then some (m, ps) else s.tryPlace grid d cs one ms

/-- R297, R299, R337: the dies that a class 2 gang may span with die d: of its grid's dies those that serve, the nearest first, each
reached from and reaching every one before it. DEDUCED: log 42. -/
def State.spanDies (s : State) (d : Nat) (dies : List Nat) : List Nat :=
  ((nearDies d).filter fun e => decide (e ∈ dies) && (e == d || (s.dist e).up)).foldl
    (fun l e => if l.all fun x => s.linked x e then l ++ [e] else l) []

/-- R299: where a gang of a grid can be placed by die d: in one cluster, in several of the die, or on the nearest dies of
the grid; a gang restored keeps its mask. The choice among clusters is open (DESIGN CHOICE, log 1). -/
def State.planGang (s : State) (d grid : Nat) (k : KDesc) (mask : Option Byte) : Option (Byte × List Place) :=
  let tenant := (s.grid? grid).elim 0 (·.tenant)
  let own := anyOrder s.fresh (clustersOf d)
  let masks := fun (cs : List Nat) =>
    match mask with
    | some m => [m]
    | none => (cs.filterMap fun c => s.maskFor c k.tiles tenant).dedup
  match s.tryPlace grid k own true (masks own) with
  | some p => some p
  | none =>
    if k.cls = 0 then none else
    match s.tryPlace grid k own false (masks own) with
    | some p => some p
    | none =>
      if k.cls = 1 then none else
      let dies := s.spanDies d ((s.grid? grid).elim [] (·.dies))
      let all := own ++ (dies.filter (· != d)).flatMap clustersOf
      (s.tryPlace grid k all false (masks all)).bind fun p => if (p.2.headD ⟨0, 0, []⟩).cluster / 16 = d then some p else none

/-! ### Admission (R28, R45, R58, R72, R290, R300) -/

/-- R28, R290: a group of a grid as it is admitted; `seq` is the latest token of its die (R348). -/
def newGroup (g : Grid) (grid gang index sq stamp seq : Nat) : Group :=
  { lanes := g.desc.lanes, regs := g.desc.regs, tenant := g.tenant, asn := g.asn, grid := BitVec.ofNat 32 grid,
    gang := BitVec.ofNat 32 gang, index := BitVec.ofNat 4 index, depth := BitVec.ofNat 4 g.depth, v := [], p := [], x := [],
    s := g.args.zipIdx.foldl (fun m e => m.set 0 (e.2 + 1) e.1) [], flags := 0, idx := [], ob := 1, cb := 0, batch := [],
    frags := [(0, { pc := g.desc.entry, hdr := g.desc.entry, inClause := false, reread := false, words := [],
                    mask := BitVec.ofNat 1024 (2 ^ g.desc.lanes - 1), fmt := g.desc.fmt, join := none, state := .ready, hold := .none,
                    windows := [], replay := 0, stamp := stamp, run := 0, call := none })]
    joins := [], loads := [], sq := sq, engs := [], halt := none, nextOp := 0, stamp := stamp, instrs := 0, demand := g.demand,
    seqGiven := if g.demand then some seq else none, saving := false, stalled := false }

/-- R45: a group is admitted with a store queue of its own. That of a child grid finds no old V copy in its core's L1: what its parent
stored before the LAUNCH is ordered before it (R203; DEDUCED, log 59). -/
def State.admitGroup (s : State) (g : Grid) (grid gang : Nat) (e : Nat × Nat) : State :=
  let q := s.nextQueue
  let x := newGroup g grid gang e.1 q s.fresh (s.die (gidDie e.2)).tokSeq
  let s := if g.parent.isSome then s.acquire (gidCore e.2) else s
  let sq : StoreQ :=
    { gid := e.2, tenant := g.tenant, asn := g.asn, grid := x.grid, gang := x.gang, live := true, saved := false, retIdx := none, ents := [] }
  { (s.putGroup e.2 x).putQueue q sq with nextQueue := q + 1, fresh := s.fresh + 1 }

/-- R72, R300: a cluster takes a gang's grant, filled with 0 or with undefined bytes (DESIGN CHOICE, log 3). -/
def State.takeGrant (s : State) (k : KDesc) (grid gang : Nat) (p : Place) : State :=
  let s := s.modCluster p.cluster fun x =>
    let x := { x with grants := x.grants ++ [⟨BitVec.ofNat 32 grid, BitVec.ofNat 32 gang, p.base, k.scratch⟩] }
    if k.scratch = 0 then x else x.fill p.base (p.base + k.scratch) (if k.zero then none else some s.fresh)
  { s with fresh := s.fresh + 1 }

/-- The groups of a placement as a gang holds them. -/
def gangGroups (n : Nat) (ps : List Place) : List (Option Nat) :=
  (List.range n).map fun i => ((ps.flatMap (·.groups)).find? fun e => e.1 == i).map (·.2)
def gangPlaces (ps : List Place) : List (Nat × Nat × BitVec 16) :=
  ps.map fun p => (p.cluster, p.base, p.groups.foldl (fun m e => m ||| BitVec.twoPow 16 e.1) 0)

/-- R45, R299: the gang is placed: every group is admitted at once. -/
def State.admitGang (s : State) (d grid gang : Nat) (g : Grid) (m : Byte) (ps : List Place) : State :=
  let x : Gang :=
    { st := .placed, why := .none, groups := gangGroups g.desc.groups ps, retired := 0, places := gangPlaces ps, tmask := m, bgen := 0,
      barr := 0, dieMsgs := 0, relWait := 0, root := d, haltClock := [], since := 0, instrs := 0, ksteps := 0, childGrids := [], saves := [] }
  let s := s.modGrid grid fun g => { g with gangs := g.gangs.put gang x }
  let s := ps.foldl (fun s p => p.groups.foldl (fun s e => s.admitGroup g grid gang e) (s.takeGrant g.desc grid gang p)) s
  let cs := ps.map (·.cluster)
  let s := cs.foldl (fun s c => s.modDist (c / 16) fun x => { x with blocked := x.blocked.filter fun b => b.2 != c || b.1 == grid }) s
  s.modDist d fun x =>
    { x with tokens := x.tokens.filter (· != (grid, gang)), waits := x.waits.erase grid }

/-! ### Tickets, steals and placement (R297 to R299) -/

/-- R298: the peers of a die for a grid, in the order in which it tries them. -/
def peersOf (d : Nat) (dies : List Nat) : List Nat := (nearDies d).filter fun e => e != d && decide (e ∈ dies)

/-- R298: the die asks its next peer for tickets; with none left it takes no more gangs of the grid. -/
def State.steal (s : State) (ev : Instr) (d grid : Nat) (g : Grid) (t : Ticket) : State :=
  if t.stealing then s else
  match (peersOf d g.dies).find? fun e => decide (e ∉ t.tried) && s.linked d e with
  | none => s.dropDue ev
  | some e =>
    (s.modDist d fun x => { x with tickets := x.tickets.put grid { t with stealing := true } }).addDue
      (.stealRequest (BitVec.ofNat 6 e) (BitVec.ofNat 32 grid) (BitVec.ofNat 6 d))

/-- R303: the record of a grid waits for room on a die, from this clock on. -/
def State.waitsForRoom (s : State) (d id : Nat) (g : Grid) : State :=
  match g.queue with
  | some (q, _, _) =>
    if (s.dist d).waits.has id then s
    else (s.modDist d fun x => { x with waits := x.waits.put id (s.clock d) }).addDue (.preemptWaitTimeout (BitVec.ofNat 6 d) (BitVec.ofNat 10 q))
  | none => s

/-- R299, R306: a gang of the tenant that is to be restored waits for room on the die. -/
def State.restoresFirst (s : State) (d : Nat) (g : Grid) : Bool :=
  (s.dist d).restores.any fun r => ((s.grid? r.1).map fun q => q.tenant == g.tenant).getD false

/-- R297: TICKET_TAKE: with room for a gang, and none taken and not yet placed, the next index is taken. -/
def execTicketTake (die : BitVec 6) (grid : Word) (s : State) : Out :=
  let d := die.toNat
  let id := grid.toNat
  let ev := Instr.ticketTake die grid
  whenUp d ev (fun s =>
    match s.grid? id, (s.dist d).tickets.find id with
    | some g, some t =>
      if g.aborted then s.dropDue ev
      else if s.restoresFirst d g || ((s.dist d).tokens.any fun x => x.1 == id) then s
      else
        let take := fun (gang : Nat) (t : Ticket) =>
          if (s.planGang d id g.desc none).isSome then
            (s.modDist d fun x => { x with tickets := x.tickets.put id t, tokens := x.tokens ++ [(id, gang)] }).addDue
              (.gangPlacement die grid (BitVec.ofNat 32 gang))
          else s.waitsForRoom d id g
        match t.front with
        | i :: is => take i { t with front := is }
        | [] => if t.c < t.h then take (t.rank + g.dies.length * t.c) { t with c := t.c + 1 } else s.steal ev d id g t
    | _, _ => s.dropDue ev) s

/-- R298: STEAL_REQUEST: the peer hands over half of what it has left, rounded down, or refuses; one
that is not reached is answered with an error, which counts as a refusal (R374; DEDUCED, log 52). -/
def execStealRequest (die : BitVec 6) (grid : Word) (thief : BitVec 6) (s : State) : Out :=
  let d := die.toNat
  let id := grid.toNat
  let ev := Instr.stealRequest die grid thief
  atDist d ev (fun s =>
    let s := s.dropDue ev
    let refuse := s.addDue (.stealReply thief grid die 0 0 0)
    if !s.linked d thief.toNat then (s.notSent thief.toNat d).addDue (.stealReply thief grid die 0 0 0) else
    match (s.dist d).tickets.find id with
    | none => refuse
    | some t =>
      let m := (t.h - t.c) / 2
      if m = 0 then refuse
      else
        let h := t.h - m
        let s := s.modDist d fun x => { x with tickets := x.tickets.put id { t with h := h } }
        let q := ((s.grid? id).bind fun g => g.queue.map (·.1)).getD 0
        (s.journal d 7 q id (h * 2 ^ 32 + m)).addDue (.stealReply thief grid die t.rank h (h + m))) s

/-- R298: STEAL_REPLY: tickets `lo` to `hi` of a rank, or a refusal. -/
def execStealReply (die : BitVec 6) (grid : Word) (peer : BitVec 6) (rank lo hi : Nat) (s : State) : Out :=
  let d := die.toNat
  let id := grid.toNat
  let ev := Instr.stealReply die grid peer rank lo hi
  whenUp d ev (fun s =>
    let s := s.dropDue ev
    match (s.dist d).tickets.find id with
    | none => s
    | some t =>
      let t := if lo < hi then { t with rank := rank, c := lo, h := hi, tried := [], stealing := false }
        else { t with tried := t.tried ++ [peer.toNat], stealing := false }
      (s.modDist d fun x => { x with tickets := x.tickets.put id t }).addDue (.ticketTake die grid)) s

/-- The peers that a placement spans. -/
def peerDies (d : Nat) (ps : List Place) : List Nat := ((ps.map fun p => p.cluster / 16).dedup).filter (· != d)

/-- R299: GANG_PLACEMENT: a gang whose ticket the die holds is placed; one that spans dies is first reserved. -/
def execGangPlacement (die : BitVec 6) (grid gang : Word) (s : State) : Out :=
  let d := die.toNat
  let id := grid.toNat
  let ev := Instr.gangPlacement die grid gang
  whenUp d ev (fun s =>
    match s.grid? id with
    | none => s.dropDue ev
    | some g =>
      if (id, gang.toNat) ∉ (s.dist d).tokens then s.dropDue ev
      else if (s.dist d).pending.any fun p => p.grid == id && p.gang == gang.toNat then s
      else if s.restoresFirst d g then s
      else
        match s.planGang d id g.desc none with
        | none => s.waitsForRoom d id g
        | some (m, ps) =>
          let peers := peerDies d ps
          if peers.isEmpty then (s.admitGang d id gang.toNat g m ps).dropDue ev
          else
            let s := s.modDist d fun x => { x with pending := x.pending ++ [⟨id, gang.toNat, m, ps, [], []⟩] }
            peers.foldl (fun s e => s.addDue (.placementReservation (BitVec.ofNat 6 e) die grid gang .reserve)) s) s

/-- R299: a placement over dies on its way at die d. -/
def Dist.pendingOf (x : Dist) (grid gang : Nat) : Option Pending := x.pending.find? fun p => p.grid == grid && p.gang == gang
def State.modPending (s : State) (d grid gang : Nat) (f : Pending → Pending) : State :=
  s.modDist d fun x => { x with pending := x.pending.map fun p => if p.grid = grid ∧ p.gang = gang then f p else p }
def State.dropPending (s : State) (d grid gang : Nat) : State :=
  s.modDist d fun x => { x with pending := x.pending.filter fun p => !(p.grid == grid && p.gang == gang) }

/-- R299: whether the room of a placement on a peer is still free. -/
def State.stillFree (s : State) (k : KDesc) (m : Byte) (ps : List Place) : Bool :=
  ps.all fun p =>
    !(s.cluster p.cluster).out && s.tilesFree p.cluster m
      && ((s.padUsed p.cluster).all fun u => decide (p.base + k.scratch ≤ u.1) || decide (u.1 + u.2 ≤ p.base) || u.2 == 0)
      && (p.groups.all fun e => decide (e.2 % 64 ∈ s.freeSlots (gidCore e.2)))
      && (List.range 4).all fun i => decide ((p.groups.filter fun e => gidCore e.2 == 4 * p.cluster + i).length ≤ s.coreRoom (4 * p.cluster + i) k)

/-- R342: no mode change is awaited in the clusters of a placement that takes tiles. -/
def State.modesSettled (s : State) (m : Byte) (ps : List Place) : Bool :=
  m == 0 || ps.all fun p => (s.die (p.cluster / 16)).mmodeReq.getLsbD (p.cluster % 16) == (s.die (p.cluster / 16)).mmodeCur.getLsbD (p.cluster % 16)

/-- R299: PLACEMENT_RESERVATION: the peer reserves its part, then commits it; a part that it cannot have aborts the
reservation, and the placing die tries again. With every part committed the gang is placed. The replies are held with the request
while the placing die's distributor is down (R407; DEDUCED, log 41). -/
def execPlacementReservation (peer die : BitVec 6) (grid gang : Word) (stage : ResStage) (s : State) : Out :=
  let d := die.toNat
  let id := grid.toNat
  let n := gang.toNat
  let p := peer.toNat
  let ev := Instr.placementReservation peer die grid gang stage
  let send := fun (stage : ResStage) (s : State) (e : Nat) => s.addDue (.placementReservation (BitVec.ofNat 6 e) die grid gang stage)
  atDist p ev (fun s =>
    if !(s.dist d).up then s.holdEvent d ev else
    let s := s.dropDue ev
    match s.grid? id, (s.dist d).pendingOf id n with
    | some g, some w =>
      let peers := peerDies d w.places
      let mine := w.places.filter fun x => x.cluster / 16 == p
      let abort := fun (s : State) => (w.reserved.filter (· != p)).foldl (send .abort) (s.dropPending d id n)
      if !s.linked d p then abort (s.notSent d p) else
      match stage with
      | .reserve =>
        if g.aborted || !s.stillFree g.desc w.tmask mine then abort s
        else
          let s := s.modPending d id n fun w => { w with reserved := w.reserved ++ [p] }
          if peers.all fun e => e == p || decide (e ∈ w.reserved) then peers.foldl (send .commit) s else s
      | .commit =>
        if g.aborted || !s.modesSettled w.tmask w.places || (w.places.any fun x => (s.cluster x.cluster).out) then abort s
        else if peers.all fun e => e == p || decide (e ∈ w.committed) then
          ((s.dropPending d id n).admitGang d id n g w.tmask w.places).dropDue (.gangPlacement die grid gang)
        else s.modPending d id n fun w => { w with committed := w.committed ++ [p] }
      | .abort => s
    | _, _ => s) s

end Sys2Proof.Machine
end

