-- ==== Sys2Proof/Machine/Gangs.lean ====
section
/-!
DEFINITION. The end of groups and gangs, halts, pre-emption, flush and abort (02 R31, R45, 12 R302 to R307, 19 R402,
R403).
-/

namespace Sys2Proof.Machine

/-! ### Handles (R317, R320, R403) -/

/-- R315, R317: a record is retired: its handle is no longer live, and its space may be reclaimed. -/
def Cluster.retireHandle (x : Cluster) (h now : Nat) : Cluster :=
  let mark := fun (r : RingRec) => if r.handle = h ∧ r.kind ≠ 0 then { r with retired := true } else r
  let x := { x with
    handles := x.handles.erase h
    waiting := x.waiting.filter fun w => w.handle != h
    rings := x.rings.map fun (e : Nat × RingSlot) => (e.1, ({ e.2 with recs := e.2.recs.map mark }).reclaim) }
  x.drainRings now

/-- R320, R403: the call handles of a group retire. -/
def State.retireCalls (s : State) (gid : Nat) : State :=
  let now := s.clock (gidDie gid)
  s.modCluster (gidCluster gid) fun x =>
    ((x.handles.filter fun e => e.2.gid == gid && (e.2.kind == 1 || e.2.kind == 2 || e.2.kind == 5)).map (·.1)).foldl
      (fun x h => x.retireHandle h now) x

/-! ### A group leaves its core -/

/-- R28, R278, R288: the group's slot, registers, entries and operations are freed. -/
def State.dropGroup (s : State) (gid : Nat) : State :=
  match s.group? gid with
  | none => s
  | some g =>
    let c := gidCluster gid
    let mine := (s.cluster c).table.filter fun r => r.gid == gid
    let s := (mine.map (·.ticket) ++ g.engs.map (·.ticket)).foldl (fun s t => s.endPower (c / 16) t) s
    let s := s.modCluster c fun x =>
      { x with table := x.table.filter (fun r => r.gid != gid), staged := x.staged.filter fun e => e.gid != gid }
    let s := s.endTurn gid
    let s := s.modGang g.grid.toNat g.gang.toNat fun x =>
      { x with instrs := x.instrs + g.instrs, groups := x.groups.map fun e => if e = some gid then none else e }
    ({ s with groups := s.groups.erase gid }).settleCluster c

/-- R47, R269: the gang's grants, tiles and awaited identities are freed; an array that waits for its tiles may now change mode. -/
def State.freeRoom (s : State) (grid gang : Nat) (x : Gang) : State :=
  x.places.foldl (fun s p =>
    let s := s.modCluster p.1 fun c =>
      { c with grants := c.grants.filter fun g => !(g.grid.toNat == grid && g.gang.toNat == gang)
               restored := c.restored.filter fun e => !(e.2.grid == grid && e.2.gang == gang) }
    let d := s.die (p.1 / 16)
    if d.mmodeReq.getLsbD (p.1 % 16) = d.mmodeCur.getLsbD (p.1 % 16) then s else s.addDue (.arrayModeSwitch (BitVec.ofNat 10 p.1))) s

/-- R45, R50: a gang is no more. -/
def State.endGang (s : State) (grid gang : Nat) (retired : Bool) : State :=
  match s.gang? grid gang with
  | none => s
  | some x =>
    let s := s.freeRoom grid gang x
    (s.modGrid grid fun g => { g with gangs := g.gangs.erase gang, retiredGangs := g.retiredGangs + if retired then 1 else 0 }).addDue
      (.gridRetire (BitVec.ofNat 32 grid))

/-- R383: the core's record of a group that retires: its 16 newest entries. -/
def State.recordRetired (s : State) (gid : Nat) (g : Group) : Nat × State :=
  let k := gidCore gid
  let n := (s.core k).retSerial
  (n, s.modCore k fun x =>
    let l := x.retired ++ [⟨gid, g.tenant, g.grid, g.gang, n⟩]
    { x with retired := l.drop (l.length - 16), retSerial := n + 1 })

/-- R45, R407: every group of the gang has retired: its retirement is an event of its root die's distributor, held while that is
down. -/
def State.gangOver (s : State) (grid gang root : Nat) : State :=
  if (s.dist root).up then s.endGang grid gang true
  else s.modDist root fun x => { x with held := x.held ++ [.gangEnd grid gang] }

/-- R31, R383, R384: a group retires; stores it leaves behind keep its entry in the core's record. -/
def State.retireGroup (s : State) (gid : Nat) (g : Group) : State :=
  let (n, s) := s.recordRetired gid g
  let left := ((s.queue? g.sq).map fun q => !q.ents.isEmpty).getD false
  let s := if left then s.modQueue g.sq fun q => { q with live := false, retIdx := some n } else { s with queues := s.queues.erase g.sq }
  let grid := g.grid.toNat
  let gang := g.gang.toNat
  let s := (s.dropGroup gid).modGang grid gang fun x => { x with retired := x.retired ||| BitVec.twoPow 16 g.index.toNat }
  let s := s.checkGang grid gang
  match s.gang? grid gang with
  | some x => if (List.range x.groups.length).all fun i => x.retired.getLsbD i then s.gangOver grid gang x.root else s
  | none => s

/-- R407: the group is the last of its gang, and there is no room to hold the gang's retirement. -/
def State.retireBlocked (s : State) (g : Group) : Bool :=
  match s.gang? g.grid.toNat g.gang.toNat with
  | none => false
  | some x => !(s.dist x.root).up && decide (4096 ≤ (s.dist x.root).held.length)
      && (List.range x.groups.length).all fun i => i == g.index.toNat || x.retired.getLsbD i

/-- R31, R45, R407: GROUP_RETIRE: every lane has exited, and lc and ec are 0. The group frees its slot at once; the gang's retirement
goes to the distributor. -/
def execGroupRetire (gv : Gid) (s : State) : Out :=
  let gid := gv.toNat
  let ev := Instr.groupRetire gv
  if ev ∉ s.due then .next s else
  match s.group? gid with
  | none => .next (s.dropDue ev)
  | some g =>
    if !(g.frags.isEmpty && g.lc == 0 && s.ec gid g == 0) then .next (s.dropDue ev)
    else if s.retireBlocked g then .next s
    else .next ((s.dropDue ev).retireGroup gid g)

/-! ### The halt of a gang (R302) -/

/-- R302: a group stops issuing; its queued loops are suspended. -/
def State.haltForSave (s : State) (gid : Nat) : State :=
  match s.group? gid with
  | none => s
  | some g =>
    let h := g.halt.getD ⟨0, 0, 0, true, false⟩
    let s := (s.putGroup gid { g with halt := some { h with save := true } }).stopEngine gid true
    s.endTurn gid

/-- The resident groups of a gang. -/
def Gang.gids (x : Gang) : List Nat := x.groups.filterMap fun e => e

/-- R302, R402: a halt of a gang is requested. -/
def State.haltGang (s : State) (grid gang : Nat) (why : HaltWhy) : State :=
  match s.gang? grid gang with
  | none => s
  | some x =>
    let s := x.gids.foldl (fun s g => s.haltForSave g) s
    let s := s.modGang grid gang fun x => { x with st := .halting, why := why, haltClock := x.dies.foldl (fun m d => m.put d (s.clock d)) [] }
    let s := s.addDue (.haltComplete (BitVec.ofNat 32 grid) (BitVec.ofNat 32 gang))
    x.dies.foldl (fun s d => s.addDue (.haltTimeout (BitVec.ofNat 6 d) (BitVec.ofNat 32 grid) (BitVec.ofNat 32 gang))) s

/-- R302: a parked access is withdrawn from the quag, and from the walks under way; an entry without members is freed. -/
def State.withdraw (s : State) (d : Nat) (who : MemRef) : State :=
  let s := s.modDie d fun x =>
    let q : SMap Quag := x.quag.map fun e => (e.1, { e.2 with members := e.2.members.filter fun m => !decide (m.1 = who) })
    { x with quag := q.filter fun e => !e.2.members.isEmpty
             walkQ := x.walkQ.filter fun w => !decide (w.who = who) }
  let mine := fun (e : Instr) => match e with | .pageWalk _ _ _ w => decide (w = who) | _ => false
  ({ s with due := s.due.filter fun e => !mine e }).dropAnswers who

/-- R302: a load on which its fragment stands is parked: some lane is, and every other lane that has not been answered is too, or waits
behind what is parked (DEDUCED, log 39). -/
def State.loadParked (s : State) (gid : Nat) (g : Group) (o : LoadOp) : Bool :=
  let who := MemRef.load (BitVec.ofNat 18 gid) o.id
  let parked := fun (a : LaneAcc) => a.spans.any fun p => p.data.isNone && s.parkedAt (gidDie gid) g.asn (pageOf p.va) who
  let behind := fun (a : LaneAcc) => !s.mayLoad g o || o.behind a || a.spans.any fun p => p.pa.any fun pa => s.aliasOpen gid g o (pa / 128)
  let left := o.lanes.filter fun a => a.st == .need
  left.any parked && left.all fun a => parked a || behind a

/-- R61, R67, R302, R378, R381: a parked load is withdrawn: its fragment stands at it, the lanes not answered, aborted or poisoned as
replay mask; the records of the failed ones are written, the flags of the lanes answered stand, and an enabled one is recorded. -/
def State.withdrawLoad (s : State) (gid id : Nat) : State :=
  let s := s.formPoison gid id
  match s.load? gid id with
  | none => s
  | some o =>
    let lanes := (o.lanes.filter fun a => a.st != .done).map (·.lane)
    let s := (s.withdraw (gidDie gid) (.load (BitVec.ofNat 18 gid) id)).dropDue (.loadDataReturn (BitVec.ofNat 18 gid) id .clean)
    let s := s.modGroup gid fun g =>
      let frags : SMap Frag := g.frags.map fun e => (e.1, { e.2 with windows := e.2.windows.filter fun w => w.op != id })
      ({ g with loads := g.loads.filter (fun l => l.id != id), flags := g.flags ||| o.flags, frags := frags }).standAt o (g.sldFrag o) lanes
    (s.loadFaults gid o).loadTrap gid o

/-- R67: a fragment whose fetch, IPIN or LAUNCH record is parked is withdrawn likewise; a fetch and an IPIN are made afresh. -/
def State.withdrawFrag (s : State) (gid : Nat) (e : Nat × Frag) : State :=
  let gv : Gid := BitVec.ofNat 18 gid
  let fv := BitVec.ofNat 5 e.1
  let d := gidDie gid
  let again := fun (s : State) => s.modGroup gid fun g => g.modFrag e.1 fun f => { f with state := .ready, hold := .none }
  match e.2.hold with
  | .fetch => again (s.withdraw d (.fetch gv fv))
  | .ipin _ _ _ => again ((s.withdraw d (.ipin gv fv)).dropDue (.instructionFetchFill gv fv))
  | .icinv _ _ _ => again (s.dropDue (.icinvDone gv fv))
  | .launch _ _ _ [] _ _ =>
    if e.2.state = .memPark then
      ((s.withdraw d (.launchRec gv fv)).dropDue (.launchRecordAccept (BitVec.ofNat 6 d) (.group gv fv))).standLaunch gid e.1
    else s
  | _ => s

/-- R302: what is parked of a halted group is withdrawn. -/
def State.withdrawGroup (s : State) (gid : Nat) : State :=
  match s.group? gid with
  | none => s
  | some g =>
    let s := (g.loads.filter fun o => s.loadParked gid g o).foldl (fun s o => s.withdrawLoad gid o.id) s
    g.frags.foldl (fun s e => s.withdrawFrag gid e) s

/-- R67, R302, R382: a store queue in which what is left is parked, with every push answered: of the entry whose turn it is every page has
translated or is parked, and one is parked. -/
def State.storesQuiet (s : State) (q : Nat) (x : StoreQ) : Bool :=
  (x.ents.all fun e => !e.performed) &&
    match x.turn with
    | none => true
    | some e =>
      let parked := fun (v : Nat) => s.dies.any fun d => s.parkedAt d.1 x.asn v (.store q e.id)
      e.pages.any parked && e.pages.all fun v => parked v || e.leaves.any fun p => p.1 == v

/-- R67: a halted group can be saved; one on a die that is fenced or in a cluster out of service does nothing more (R374). -/
def State.groupQuiet (s : State) (gid : Nat) (g : Group) : Bool :=
  s.deadCluster (gidCluster gid) || g.halt.isSome && g.loads.isEmpty && g.engs.isEmpty
    && ((s.queue? g.sq).map fun x => s.storesQuiet g.sq x).getD true
    && ((s.cluster (gidCluster gid)).table.all fun r => r.gid != gid || r.st != .running)
    && g.frags.all fun e => match e.2.hold with | .launch _ _ _ _ _ _ => false | _ => true

/-- R302: no message of the gang's barrier is on its way. -/
def State.barrierQuiet (s : State) (grid gang : Nat) : Bool :=
  s.due.all fun e =>
    match e with
    | .gangBarrierArrivalMessage a b _ | .gangBarrierReleaseMessage a b _ => !(a.toNat == grid && b.toNat == gang)
    | _ => true

/-- R304, R403: a group is discarded: its call handles retire, and parked stores are left to be answered with no group. -/
def State.discardGroup (s : State) (gid : Nat) : State :=
  match s.group? gid with
  | none => s
  | some g =>
    let left := ((s.queue? g.sq).map fun q => !q.ents.isEmpty).getD false
    let s := if left then s.modQueue g.sq fun q => { q with live := false } else { s with queues := s.queues.erase g.sq }
    (s.retireCalls gid).dropGroup gid

/-- R403: stores parked for groups of a gang that was saved are left to be answered with no group. -/
def State.orphanStores (s : State) (grid gang : Nat) : State :=
  let mine := fun (q : StoreQ) => q.saved && q.grid.toNat == grid && q.gang.toNat == gang
  let qs : SMap StoreQ := s.queues.map fun e => if mine e.2 then (e.1, { e.2 with saved := false }) else e
  { s with queues := qs.filter fun e => !(!e.2.live && !e.2.saved && e.2.ents.isEmpty) }

/-- R304, R403: a halted gang is discarded whole. -/
def State.discardGang (s : State) (grid gang : Nat) : State :=
  match s.gang? grid gang with
  | none => s
  | some x => ((x.gids.foldl (fun s g => s.discardGroup g) s).orphanStores grid gang).endGang grid gang false

/-- R304: the index of a flushed gang returns to the front of its die's tickets. -/
def State.returnTicket (s : State) (d grid gang : Nat) : State :=
  (s.modDist d fun x =>
    match x.tickets.find grid with
    | some t => { x with tickets := x.tickets.put grid { t with front := gang :: t.front } }
    | none => x).addDue (.ticketTake (BitVec.ofNat 6 d) (BitVec.ofNat 32 grid))

/-- R345: what a tenant switch has freed, if the gang is one it waits for. DEDUCED: log 36. -/
def State.noteFreed (s : State) (grid gang : Nat) (x : Gang) (size : Nat) : State :=
  { s with dies := s.dies.map fun (e : Nat × Die) =>
      match e.2.dist.switch with
      | some w =>
        let mine := (x.places.filter fun p => p.1 / 16 == e.1).map fun p => (p.1, p.2.1, size, x.tmask)
        let w' : Switch := { w with gangs := w.gangs.erase (grid, gang), freed := w.freed ++ mine }
        if (grid, gang) ∈ w.gangs then (e.1, { e.2 with dist := { e.2.dist with switch := some w' } }) else e
      | none => e }

/-- R305, R306: every group of the gang is saved, and its record is written: what it held is freed. DEDUCED: log 23. -/
def State.gangSaved (s : State) (grid gang size : Nat) : State :=
  match s.gang? grid gang with
  | none => s
  | some x =>
    let s := s.noteFreed grid gang x size
    let s := s.freeRoom grid gang x
    let s := x.dies.foldl (fun s d => s.dropDue (.haltTimeout (BitVec.ofNat 6 d) (BitVec.ofNat 32 grid) (BitVec.ofNat 32 gang))) s
    s.modGang grid gang fun x => { x with st := .saved, places := [] }

/-- R302, R304, R307, R403: what follows a halt that is complete. A gang flushed that has launched a grid meanwhile is not flushed but
saved (DEDUCED, log 42); a restored gang of which no group is there yet is saved as it was (DEDUCED, log 23). -/
def State.afterHalt (s : State) (grid gang : Nat) (x : Gang) : State :=
  let halted := fun (s : State) =>
    if x.gids.isEmpty then s.gangSaved grid gang (((s.grid? grid).map fun g => g.desc.scratch).getD 0)
    else s.modGang grid gang fun x => { x with st := .halted }
  match x.why with
  | .flush => if x.childGrids.isEmpty then (s.discardGang grid gang).returnTicket x.root grid gang else halted s
  | .abort => s.discardGang grid gang
  | _ => halted s

/-- R302: HALT_COMPLETE: parked loads are withdrawn; with every group as R67 asks, the halt is complete. -/
def execHaltComplete (grid gang : Word) (s : State) : Out :=
  let id := grid.toNat
  let n := gang.toNat
  let ev := Instr.haltComplete grid gang
  match s.gang? id n with
  | none => .next (s.dropDue ev)
  | some x =>
    atEnd x.root ev (fun s =>
      if x.st ≠ .halting then s.dropDue ev
      else
        let gids := x.gids
        let s := gids.foldl (fun s g => (s.withdrawGroup g).checkRetire g) s
        let quiet := gids.all fun g => ((s.group? g).map fun y => s.groupQuiet g y).getD true
        if quiet && s.barrierQuiet id n then (s.dropDue ev).afterHalt id n ((s.gang? id n).getD x) else s) s

/-! ### Pre-emption (R303, R304) -/

/-- R303: the progress estimate of a gang. DEDUCED: log 42. -/
def State.progress (s : State) (g : Grid) (x : Gang) : Nat :=
  let ir := x.instrs + ((x.groups.filterMap fun e => e.bind fun gid => (s.group? gid).map (·.instrs)).sum)
  let a := if g.desc.wi = 0 then 0 else 256 * ir / g.desc.wi
  let b := if g.desc.wk = 0 then 0 else 256 * x.ksteps / g.desc.wk
  min 256 (max a b)

/-- R303: a lane of the gang is in call-wait. -/
def State.gangCalls (s : State) (x : Gang) : Bool :=
  x.groups.any fun e => ((e.bind fun gid => s.group? gid).map fun g => g.anyIn .callWait).getD false

/-- R303: PREEMPTION: the first method that applies. DEDUCED: log 42. -/
def execPreemption (die : BitVec 6) (grid gang : Word) (splitSave : Bool) (s : State) : Out :=
  let d := die.toNat
  let id := grid.toNat
  let n := gang.toNat
  let ev := Instr.preemption die grid gang splitSave
  let go := fun (s : State) =>
    let s := s.dropDue ev
    match s.grid? id, s.gang? id n with
    | some g, some x =>
      if x.st ≠ .placed ∧ ¬(x.st = .draining ∧ splitSave = true) then s
      else
        let p := s.progress g x
        if splitSave then s.haltGang id n .save
        else if 192 ≤ p then
          let s := s.modGang id n fun x => { x with st := .draining, since := s.clock d }
          let s := x.places.foldl (fun s q => s.modDist (q.1 / 16) fun y => { y with blocked := y.blocked ++ [(id, q.1)] }) s
          s.addDue (.drainTimeout die grid gang)
        else if p < 64 && g.desc.idem && x.childGrids.isEmpty && !s.gangCalls x then s.haltGang id n .flush
        else s.haltGang id n .save
    | _, _ => s
  .next (if (s.dist d).up then go s else s.holdEvent d ev)

/-- R303: the tenant and the priority of a grid's record, if it came from queue `q`. -/
def State.waitOf (s : State) (q id : Nat) : Option (BitVec 12 × Nat) :=
  (s.grid? id).bind fun g => g.queue.bind fun x => if x.1 = q then some (g.tenant, x.2.2) else none

/-- R303: the gangs placed on a die that a record of a tenant, from a queue of a priority, may pre-empt, with their priority. -/
def State.preemptible (s : State) (d : Nat) (w : BitVec 12 × Nat) : List (Nat × Nat × Nat) :=
  s.grids.flatMap fun e =>
    match e.2.queue with
    | some (_, _, p) =>
      if e.2.tenant = w.1 ∧ p < w.2 then
        (e.2.gangs.filter fun x => x.2.st == .placed && x.2.places.any fun y => y.1 / 16 == d).map fun x => (p, e.1, x.1)
      else []
    | none => []

/-- R303: PREEMPT_WAIT_TIMEOUT: a record of a queue of this number has waited 65,536 cycles for room on the die: a gang of its
tenant from a queue of lower priority is pre-empted; which of several of the lowest priority is open (DESIGN CHOICE, log 1).
DEDUCED: log 42. -/
def execPreemptWaitTimeout (die : BitVec 6) (qv : BitVec 10) (s : State) : Out :=
  let d := die.toNat
  let ev := Instr.preemptWaitTimeout die qv
  whenUp d ev (fun s =>
    let mine := (s.dist d).waits.filter fun e => (s.waitOf qv.toNat e.1).isSome
    if mine.isEmpty then s.dropDue ev else
    match mine.find? fun e => decide (e.2 + 65536 ≤ s.clock d) with
    | none => s
    | some e =>
      match (s.waitOf qv.toNat e.1).bind fun w => leastBy (fun x : Nat × Nat × Nat => x.1) s.fresh (s.preemptible d w) with
      | none => s
      | some x =>
        (s.modDist d fun y => { y with waits := y.waits.put e.1 (s.clock d) }).addDue
          (.preemption die (BitVec.ofNat 32 x.2.1) (BitVec.ofNat 32 x.2.2) false)) s

/-- R303: DRAIN_TIMEOUT: a draining gang that has not retired in 1,048,576 cycles is saved. -/
def execDrainTimeout (die : BitVec 6) (grid gang : Word) (s : State) : Out :=
  let ev := Instr.drainTimeout die grid gang
  whenUp die.toNat ev (fun s =>
    match s.gang? grid.toNat gang.toNat with
    | some x =>
      if x.st ≠ .draining then s.dropDue ev
      else if s.clock die.toNat < x.since + 1048576 then s
      else (s.dropDue ev).haltGang grid.toNat gang.toNat .save
    | none => s.dropDue ev) s

/-- R402: HALT_TIMEOUT: the record of severity 2 that aborts the tenant's grids on the die. -/
def execHaltTimeout (die : BitVec 6) (grid gang : Word) (s : State) : Out :=
  let d := die.toNat
  let ev := Instr.haltTimeout die grid gang
  if ev ∉ s.due then .next s else
  match s.grid? grid.toNat, s.gang? grid.toNat gang.toNat with
  | some g, some x =>
    if x.st ≠ .halting then .next (s.dropDue ev)
    else if s.clock d < (x.haltClock.find d).getD 0 + (s.die d).qtmoLimit * 4096 + 2 ^ 24 then .next s
    else
      let c := ((x.places.map (·.1)).filter fun c => c / 16 == d).foldl min (16 * d + 15)
      .next ((s.dropDue ev).record d (mkRec 2 0x13 3 2 g.tenant.toNat 0 (unitOf 1 c) 0 0 (grid.toNat * 2 ^ 32 + gang.toNat)))
  | _, _ => .next (s.dropDue ev)

/-! ### Abort (R403) -/

/-- R403: one grid is aborted: no further gang, its gangs halted and discarded. -/
def State.abortGrid (s : State) (id : Nat) : State :=
  match s.grid? id with
  | none => s
  | some g =>
    if g.completing || g.aborted then s else
    let s := s.putGrid id { g with aborted := true }
    let s := g.dies.foldl (fun s d => s.modDist d fun x =>
      { x with tickets := x.tickets.erase id, tokens := x.tokens.filter (fun t => t.1 != id), pending := x.pending.filter (fun p => p.grid != id)
               restores := x.restores.filter (fun r => r.1 != id), waits := x.waits.erase id }) s
    let s := g.gangs.foldl (fun s e =>
      match e.2.st with
      | .placed | .draining | .restoring => s.haltGang id e.1 .abort
      | .halting => s.modGang id e.1 fun x => { x with why := .abort }
      | .halted | .saved => s.discardGang id e.1) s
    s.addDue (.gridRetire (BitVec.ofNat 32 id))

/-- R403: a grid and its descendants; fuel bounds their number. -/
def State.abortTree : Nat → State → Nat → State
  | 0, s, _ => s
  | k + 1, s, id =>
    let kids := (s.grids.filter fun e => (e.2.parent.map (·.1)) == some id).map (·.1)
    kids.foldl (fun s c => abortTree k s c) (s.abortGrid id)

/-- R403, R407: GRID_ABORT: taken by the accepting die's distributor, or held while that is down. -/
def execGridAbort (die : BitVec 6) (grid : Word) (s : State) : Out :=
  let ev := Instr.gridAbort die grid
  let d := ((s.grid? grid.toNat).map (·.die)).getD die.toNat
  .next (if (s.dist d).up || s.deadDie d then (s.dropDue ev).abortTree 11 grid.toNat else s.holdEvent d ev)

end Sys2Proof.Machine
end

