-- ==== Sys2Proof/Machine/Service.lean ====
section
/-!
DEFINITION. The Maelem side of a service core: its translation, rings, intake, results and resumptions, quag answers,
translation invalidation, budgets and messages (13 R311 to R330, 20 R408, R410, R411).
-/

namespace Sys2Proof.Machine

/-! ### Translation and traps of a service core (R90, R310, R311) -/

/-- R311: how the translation of a service core's access ends; the treatment of a physical address is T. -/
inductive SvcXl where
  | ok (pa tr : Nat) (s : State)
  | pageFault
  | accessFault (pa : Option Nat) (s : State)

/-- R24, R90, R311: the check of a frame by a service core: a scrub-pending one stops it in any mode, and so does a die that
is not reached (DEDUCED, log 52), which is recorded (R416). -/
def State.svcFrame (s : State) (c pa tr : Nat) : SvcXl :=
  if inHole pa then .accessFault (some pa) s
  else if !s.reach (c / 16) (paDie pa) then .accessFault (some pa) (s.notSent (c / 16) (paDie pa))
  else if ownState (s.ownEntry pa) == 2 then .accessFault (some pa) s
  else .ok pa tr s

/-- R90: the walk of an address reaches a frame whose ownership entry is malformed: an access fault, not a page fault. -/
def State.ownMalformed (s : State) (d asn va : Nat) : Bool :=
  match s.walkFrom d asn va 3 (bits (s.spaceEntry d asn) 42 16) 1 with
  | .inl (_, _, pa) => !inHole pa && s.linked d (paDie pa) && ((bits (s.ownEntry pa) 63 17 != 0) || decide (5 ≤ ownState (s.ownEntry pa)))
  | .inr _ => false

/-- R83 to R90, R311, R416: the translation of a byte address of service core c in a mode. Of the walk's faults those of the ownership
check are access faults, the others page faults; a die that is not reached is recorded. -/
def State.svcXlateIn (s : State) (c : Nat) (mode : Mode) (va : Nat) (want : Want) : SvcXl :=
  let x := s.svc c
  if mode = .m ∨ (mode = .s ∧ x.sdroot.getLsbD 63 = false) then
    if 2 ^ 43 ≤ va then .accessFault none s else s.svcFrame c va 0
  else if x.sdroot.getLsbD 63 = false then .accessFault none s
  else
    let asn := x.sdroot.extractLsb' 0 16
    let priv := decide (mode = .s)
    let go := fun (s : State) (e : CtbEntry) =>
      if !s.reach (c / 16) (paDie (e.pa va)) then .accessFault (some (e.pa va)) (s.notSent (c / 16) (paDie (e.pa va)))
      else .ok (e.pa va) e.tr (if want.w then s.markWritten c e va else s)
    match if 2 ^ 55 ≤ va then none else (s.cluster c).ctbHit asn (pageOf va) want priv with
    | some e => go s e
    | none =>
      match s.walk (c / 16) asn.toNat va want priv with
      | .scrub e _ => .accessFault (some (e.pa va)) s
      | .closed home => .accessFault none (s.notWalked (c / 16) home)
      | .fault 4 _ => .accessFault none s
      | .fault 5 (_ + 1) => if s.ownMalformed (c / 16) asn.toNat va then .accessFault none s else .pageFault
      | .fault _ _ => .pageFault
      | .ok e =>
        let s := s.walkFill (c / 16) asn.toNat va 2 (bits (s.spaceEntry (c / 16) asn.toNat) 42 16) 1
        go { s.modCluster c fun x => x.ctbFill e s.fresh with fresh := s.fresh + 1 } e

/-- R311: the translation of an access of service core c in the mode it runs in. -/
def State.svcXlate (s : State) (c va : Nat) (want : Want) : SvcXl := s.svcXlateIn c (s.svc c).mode va want

/-- R310: bit n of a status word set to b. -/
def setBit (w : Dword) (n : Nat) (b : Bool) : Dword := (w &&& ~~~(BitVec.twoPow 64 n)) ||| if b then BitVec.twoPow 64 n else 0

/-- R310: a CSR of the Privileged Architecture without a field of its own. -/
def Svc.csr (x : Svc) (n : Nat) : Dword := x.csrs.get 0 n

/-- R310: a mode as MPP holds it. -/
def Mode.code : Mode → Nat
  | .m => 3
  | .s => 1
  | .u => 0

/-- R310: entry to M-mode: mstatus saves the interrupt enable and the mode; mepc, mcause and mtval say what happened. -/
def Svc.enterM (x : Svc) (cause tval pc : Dword) : Svc :=
  let st := x.csr 0x300
  let st := setBit (setBit (setBit (setBit st 7 (st.getLsbD 3)) 3 false) 11 (x.mode != .u)) 12 (x.mode == .m)
  { x with csrs := (((x.csrs.set 0 0x300 st).set 0 0x341 x.pc).set 0 0x342 cause).set 0 0x343 tval, pc := pc, mode := .m }

/-- R310: entry to S-mode: sstatus saves the interrupt enable and the mode; sepc, scause and stval say what happened. -/
def Svc.enterS (x : Svc) (cause tval pc : Dword) : Svc :=
  let st := x.csr 0x300
  let st := setBit (setBit (setBit st 5 (st.getLsbD 1)) 1 false) 8 (x.mode == .s)
  { x with csrs := x.csrs.set 0 0x300 st, scause := cause, stval := tval, sepc := x.pc, pc := pc, mode := .s }

/-- R310: whether an exception of a service core goes to S-mode: one of a lower mode that medeleg delegates. -/
def Svc.delegates (x : Svc) (cause : Nat) : Bool := x.mode != .m && (x.csr 0x302).getLsbD cause

/-- R310: an exception of a service core, as the Privileged Architecture gives (PRESUMED, log 17). -/
def State.svcTrap (s : State) (c cause tval : Nat) : State :=
  s.modSvc c fun x =>
    if x.delegates cause then x.enterS (BitVec.ofNat 64 cause) (BitVec.ofNat 64 tval) (x.stvec &&& ~~~3)
    else x.enterM (BitVec.ofNat 64 cause) (BitVec.ofNat 64 tval) (x.csr 0x305 &&& ~~~3)

/-! ### Budgets (R327, R411) -/

/-- R327: cycles of a budget period. -/
def period : Nat := 850000

/-- R327: the charged slot's budget counts down to the present clock. -/
def State.charge (s : State) (c : Nat) : State :=
  let now := s.clock (c / 16)
  s.modCluster c fun x =>
    let k := x.svc.sbten
    let r := x.rings.get RingSlot.reset k
    let spent := now - x.svc.chargedAt
    { x with rings := if x.rings.has k then x.rings.put k { r with budget := r.budget - spent } else x.rings
             svc := { x.svc with chargedAt := now } }

/-- R315: the enabled slots of a cluster. -/
def Cluster.enabled (x : Cluster) : List (Nat × RingSlot) := x.rings.filter fun e => e.2.weight != 0

/-- R313: sbudget and speriod as they read; on the boundary of two periods, and so at reset, speriod is 0. -/
def State.sbudget (s : State) (c : Nat) : Nat := (((s.charge c).cluster c).rings.get RingSlot.reset (s.svc c).sbten).budget
def State.speriod (s : State) (c : Nat) : Nat := (period - s.clock (c / 16) % period) % period

/-- R411: a record of class 0x21 of a ring slot. -/
def State.floodRecord (s : State) (c cause slot : Nat) : State :=
  let t := ((s.cluster c).rings.get RingSlot.reset slot).tenant.toNat
  s.rated (c / 16) (0x21, cause, 4096 + 16 * c + slot) fun n => mkRec 1 0x21 cause 2 t 0 (unitOf 1 c) 0 0 (n + slot * 2 ^ 32)

/-- R327, R411: BUDGET_PERIOD: at a period's boundary every enabled slot's budget is refilled; a record that has waited
the whole period for ring space is a flood. -/
def execBudgetPeriod (cv : BitVec 10) (s : State) : Out :=
  let c := cv.toNat
  let ev := Instr.budgetPeriod cv
  let now := s.clock (c / 16)
  if ev ∉ s.due then .next s
  else if now / period = (s.svc c).periodStart / period then .next s
  else
    let s := s.charge c
    let x := s.cluster c
    let late := (x.waiting.filter fun w => decide (w.handle ∈ x.svc.floodSlots)).filterMap fun w => x.slotOf w.tenant
    let s := late.dedup.foldl (fun s k => s.floodRecord c 1 k) s
    let total := (x.enabled.map fun e => e.2.weight.toNat).sum
    let s := s.modCluster c fun x =>
      { x with rings := x.rings.map fun e =>
                 if e.2.weight = 0 then e else (e.1, { e.2 with budget := period * e.2.weight.toNat / total })
               svc := { x.svc with periodStart := now, budgetPendingSince := none
                                   floodSlots := (x.waiting.filter fun w => (x.slotOf w.tenant).isSome).map (·.handle) } }
    .next (s.addDue (.budgetExhausted cv))

/-- R314, R327: BUDGET_EXHAUSTED: the charged slot's budget is 0: the budget interrupt. -/
def execBudgetExhausted (cv : BitVec 10) (s : State) : Out :=
  let c := cv.toNat
  let ev := Instr.budgetExhausted cv
  if ev ∉ s.due then .next s else
  let s := s.charge c
  let x := s.cluster c
  if (x.rings.get RingSlot.reset x.svc.sbten).budget ≠ 0 ∨ x.svc.budgetPendingSince.isSome then .next s
  else .next (((s.dropDue ev).modSvc c fun v => { v with budgetPendingSince := some (s.clock (c / 16)) }).addDue (.budgetInterruptUnserved cv))

/-- R411: BUDGET_INTERRUPT_UNSERVED: pending 85,000 cycles with sbten unchanged. -/
def execBudgetInterruptUnserved (cv : BitVec 10) (s : State) : Out :=
  let c := cv.toNat
  let ev := Instr.budgetInterruptUnserved cv
  if ev ∉ s.due then .next s else
  match (s.svc c).budgetPendingSince with
  | none => .next (s.dropDue ev)
  | some t => .next (if s.clock (c / 16) < t + 85000 then s else (s.dropDue ev).floodRecord c 3 (s.svc c).sbten)

/-- R327, R411: a write of sbten: another slot is charged from now on; the slot already charged is no change. -/
def State.setSbten (s : State) (c k : Nat) : State :=
  if k = (s.svc c).sbten then s.charge c else
  let s := (s.charge c).modSvc c fun x => { x with sbten := k, budgetPendingSince := none }
  (s.dropDue (.budgetInterruptUnserved (BitVec.ofNat 10 c))).addDue (.budgetExhausted (BitVec.ofNat 10 c))

/-- R314, R331: the four supervisor interrupts, bits 16 to 19 of sip; the admin queues are service core 0's. -/
def State.sip (s : State) (c : Nat) : Dword :=
  let x := s.cluster c
  let b := fun (p : Bool) (n : Nat) => if p then BitVec.twoPow 64 n else (0 : Dword)
  b (x.rings.any fun e => e.2.recs.any fun r => !r.taken) 16 ||| b (!x.svc.rcv.isEmpty) 17
    ||| b (s.sbudget c == 0) 18 ||| b (s.nvme.any fun n => (n.2.completions.any fun q => q.1 == c) || (c == 0 && !n.2.admin.isEmpty)) 19

/-! ### Intake (R315 to R317) -/

/-- R315: a slot's fields as a write of sring gives them. -/
def sringTaken (v : Dword) : BitVec 12 × Byte × BitVec 3 × Word :=
  (v.extractLsb' 48 12, v.extractLsb' 40 8, v.extractLsb' 37 3, v.extractLsb' 0 32)

/-- R315: the configuration of a slot as a read of sring returns it. -/
def RingSlot.config (r : RingSlot) (k : Nat) : Dword :=
  BitVec.ofNat 64 (k * 2 ^ 60 + r.tenant.toNat * 2 ^ 48 + r.weight.toNat * 2 ^ 40 + r.size.toNat * 2 ^ 37 + r.base.toNat)

/-- R315: SRING. -/
def execSring (cv : BitVec 10) (v : Dword) (s : State) : Out :=
  let c := cv.toNat
  let k := (v.extractLsb' 60 4).toNat
  let (tenant, weight, size, base) := sringTaken v
  let n := 2 ^ (15 + size.toNat)
  if 6 ≤ size.toNat ∨ base.toNat % n ≠ 0 ∨ 2 ^ 22 < base.toNat + n then .next s
  else
    .next ((s.charge c).modCluster c fun x =>
      let r := x.rings.get RingSlot.reset k
      let r' : RingSlot :=
        if (r.recs.any fun q => q.kind != 0 && !(q.retired && q.taken)) ∨ (r.tenant = tenant ∧ r.size = size ∧ r.base = base) then { r with weight := weight }
        else { r with tenant := tenant, weight := weight, size := size, base := base, wpos := 0, recs := [] }
      { x with rings := x.rings.put k r', svc := { x.svc with ringSel := k } }.drainRings (s.clock (c / 16)))

/-- R317: a slot with an untaken record. -/
def RingSlot.untaken (r : RingSlot) : Option RingRec := r.recs.find? fun q => !q.taken

/-- R317: the slot that is served next, after the one last served. -/
def Cluster.intakeSlot (x : Cluster) : Option Nat :=
  let order := (List.range 16).map fun i => (x.svc.lastSlot + 1 + i) % 16
  let some' := order.filter fun k => (x.rings.get RingSlot.reset k).untaken.isSome
  match some'.find? fun k => (x.rings.get RingSlot.reset k).budget != 0 with
  | some k => some k
  | none => some'.head?

/-- R317: SINTAKE. -/
def execSintake (cv : BitVec 10) (s : State) : Out :=
  let c := cv.toNat
  let s := s.charge c
  let x := s.cluster c
  match x.intakeSlot with
  | none => .next (s.modSvc c fun v => { v with intake := 0 })
  | some k =>
    let r := x.rings.get RingSlot.reset k
    match r.untaken with
    | none => .next (s.modSvc c fun v => { v with intake := 0 })
    | some q =>
      let word := 2 ^ 63 + q.kind * 2 ^ 60 + k * 2 ^ 56 + q.handle * 2 ^ 32 + (r.base.toNat + q.off)
      .next (s.modCluster c fun x =>
        { x with rings := x.rings.put k { r with recs := r.recs.map fun e => if e.handle = q.handle ∧ e.kind ≠ 0 then { e with taken := true } else e }
                 svc := { x.svc with intake := BitVec.ofNat 64 word, lastSlot := k } })

/-! ### Results and resumptions (R39, R205, R206, R318, R319) -/

/-- The fragment that waits for a handle. -/
def State.waiter (s : State) (c h : Nat) : Option (Handle × Group × Frag × CallWait) :=
  ((s.cluster c).handles.find h).bind fun x => (s.group? x.gid).bind fun g => (g.frags.find x.frag).bind fun f =>
    f.call.bind fun w => if w.handle = some h ∧ f.state = .callWait then some (x, g, f, w) else none

/-- R318: the fields of scsel. -/
def selHandle (v : Dword) : Nat := (v.extractLsb' 32 16).toNat
def selLane (v : Dword) : Nat := (v.extractLsb' 0 10).toNat

/-- R318: a 64-bit result to a lane of a SYSC, or to the scalar of a TRAPI. -/
def Group.putResult (g : Group) (w : CallWait) (lane : Nat) (v : Dword) : Group :=
  if w.kind = 2 then g.setS w.reg v
  else (g.setV lane w.reg ⟨v.extractLsb' 0 32, false⟩).setV lane (w.reg + 1) ⟨v.extractLsb' 32 32, false⟩

/-- R318: SCRES, at service core c through a selector. -/
def State.scres (s : State) (c : Nat) (v : Dword) : State :=
  let sel := (s.svc c).scsel
  match s.waiter c (selHandle sel) with
  | none => s
  | some (h, _, f, w) =>
    let l := selLane sel
    if w.kind ≠ 2 ∧ (f.mask.getLsbD l = false ∨ h.callers.getLsbD l = false) then s
    else
      let s := s.modGroup h.gid fun g => g.putResult w l v
      match if w.kind = 2 then none else (lanesOf (h.callers ||| h.resumed) 1024).find? fun k => decide (l < k) with
      | some k => s.modSvc c fun x => { x with scsel := (x.scsel &&& ~~~(0x3FF : Dword)) ||| BitVec.ofNat 64 k }
      | none => s

/-- R318: SCRES. -/
def execScres (cv : BitVec 10) (v : Dword) (s : State) : Out := .next (s.scres cv.toNat v)

/-- R158, R320: a fragment that was restored in call-wait keeps its call until it has read its clause again. -/
def Frag.called (f : Frag) : Option CallWait := if f.reread then f.call.map fun w => { w with handle := none } else none

/-- R39: the remaining lanes of a call resume together: the fragment itself goes on after it. -/
def State.resumeWhole (s : State) (c hn : Nat) (h : Handle) : State :=
  let s := s.modCluster c fun x => x.retireHandle hn (s.clock (c / 16))
  let s := s.modGroup h.gid fun g => g.modFrag h.frag fun f => { f with call := f.called }
  ((s.advanceFrag h.gid h.frag 4).acquire (gidCore h.gid)).settle h.gid

/-- R39: lanes of a call that resume while others wait: a new fragment after it, if an entry can be allocated. It is as old as the
fragment it has left (DESIGN CHOICE, log 56). -/
def State.resumePart (s : State) (c hn : Nat) (h : Handle) (g : Group) (f : Frag) (m : Mask) : Option State :=
  if 128 < s.poolUsed (gidCore h.gid) + 1 then none else
  match g.frags.firstFree 32 with
  | none => none
  | some fid =>
    let ends := f.pastEnd (f.pc.toNat + 4) && !f.reread
    let new := { f.goTo (f.pc + 4) ends with mask := m, state := .ready, call := f.called, windows := [], run := 0 }
    let w := f.call.map fun w => { w with callers := w.callers &&& ~~~m }
    let frags := (g.frags.put h.frag { f with mask := f.mask &&& ~~~m, call := w }).put fid new
    let joins := match f.join with
      | some j => match g.joins.find j with
        | some e => g.joins.put j { e with pending := e.pending + 1 }
        | none => g.joins
      | none => g.joins
    let s := s.putGroup h.gid { g with frags := frags, joins := joins }
    let s := s.modCluster c fun x => { x with handles := x.handles.put hn { h with callers := h.callers &&& ~~~m, resumed := h.resumed ||| m } }
    some ((s.acquire (gidCore h.gid)).settle h.gid)

/-- R39, R319: one resumption takes effect, or is held. -/
def State.resume (s : State) (c hn : Nat) (m : Mask) : Option State :=
  match s.waiter c hn with
  | none => some s
  | some (h, g, f, _) =>
    let m := m &&& f.mask
    if m = 0 then some s
    else if m = f.mask then some (s.resumeWhole c hn h)
    else s.resumePart c hn h g f m

/-- R319: the lanes still waiting of a handle that no write has released yet. -/
def Handle.unreleased (h : Handle) (f : Frag) : Mask := h.held.foldl (fun m x => m &&& ~~~x) f.mask

/-- R319: the fields of slresume. -/
def slHandle (v : Dword) : Nat := (v.extractLsb' 32 16).toNat
def slLanes (v : Dword) : Mask := (v.extractLsb' 0 32).zeroExtend 1024 <<< (32 * (v.extractLsb' 48 5).toNat)

/-- R319: a write of slresume stages lanes. -/
def State.stage (s : State) (c : Nat) (v : Dword) : State :=
  let n := slHandle v
  match s.waiter c n with
  | none => s
  | some (h, _, f, _) =>
    let free := h.unreleased f
    let add := if v.getLsbD 62 then free else slLanes v &&& free
    s.modCluster c fun x => { x with handles := x.handles.put n { h with staged := h.staged ||| add } }

/-- R319: SLRESUME without go. -/
def execSlresumeStage (cv : BitVec 10) (v : Dword) (s : State) : Out := .next (s.stage cv.toNat v)

/-- R317, R319: a release of the staged lanes; a record of kind 3 or 4 retires. -/
def State.release (s : State) (c : Nat) (v : Dword) : State :=
  let n := slHandle v
  match (s.cluster c).handles.find n with
  | none => s
  | some h =>
    if h.kind = 3 ∨ h.kind = 4 then (if v.getLsbD 62 then s.modCluster c fun x => x.retireHandle n (s.clock (c / 16)) else s)
    else
      let s := s.stage c v
      match s.waiter c n with
      | none => s
      | some (h, _, _, w) =>
        if w.kind = 2 ∧ v.getLsbD 62 = false then s
        else
          let m := h.staged
          let s := s.modCluster c fun x => { x with handles := x.handles.put n { h with staged := 0 } }
          let hold := (s.modCluster c fun x =>
            { x with handles := x.handles.put n { h with staged := 0, held := h.held ++ [m] } }).addDue
              (.partialResumptionAllocated (BitVec.ofNat 10 c) (BitVec.ofNat 16 n))
          if m = 0 then s
          else if !h.held.isEmpty then hold
          else (s.resume c n m).getD hold

/-- R126, R319, R329, R330: what a service core does once its earlier accesses are performed and its last send is no longer
stalled. While it is held no action of it is chosen (`State.coming`). -/
def inOrder (c : Nat) (k : State → State) (s : State) : Out := .next (if s.svcHeld c then s else k s)

/-- R319: SLRESUME with go: a release at .mod of the core's earlier accesses. -/
def execSlresumeRelease (cv : BitVec 10) (v : Dword) (s : State) : Out :=
  inOrder cv.toNat (fun s => s.release cv.toNat v) s

/-! ### Quag answers (R96, R325) -/

/-- R325: the quag entry and the line of its page that sqsel names. -/
def sqEntry (v : Dword) : Nat := (v.extractLsb' 0 10).toNat
def sqLine (v : Dword) : Nat := (v.extractLsb' 16 9).toNat

/-- R325: SQSEL: the line named starts afresh: what was supplied of it goes. -/
def execSqsel (cv : BitVec 10) (v : Dword) (s : State) : Out :=
  let s := s.modSvc cv.toNat fun x => { x with sqsel := v &&& 0x1FF03FF, sqbuf := [] }
  .next (s.modDie (cv.toNat / 16) fun d =>
    match d.quag.find (sqEntry v) with
    | some q => { d with quag := d.quag.put (sqEntry v) { q with lines := q.lines.erase (sqLine v) } }
    | none => d)

/-- R325: SQDATA: the next doubleword; with 16 the line is supplied. -/
def execSqdata (cv : BitVec 10) (v : Dword) (s : State) : Out :=
  let c := cv.toNat
  let x := s.svc c
  if 16 ≤ x.sqbuf.length then .next s
  else
    let b := x.sqbuf ++ [v]
    let s := s.modSvc c fun x => { x with sqbuf := b }
    if b.length < 16 then .next s
    else
      .next (s.modDie (c / 16) fun d =>
        match d.quag.find (sqEntry x.sqsel) with
        | some q => { d with quag := d.quag.put (sqEntry x.sqsel) { q with lines := q.lines.put (sqLine x.sqsel) b } }
        | none => d)

/-- R96: SQANS, retry. -/
def execSqansRetry (cv : BitVec 10) (entry : BitVec 10) (s : State) : Out := .next (s.answerRetry (cv.toNat / 16) entry.toNat)
/-- R96: SQANS, emulate-load. -/
def execSqansEmulateLoad (cv : BitVec 10) (entry : BitVec 10) (s : State) : Out :=
  .next (s.answer (cv.toNat / 16) entry.toNat State.emulateLoadOne)
/-- R96: SQANS, emulate-store. -/
def execSqansEmulateStore (cv : BitVec 10) (entry : BitVec 10) (s : State) : Out :=
  .next (s.answer (cv.toNat / 16) entry.toNat State.emulateStoreOne)
/-- R96, R380: SQANS, abort. -/
def execSqansAbort (cv : BitVec 10) (entry : BitVec 10) (s : State) : Out :=
  .next (s.answer (cv.toNat / 16) entry.toNat fun s q m => s.abortOne q false m)

/-! ### Invalidation of translations (R87, R88, R313) -/

/-- R88: the accesses of a cluster that still wait for a translation of theirs, or for an older lane or store that does, take all of
theirs anew (DEDUCED, log 38). -/
def State.retranslate (s : State) (c : Nat) : State :=
  let load := fun (o : LoadOp) => if o.opened || !o.kind.global then o else
    { o with lanes := o.lanes.map fun a => { a with spans := a.spans.map fun p => if p.data.isNone then { p with pa := none } else p } }
  { s with groups := s.groups.map fun e => if gidCluster e.1 = c then (e.1, { e.2 with loads := e.2.loads.map load }) else e
           queues := s.queues.map fun e => if gidCluster e.2.gid = c then
             (e.1, { e.2 with ents := e.2.ents.map fun x => if x.complete then x else { x with leaves := [] } }) else e }

/-- R88: the buffer's entries that do not go, and the table cache's; then done is awaited. -/
def State.invalidateCtb (s : State) (c : Nat) (keep : CtbEntry → Bool) (asn : Option Nat) : State :=
  let s := (s.retranslate c).modCluster c fun x => { x with ctb := x.ctb.filter keep, svc := { x.svc with ctbPending := true } }
  let s := s.modDie (c / 16) fun d =>
    { d with tcache := match asn with | none => [] | some a => d.tcache.dropRange (a * 2 ^ 43) ((a + 1) * 2 ^ 43) }
  s.addDue (.ctbInvalidateDone (BitVec.ofNat 10 c))

/-- R313: every address space. -/
def execSctbinvAllSpaces (cv : BitVec 10) (s : State) : Out := .next (s.invalidateCtb cv.toNat (fun _ => false) none)

/-- R313: one page of an address space. -/
def execSctbinvPage (cv : BitVec 10) (asn : BitVec 16) (vpn : BitVec 39) (s : State) : Out :=
  .next (s.invalidateCtb cv.toNat (fun e => !(e.asn == asn && e.covers vpn.toNat)) (some asn.toNat))

/-- R313: one address space. -/
def execSctbinvSpace (cv : BitVec 10) (asn : BitVec 16) (s : State) : Out :=
  .next (s.invalidateCtb cv.toNat (fun e => e.asn != asn) (some asn.toNat))

/-- R88: CTB_INVALIDATE_DONE: no load or store of the cluster holds a translation with which it has still to read or write. -/
def execCtbInvalidateDone (cv : BitVec 10) (s : State) : Out :=
  let c := cv.toNat
  let ev := Instr.ctbInvalidateDone cv
  if ev ∉ s.due then .next s else
  let reads := s.groups.any fun e => gidCluster e.1 == c && e.2.loads.any fun o => o.kind.global &&
    o.lanes.any fun a => a.st == .need && a.spans.any fun p => p.pa.isSome && p.data.isNone
  let writes := s.queues.any fun e => gidCluster e.2.gid == c && e.2.ents.any fun x =>
    !x.leaves.isEmpty && x.complete && x.lanes.any fun l => l.st == .need
  .next (if reads || writes then s else (s.dropDue ev).modSvc c fun x => { x with ctbPending := false })

/-- R287, R313, R395: SMRESUME: MRESUME on a tile of the cluster; a disabled half takes none. -/
def execSmresume (cv : BitVec 10) (v : Dword) (s : State) : Out :=
  let t := (v.extractLsb' 0 3).toNat
  .next (if s.disabledHalf cv.toNat t then s else s.resumeTile cv.toNat t none)

/-! ### Messages (R329, R330, R338, R408, R410) -/

/-- R329: the destination that a message header names. -/
def msgDst (h : Dword) : MsgEnd := if h.getLsbD 10 then .dist (h.extractLsb' 0 6) else .svc (h.extractLsb' 0 10)

/-- The die of an end, its unit word, and its number as a header carries it. -/
def endDie : MsgEnd → Nat
  | .svc c => c.toNat / 16
  | .dist d => d.toNat
def endUnit : MsgEnd → Nat
  | .svc c => unitOf 1 c.toNat
  | .dist d => unitOf 7 d.toNat
def endNumber : MsgEnd → Nat
  | .svc c => c.toNat
  | .dist d => 1024 + d.toNat

/-- R329: a received header: the one sent, with bit 63 set and the source in [10:0]. -/
def rcvHdr (h : Dword) (src : MsgEnd) : Dword := (h &&& ~~~(0x7FF : Dword)) ||| BitVec.ofNat 64 (2 ^ 63 + (endNumber src))

/-- R338, R373, R408: whether a message from one end to another is dropped: another partition, a fenced die, a route that
crosses a closed boundary, or a service core that has failed. -/
def State.msgDropped (s : State) (src dst : MsgEnd) : Bool :=
  !s.samePart (endDie src) (endDie dst) || (s.die (endDie dst)).fence.getLsbD 4 || !s.reach (endDie src) (endDie dst) ||
    match dst with
    | .svc c => (s.cluster c.toNat).out
    | .dist _ => false

/-- R329, R408, R410: a message sets out, or is dropped whole with a record. -/
def State.post (s : State) (src dst : MsgEnd) (m : Msg) : State :=
  if s.msgDropped src dst then
    s.record (endDie src) (mkRec 1 0x20 2 0 0 0 (endUnit src) 0 0 m.hdr.toNat)
  else { s with chans := s.chans ++ [(src, dst, m)] }.addDue (.messageArrival src dst)

/-- R329: messages from one end to another that are not accepted. -/
def State.unaccepted (s : State) (src dst : MsgEnd) : Nat := (s.chans.filter fun e => decide (e.1 = src) && decide (e.2.1 = dst)).length

/-- R329: SMSGDAT: at most seven doublewords. DEDUCED: log 49. -/
def execSmsgdat (cv : BitVec 10) (v : Dword) (s : State) : Out :=
  inOrder cv.toNat (fun s =>
    s.modSvc cv.toNat fun x => { x with msgBuild := if x.msgBuild.length < 7 then x.msgBuild ++ [v] else x.msgBuild }) s

/-- R329: the message that the registers hold: as many doublewords as its length says. DEDUCED: log 49. -/
def Svc.message (x : Svc) : Msg :=
  let n := (x.smsgdst.extractLsb' 32 3).toNat
  ⟨x.smsgdst, (List.range n).map fun i => x.msgBuild.getD i 0⟩

/-- R329, R410: the message of service core c sets out; one that is dropped reads as accepted. -/
def State.sendFrom (s : State) (c : Nat) (m : Msg) : State :=
  let src := MsgEnd.svc (BitVec.ofNat 10 c)
  let dst := msgDst m.hdr
  let lost := s.msgDropped src dst
  (s.modSvc c fun x => { x with msgBuild := [], sendAccepted := lost, sendStalled := none }).post src dst m

/-- R329, R330: SMSGSEND: a release at .mod of the core's earlier accesses; the write stalls, and its core with it, while 16
messages of the core to that destination are unaccepted. DEDUCED: log 49. -/
def execSmsgsend (cv : BitVec 10) (s : State) : Out :=
  let c := cv.toNat
  inOrder c (fun s =>
    let m := (s.svc c).message
    let src := MsgEnd.svc cv
    if 16 ≤ s.unaccepted src (msgDst m.hdr) ∧ s.msgDropped src (msgDst m.hdr) = false then
      (s.modSvc c fun x => { x with sendStalled := some m, sendAccepted := false, stallClock := s.clock (c / 16) }).addDue (.smsgsendStallTimeout cv)
    else s.sendFrom c m) s

/-- R408, R410: SMSGSEND_STALL_TIMEOUT: stalled 2^24 cycles: the write completes and the message is dropped. -/
def execSmsgsendStallTimeout (cv : BitVec 10) (s : State) : Out :=
  let c := cv.toNat
  let d := c / 16
  let ev := Instr.smsgsendStallTimeout cv
  if ev ∉ s.due then .next s else
  match (s.svc c).sendStalled with
  | none => .next (s.dropDue ev)
  | some m =>
    if s.clock d < (s.svc c).stallClock + 2 ^ 24 then .next s
    else
      .next (((s.dropDue ev).record d (mkRec 1 0x20 4 0 0 0 (unitOf 1 c) 0 0 m.hdr.toNat)).modSvc c fun x =>
        { x with sendStalled := none, sendAccepted := true, msgBuild := [] })

/-- R330: SMSGRCV: the oldest message, or a header of 0; an acquire at .mod. -/
def execSmsgrcv (cv : BitVec 10) (s : State) : Out :=
  .next ((s.modCache (cacheOfSvc cv.toNat) Cache.acquire).modSvc cv.toNat fun x =>
    match x.rcv with
    | [] => { x with msg := 0, msgRest := [] }
    | (src, m) :: rest => { x with rcv := rest, msg := rcvHdr m.hdr src, msgRest := m.body })

/-- R313: SMSGRD: what a read returns, and the state after it. -/
def Svc.nextWord (x : Svc) : Dword := x.msgRest.headD 0
def execSmsgrd (cv : BitVec 10) (s : State) : Out := .next (s.modSvc cv.toNat fun x => { x with msgRest := x.msgRest.tail })

/-- R294, R306, R343, R402, R403: a distributor takes a message: its type and payload. -/
def State.distMessage (s : State) (d : BitVec 6) (src : MsgEnd) (m : Msg) : State :=
  let p := m.body.headD 0
  match (m.hdr.extractLsb' 40 8).toNat with
  | 0x40 => s.addDue (.queueBinding d (p.extractLsb' 0 10))
  | 0x41 =>
    let id := p.extractLsb' 0 32
    let t := ((s.grid? id.toNat).map fun g => g.tenant.toNat).getD 0
    let s := match s.grid? id.toNat with
      | some g => if g.completing || g.aborted then s else s.record d.toNat (mkRec 1 0x13 4 2 t 0 (endUnit src) 0 0 (id.toNat * 2 ^ 32))
      | none => s
    s.addDue (.gridAbort d id)
  | 0x42 => s.addDue (.tenantSwitch d m.body)
  | 0x43 =>
    let c := match src with
      | .svc c => c
      | .dist e => BitVec.ofNat 10 (16 * e.toNat)
    s.addDue (.gangRestore ⟨d, c⟩ p)
  | _ => s

/-- R313, R329: what is taken when a message of `src` has been accepted: a stalled send of it goes out, and its send register
reads 1 if that was the last message it sent. -/
def State.afterAccept (s : State) (src : MsgEnd) (last : Bool) : State :=
  match src with
  | .dist _ => s
  | .svc c =>
    let s := if last && (s.svc c.toNat).sendStalled.isNone then s.modSvc c.toNat fun x => { x with sendAccepted := true } else s
    match (s.svc c.toNat).sendStalled with
    | some m =>
      if s.unaccepted src (msgDst m.hdr) < 16 then (s.sendFrom c.toNat m).dropDue (.smsgsendStallTimeout c) else s
    | none => s

/-- R329: a destination accepts no message: the receive queue of a core holds 256, or the distributor is not up. -/
def State.rcvFull (s : State) (dst : MsgEnd) : Bool :=
  match dst with
  | .svc c => decide (256 ≤ (s.svc c.toNat).rcv.length) && !(s.cluster c.toNat).out
  | .dist d => !(s.dist d.toNat).up

/-- R12: an older message from the same die to the same die, which its destination could take, is still in flight. -/
def State.passed (s : State) (e : MsgEnd × MsgEnd × Msg) : Bool :=
  (s.chans.takeWhile fun f => f != e).any fun f => endDie f.1 == endDie e.1 && endDie f.2.1 == endDie e.2.1 && !s.rcvFull f.2.1

/-- R12, R329, R330: MESSAGE_ARRIVAL: the oldest message from one end to another is accepted; those from one die to another
arrive in the order sent, and only one whose destination takes none is passed. One that reaches a service core which has failed since
is dropped (R408). -/
def execMessageArrival (src dst : MsgEnd) (s : State) : Out :=
  let ev := Instr.messageArrival src dst
  let pair := fun (e : MsgEnd × MsgEnd × Msg) => decide (e.1 = src) && decide (e.2.1 = dst) && (recordOf e).isNone
  if ev ∉ s.due then .next s else
  match s.chans.find? pair with
  | none => .next (s.dropDue ev)
  | some e =>
    if s.rcvFull dst || s.passed e then .next s
    else
      let rest := s.chans.erase e
      let more := rest.any pair
      let last := (((s.chans.filter fun f => decide (f.1 = src)).getLast?).map pair).getD false && !more
      let s := { s with chans := rest }
      let s := if more then s else s.dropDue ev
      let s := match dst with
        | .svc c => if (s.cluster c.toNat).out then s.record (endDie src) (mkRec 1 0x20 2 0 0 0 (endUnit src) 0 0 e.2.2.hdr.toNat) else s.modSvc c.toNat fun x => { x with rcv := x.rcv ++ [(src, e.2.2)] }
        | .dist d => s.distMessage d src e.2.2
      .next (s.afterAccept src last)

end Sys2Proof.Machine
end

