-- ==== Sys2Proof/Machine/Image.lean ====
section
/-!
DEFINITION. Context images and gang records: saving a halted group, restoring one, and placing a saved gang again (03 R67
to R70, 11 R278, 12 R302 to R306, 13 R313, R320, 18 R379, 19 R402).
-/

namespace Sys2Proof.Machine

/-! ### Layout (R68) -/

/-- R68: sections start on 128-byte boundaries. -/
def pad128 (n : Nat) : Nat := (n + 127) / 128 * 128

/-- R68: the offsets of sections of the sizes given, the first at or after `at'`, and the end of the last. -/
def layout : Nat → List Nat → List Nat × Nat
  | at', [] => ([], at')
  | at', n :: ns => let (os, e) := layout (pad128 at' + n) ns; (pad128 at' :: os, e)

/-- R68: the sizes of the sections of an image. -/
def sectionSizes (nfrag njoin regs rows nrec ntile : Nat) : List Nat :=
  [nfrag * 288, njoin * 16, 512, rows * 32, rows * 128, regs * rows * 132, nrec * 128, ntile * 262272]

/-- Bytes up to a length, zeros at the end. -/
def padTo (n : Nat) (bs : List Byte) : List Byte := bs ++ List.replicate (n - bs.length) 0

/-- Sections placed one after another, zeros between them. -/
def joinSections (bss : List (List Byte)) : List Byte :=
  bss.foldl (fun acc bs => padTo (pad128 acc.length) acc ++ bs) []

/-! ### Writing an image (R67 to R69, R278) -/

/-- R68: a group's fragments in ascending order of their lowest lane. -/
def Group.fragOrder (g : Group) : List Frag :=
  (List.range 1025).flatMap fun l => (g.frags.map (·.2)).filter fun f => lowestLane f.mask == l

/-- A join entry and the chain of its parents; fuel bounds the depth. -/
def Group.joinChain (g : Group) : Nat → Option Nat → List Nat
  | _, none => []
  | 0, _ => []
  | k + 1, some j => j :: g.joinChain k ((g.joins.find j).bind (·.parent))

/-- R68: the joins in the order in which the fragments first reach them. -/
def Group.joinOrder (g : Group) : List Nat := (g.fragOrder.flatMap fun f => g.joinChain 32 f.join).eraseDups

/-- R68: the index of a join record, 0xFF for none. -/
def joinIdx (order : List Nat) (j : Option Nat) : Nat := (j.bind fun n => order.findIdx? (· == n)).getD 0xFF

/-- R67, R68: the state code of a fragment. DEDUCED: log 24. -/
def Frag.code (f : Frag) : Nat :=
  if f.replay ≠ 0 then 8 else
  match f.state with
  | .joinWait => 4
  | .barWait => 5
  | .gangBarWait => 6
  | .callWait => 7
  | _ => 0

/-- R68: a fragment record. DEDUCED: log 24. -/
def Frag.bytes (f : Frag) (order : List Nat) : List Byte :=
  let w := if f.state = .callWait then f.call else none
  leBytes 8 f.pc.toNat ++ leBytes 8 f.hdr.toNat ++ leBytes 4 f.fmt.toNat ++ leBytes 4 (msum f.mask).toNat
    ++ leBytes 1 (joinIdx order f.join) ++ leBytes 1 f.code ++ leBytes 1 ((w.map (·.kind)).getD 0)
    ++ leBytes 1 ((w.map (·.reg)).getD 0) ++ leBytes 4 ((w.map (·.call)).getD 0) ++ leBytes 128 f.mask.toNat ++ leBytes 128 f.replay.toNat

/-- R68: a join record. -/
def Join.bytes (j : Join) (order : List Nat) : List Byte :=
  leBytes 8 j.rcv.toNat ++ leBytes 4 j.savedFmt.toNat ++ leBytes 1 (joinIdx order j.parent) ++ leBytes 1 j.pending ++ [0, 0]

/-- R278: the operations of a group that a save records. -/
def Cluster.recorded (x : Cluster) (gid : Nat) : List ResOp := x.table.filter fun r => r.gid == gid && r.kind != .mldw

/-- R278: a sequencer record. A loop that MRESUME has queued again and that has run is suspended, though its next step has not begun. -/
def ResOp.bytes (r : ResOp) : List Byte :=
  let kind := match r.kind with | .mloop => 1 | .mzero => 2 | _ => 3
  let st := if r.kind ≠ .mloop then 0 else match r.st with | .suspended => 1 | .held => 2 | _ => if r.done = 0 then 0 else 1
  leBytes 1 kind ++ leBytes 1 st ++ leBytes 1 r.tile ++ [0] ++ leBytes 2 r.batch ++ leBytes 2 0 ++ leBytes 4 r.done ++ leBytes 4 0
    ++ padTo 112 (r.args.flatMap fun a => leBytes 8 a.toNat)

/-- R66, R68: a tile as an image carries it. -/
def Tile.bytes (x : Tile) (t : Nat) : List Byte :=
  let b := fun (p : Bool) (n : Nat) => if p then 2 ^ n else 0
  padTo 128 (leBytes 8 t ++ leBytes 8 (x.ae.toNat + b x.ovf 32 + b x.ferr 33)) ++
    (List.range 16384).flatMap fun i =>
      let e := x.ents.get TEntry.zero i
      leBytes 16 (e.acc.toNat + b e.s 96 + b e.v 97)

/-- R69: the tiles that a group's image carries: those of the gang, if no lower-numbered group of it in the cluster has not
retired. -/
def Gang.carried (x : Gang) (c : Nat) (index : Nat) : List Nat :=
  let mask := (x.places.filter fun p => p.1 == c).foldl (fun m p => m ||| p.2.2) 0
  if (List.range index).any fun i => mask.getLsbD i && !x.retired.getLsbD i then []
  else (List.range 8).filter fun t => x.tmask.getLsbD t

/-- The bits of lanes 32 k to 32 k + 31 of a mask. -/
def rowWord (m : Mask) (k : Nat) : Nat := (m.extractLsb' (32 * k) 32).toNat

/-- R68: the predicate, index and vector sections of a group. -/
def Group.predBytes (g : Group) : List Byte :=
  (List.range (g.lanes / 32)).flatMap fun k => (List.range 8).flatMap fun n => leBytes 4 (rowWord (g.pred n) k)
def Group.indexBytes (g : Group) : List Byte :=
  (List.range (g.lanes / 32)).flatMap fun k => (List.range 4).flatMap fun n => (List.range 32).map fun b => g.xreg (32 * k + b) n
def Group.vectorBytes (g : Group) : List Byte :=
  (List.range g.regs).flatMap fun v => (List.range (g.lanes / 32)).flatMap fun k =>
    ((List.range 32).flatMap fun b => leBytes 4 (g.vreg (32 * k + b) v).data.toNat)
      ++ leBytes 4 (((List.range 32).map fun b => if (g.vreg (32 * k + b) v).s then 2 ^ b else 0).sum)

/-- R67, R68: the context image of a group. -/
def State.image (s : State) (gid : Nat) (g : Group) : List Byte :=
  let x := s.cluster (gidCluster gid)
  let frags := g.fragOrder
  let order := g.joinOrder
  let recs := x.recorded gid
  let tiles := ((s.gang? g.grid.toNat g.gang.toNat).map fun y => y.carried (gidCluster gid) g.index.toNat).getD []
  let sizes := sectionSizes frags.length order.length g.regs (g.lanes / 32) recs.length tiles.length
  let (offs, total) := layout 256 sizes
  let header := leBytes 4 1 ++ leBytes 4 total ++ leBytes 4 gid ++ leBytes 2 g.tenant.toNat ++ leBytes 2 0 ++ leBytes 2 g.lanes
    ++ leBytes 2 g.regs ++ leBytes 1 frags.length ++ leBytes 1 order.length ++ leBytes 1 recs.length ++ leBytes 1 tiles.length
    ++ leBytes 4 g.flags.toNat ++ leBytes 4 (g.cb.toNat + 65536 * g.ob.toNat) ++ leBytes 4 (256 * s.sc g + 65536 * recs.length)
    ++ leBytes 1 g.depth.toNat ++ leBytes 3 0 ++ (List.range 4).flatMap (fun k => leBytes 4 (g.idx.get 0 k).toNat) ++ leBytes 8 0
    ++ offs.flatMap fun o => leBytes 4 o
  joinSections [padTo 256 header, frags.flatMap fun f => f.bytes order,
    order.flatMap fun j => ((g.joins.find j).map fun e => e.bytes order).getD [],
    (List.range 64).flatMap fun n => leBytes 8 (g.sreg n).toNat, g.predBytes, g.indexBytes, g.vectorBytes,
    recs.flatMap fun r => r.bytes, tiles.flatMap fun t => (x.tiles.get Tile.reset t).bytes t]

/-! ### The gang record (R305) -/

/-- R305: a gang's clusters in ascending order of the lowest group placed in each. -/
def Gang.clusOrder (x : Gang) : List (Nat × Nat × BitVec 16) :=
  (List.range 16).flatMap fun i => x.places.filter fun p => p.2.2.getLsbD i && (List.range i).all fun k => !p.2.2.getLsbD k

/-- R305: the gang record of a gang. -/
def State.gangRecord (s : State) (grid gang : Nat) (g : Grid) (x : Gang) : List Byte :=
  let ps := x.clusOrder
  let n := g.desc.scratch
  let header := leBytes 4 1 ++ leBytes 4 (128 + ps.length * n) ++ leBytes 4 grid ++ leBytes 4 gang ++ leBytes 2 g.tenant.toNat
    ++ leBytes 1 g.desc.groups ++ leBytes 1 g.desc.cls ++ leBytes 1 ps.length ++ leBytes 1 x.tmask.toNat ++ leBytes 2 0 ++ leBytes 4 n
    ++ leBytes 2 x.bgen.toNat ++ leBytes 2 x.barr.toNat ++ ps.flatMap fun p => leBytes 4 p.2.2.toNat
  padTo 128 header ++ ps.flatMap fun p => (s.cluster p.1).sbytes p.2.1 n

/-! ### Accesses to images (R313, R402) -/

/-- How an access to an image goes: done, waiting for a line at home, or failed at an address, with R402's detail. -/
inductive ImgAcc (α : Type) where
  | ok (x : α) (s : State)
  | waits (s : State)
  | bad (addr detail : Nat) (s : State)

/-- A page's physical frame and treatment, or the address and detail of a failure. -/
def State.imgPages (s : State) (c : Nat) (want : Want) : List Nat → State × List (Nat × Nat × Nat) × Option (Nat × Nat)
  | [] => (s, [], none)
  | a :: as =>
    match s.svcXlateIn c .s a want with
    | .ok pa tr s => let (s, l, e) := s.imgPages c want as; (s, (pageOf a, pa / 65536, tr) :: l, e)
    | .pageFault => (s, [], some (a, 1))
    | .accessFault pa s => (s, [], some (pa.getD a, if pa.isSome then 0 else 1))

/-- R74, R75: a physical byte that memory backs: none in a hole or in a register frame, whose bytes an access of another shape
reads as 0 and does not write. -/
def backed (pa : Nat) : Bool := !inHole pa && !regFrame (paOff pa)

/-- R313, R402: the physical bytes of `n` bytes at `va` as service core c reaches them in S-mode. -/
def State.imgReach (s : State) (c va n : Nat) (write : Bool) : ImgAcc (List (Nat × Nat)) :=
  let kind := if write then 0 else 2
  let (s, ts, e) := s.imgPages c (if write then Want.store else Want.load) ((pagesOf va n).map (clipVa va))
  match e with
  | some (a, k) => .bad a (k + kind) s
  | none =>
    let pas := (List.range n).filterMap fun i =>
      let a := (va + i) % 2 ^ 64
      (ts.find? fun t => t.1 == pageOf a).map fun t => (t.2.1 * 65536 + a % 65536, t.2.2)
    match pas.find? fun p => s.poisoned p.1 || !s.reach (c / 16) (paDie p.1) with
    | some p => .bad p.1 kind s
    | none =>
      let lines := ((pas.filter fun p => p.2 == 0).map fun p => lineOf p.1).dedup
      if lines.any fun l => s.lineBusy l then .waits s
      else .ok pas (lines.foldl (fun s l => s.homeSync l write []) s)

def State.imgRead (s : State) (c va n : Nat) : ImgAcc (List Byte) :=
  match s.imgReach c va n false with
  | .ok pas s => .ok (pas.map fun p => if backed p.1 then s.readByte p.1 else 0) s
  | .waits s => .waits s
  | .bad a k s => .bad a k s

def State.imgWrite (s : State) (c va : Nat) (bs : List Byte) : ImgAcc Unit :=
  match s.imgReach c va bs.length true with
  | .ok pas s => .ok () (s.writeHome (((pas.map (·.1)).zip bs).filter fun w => backed w.1))
  | .waits s => .waits s
  | .bad a k s => .bad a k s

/-! ### sctxop (R313) -/

/-- sctxop reads a value from now on. -/
def State.setSctxop (s : State) (c : Nat) (v : BitVec 2) : State := s.modSvc c fun x => { x with sctxop := v }

/-- R313: a write of sctxop. Ignored while busy; else a save or a restore begins, or it reads rejected. -/
def State.writeSctxop (s : State) (c : Nat) (v : Dword) : State :=
  let op := (v.extractLsb' 18 2).toNat
  let gid := v.extractLsb' 0 18
  let here := decide (gidCluster gid.toNat = c)
  let halted := ((s.group? gid.toNat).map fun g => g.halt.isSome).getD false
  let busy := (s.setSctxop c 1).modSvc c fun x => { x with sctxGid := gid }
  if (s.svc c).sctxop = 1 then s
  else if op = 1 && here && halted then
    (busy.modGroup gid.toNat fun g => { g with saving := true }).addDue (.contextSaveComplete (BitVec.ofNat 10 c))
  else if op = 2 && here then busy.addDue (.contextRestoreComplete (BitVec.ofNat 10 c))
  else s.setSctxop c 3

/-- R67, R313: SCTXOP, save. -/
def execSctxopSave (cv : BitVec 10) (v : Dword) (s : State) : Out := .next (s.writeSctxop cv.toNat v)
/-- R70, R313, R376: SCTXOP, restore. -/
def execSctxopRestore (cv : BitVec 10) (v : Dword) (s : State) : Out := .next (s.writeSctxop cv.toNat v)

/-- R365, R402: the image or the gang record could not be written or read. Where the save is one of R304 the error has left its
bounds: a second record of severity 2 names the first. DEDUCED: log 23. -/
def State.imgFault (s : State) (c tenant gid addr detail : Nat) (preempts : Bool) : State :=
  let form := fun (s : State) (sev addr flags detail : Nat) =>
    s.record (c / 16) (mkRec sev 0x13 2 (flags + 2 + if gid = 0 then 0 else 4) tenant gid (unitOf 1 c) 0 addr detail)
  let s := form s 1 addr 8 detail
  (if preempts then form s 2 0 0 (s.die (c / 16)).seq else s).setSctxop c 3

/-! ### A save (R67 to R69, R278, R302, R320) -/

/-- R67, R302, R320: the group's image is written: its stores wait on, its handles retire, its room is freed. -/
def State.groupSaved (s : State) (gid : Nat) (g : Group) : State :=
  let left := ((s.queue? g.sq).map fun q => !q.ents.isEmpty).getD false
  let s := if left then s.modQueue g.sq fun q => { q with live := false, saved := true } else { s with queues := s.queues.erase g.sq }
  ((s.retireCalls gid).dropGroup gid).modGang g.grid.toNat g.gang.toNat fun x => { x with saves := x.saves ++ [g.index.toNat] }

/-- R305: whether the group is the last of its gang to be saved. -/
def Gang.lastSave (x : Gang) (index : Nat) : Bool :=
  (List.range x.groups.length).all fun i => i == index || x.retired.getLsbD i || decide (i ∈ x.saves)

/-- R68: CONTEXT_SAVE_COMPLETE. The image is written once the group meets R67, and after the last image of a gang its
record, at the next 128-byte boundary. DEDUCED: log 23. -/
def execContextSaveComplete (cv : BitVec 10) (s : State) : Out :=
  let c := cv.toNat
  let ev := Instr.contextSaveComplete cv
  let gid := (s.svc c).sctxGid.toNat
  if ev ∉ s.due then .next s else
  match s.group? gid with
  | none => .next ((s.dropDue ev).setSctxop c 3)
  | some g0 =>
    let grid := g0.grid.toNat
    let gang := g0.gang.toNat
    let s := s.withdrawGroup gid
    match s.group? gid, s.grid? grid, s.gang? grid gang with
    | some g, some gr, some x =>
      if !s.groupQuiet gid g || x.st == .halting then .next s
      else
        let va := (s.svc c).sctxa.toNat
        let img := s.image gid g
        let fail := fun (a k : Nat) (s : State) =>
          ((s.dropDue ev).imgFault c g.tenant.toNat gid a k (x.why == .save)).modGroup gid fun g => { g with saving := false }
        match s.imgWrite c va img with
        | .waits s => .next s
        | .bad a k s => .next (fail a k s)
        | .ok _ s =>
          let done := fun (s : State) => ((s.dropDue ev).groupSaved gid g).setSctxop c 2
          if x.lastSave g.index.toNat then
            match s.imgWrite c (va + pad128 img.length) (s.gangRecord grid gang gr x) with
            | .waits s => .next s
            | .bad a k s => .next (fail a k s)
            | .ok _ s => .next ((done s).gangSaved grid gang gr.desc.scratch)
          else .next (done s)
    | _, _, _ => .next ((s.dropDue ev).setSctxop c 3)

/-! ### The checks of a restore (R70, R278, R379) -/

/-- A field's offset and whether it passes. -/
abbrev Check := Nat × Bool

/-- The offset of the first check that fails. -/
def firstFail (cs : List Check) : Option Nat := (cs.find? fun c => !c.2).map (·.1)

/-- The offset of the first byte that is not 0, of `n` bytes from `off`. -/
def zeros (bs : List Byte) (off n : Nat) : List Check := (List.range n).map fun i => (off + i, bs.getD (off + i) 0 == 0)

/-- The counts of an image's header: fragments, joins, engine records, tiles. DEDUCED: log 22. -/
def imgCounts (h : List Byte) : Nat × Nat × Nat × Nat := (recField h 0x14 1, recField h 0x15 1, recField h 0x16 1, recField h 0x17 1)

/-- The section offsets that R68 fixes for a header, and the size. DEDUCED: log 22. -/
def imgLayout (h : List Byte) : List Nat × Nat :=
  let (nf, nj, nr, nt) := imgCounts h
  layout 256 (sectionSizes nf nj (recField h 0x12 2) (recField h 0x10 2 / 32) nr nt)

/-- R70: the checks of the header, in image order; `want` is the grid of the gang that awaits the group. DEDUCED: log 22. -/
def headerChecks (h : List Byte) (want : Option Grid) : List Check :=
  let f := recField h
  let (nf, nj, nr, nt) := imgCounts h
  let ok := fun (p : Grid → Bool) => (want.map p).getD false
  [(0, f 0 4 == 1), (8, want.isSome), (0x0C, ok fun g => f 0x0C 2 == g.tenant.toNat), (0x0E, f 0x0E 2 == 0),
   (0x10, ok fun g => f 0x10 2 == g.desc.lanes), (0x12, ok fun g => f 0x12 2 == g.desc.regs), (0x14, decide (1 ≤ nf) && decide (nf ≤ 32)),
   (0x15, decide (nj ≤ 31)), (0x16, decide (nr ≤ 15)), (0x17, decide (nt ≤ 8)), (0x18, decide (f 0x18 4 < 256)),
   (0x20, decide (f 0x20 4 < 2 ^ 24) && f 0x20 1 == 0 && decide (f 0x21 1 ≤ 63) && decide (f 0x22 1 ≤ 15)), (0x24, decide (f 0x24 1 < 16))] ++ zeros h 0x25 3
    ++ ((List.range 4).map fun k => (0x28 + 4 * k, decide (f (0x28 + 4 * k) 4 < 65536) && f (0x28 + 4 * k) 1 / 128 == 0))
    ++ zeros h 0x38 8 ++ ((imgLayout h).1.zipIdx.map fun e => (0x40 + 4 * e.2, f (0x40 + 4 * e.2) 4 == e.1)) ++ zeros h 0x60 160

/-- R70: the checks of the fragment record at `o`; `seen` are the lanes of the records before it. A mask word with a bit at or
above the lane count is rejected at mw (DESIGN CHOICE, log 22). -/
def fragChecks (b : List Byte) (lanes njoin o : Nat) (seen : Mask) : List Check :=
  let f := fun (off n : Nat) => recField b (o + off) n
  let st := f 0x19 1
  let wk := f 0x1A 1
  let m : Mask := BitVec.ofNat 1024 (f 0x20 128)
  let r : Mask := BitVec.ofNat 1024 (f 0xA0 128)
  [(o, f 0 8 % 4 == 0 && decide (f 8 8 ≤ f 0 8) && decide (f 0 8 ≤ f 8 8 + 60)), (o + 8, f 8 8 % 4 == 0),
   (o + 0x10, fmtLegal (BitVec.ofNat 32 (f 0x10 4))), (o + 0x14, f 0x14 4 == (msum m).toNat),
   (o + 0x18, f 0x18 1 == 0xFF || decide (f 0x18 1 < njoin)), (o + 0x19, st == 0 || (decide (4 ≤ st) && decide (st ≤ 8))),
   (o + 0x1A, if st = 7 then wk == 1 || wk == 2 else wk == 0),
   (o + 0x1B, if st = 7 then decide (f 0x1B 1 < (if wk = 1 then 128 else 64)) else f 0x1B 1 == 0),
   (o + 0x1C, if st = 7 then decide (f 0x1C 4 < (if wk = 1 then 128 else 262144)) else f 0x1C 4 == 0),
   (o + 0x20, m &&& seen == 0 && decide (m.toNat < 2 ^ lanes)), (o + 0xA0, if st = 8 then r != 0 && r &&& ~~~m == 0 else r == 0)]

/-- R70, R273, R278: the checks of the sequencer record at `o`; `n` is the size of the gang's grant. A tile outside the gang's
tiles, and a loop whose tile is not its descriptor's, are rejected at the tile byte (DESIGN CHOICE, log 22). -/
def seqChecks (b : List Byte) (tmask : Byte) (split : Bool) (n o : Nat) : List Check :=
  let f := fun (off n : Nat) => recField b (o + off) n
  let kind := f 0 1
  let args := (List.range 7).map fun i => BitVec.ofNat 64 (f (0x10 + 8 * i) 8)
  let d := loopDesc args
  let used := if kind = 1 then 7 else if kind = 2 then 1 else 2
  [(o, decide (1 ≤ kind) && decide (kind ≤ 3)), (o + 1, decide (f 1 1 ≤ 2) && (kind == 1 || f 1 1 == 0)),
   (o + 2, tmask.getLsbD (f 2 1) && (kind != 1 || f 2 1 == d.tile)), (o + 3, f 3 1 == 0), (o + 4, kind == 1 || f 4 2 == 0), (o + 6, f 6 2 == 0),
   (o + 8, decide (f 8 4 ≤ if kind = 1 then d.steps else 0)), (o + 0x0C, f 0x0C 4 == 0),
   (o + 0x10, kind != 1 || (loopFault args d tmask split).isNone && (d.beyond d.steps n).isNone)] ++ zeros b (o + 0x10 + 8 * used) (56 - 8 * used) ++ zeros b (o + 0x48) 56

/-- R70: the checks of the tile at `o`; `seen` are the tiles carried before it. -/
def tileChecks (b : List Byte) (tmask : Byte) (o : Nat) (seen : List Nat) : List Check :=
  let f := fun (off n : Nat) => recField b (o + off) n
  [(o, tmask.getLsbD (f 0 1) && decide (f 0 1 ∉ seen))] ++ zeros b (o + 1) 7
    ++ [(o + 8, f 0x0A 2 == 0 && decide (f 0x0C 4 < 4))] ++ zeros b (o + 16) 112
    ++ (List.range 16384).map fun i => (o + 128 + 16 * i + 12, decide (f (128 + 16 * i + 12) 4 < 4))

/-- R70: the checks of the sections, in image order. -/
def sectionChecks (b : List Byte) (tmask : Byte) (split : Bool) (n : Nat) : List Check :=
  let (nf, nj, nr, nt) := imgCounts b
  let lanes := recField b 0x10 2
  let (offs, total) := imgLayout b
  let off := fun i => offs.getD i 0
  let sizes := sectionSizes nf nj (recField b 0x12 2) (lanes / 32) nr nt
  let gap := fun i => zeros b (off i + sizes.getD i 0) (offs.getD (i + 1) total - (off i + sizes.getD i 0))
  let mask := fun i => (BitVec.ofNat 1024 (recField b (off 0 + 288 * i + 0x20) 128) : Mask)
  let fs := (List.range nf).flatMap fun i =>
    fragChecks b lanes nj (off 0 + 288 * i) ((List.range i).foldl (fun m k => m ||| mask k) 0)
  let js := (List.range nj).flatMap fun i =>
    let o := off 1 + 16 * i
    let p := recField b (o + 12) 1
    [(o + 8, fmtLegal (BitVec.ofNat 32 (recField b (o + 8) 4))), (o + 12, p == 0xFF || decide (p < nj)), (o + 14, recField b (o + 14) 2 == 0)]
  let rs := (List.range nr).flatMap fun i => seqChecks b tmask split n (off 6 + 128 * i)
  let ts := (List.range nt).flatMap fun i =>
    tileChecks b tmask (off 7 + 262272 * i) ((List.range i).map fun k => recField b (off 7 + 262272 * k) 1)
  fs ++ gap 0 ++ js ++ gap 1 ++ gap 2 ++ gap 3 ++ gap 4 ++ gap 5 ++ rs ++ gap 6 ++ ts

/-! ### A restore (R69, R70, R278, R306, R320) -/

/-- The bytes of a section as a map of values that differ from a default. -/
def sparse {α : Type} [DecidableEq α] (d : α) (xs : List (Nat × α)) : SMap α := xs.foldl (fun m e => m.set d e.1 e.2) []

/-- R68, R158: a fragment from its record. DEDUCED: log 24. -/
def fragOf (b : List Byte) (o stamp : Nat) : Frag :=
  let f := fun (off n : Nat) => recField b (o + off) n
  let j := f 0x18 1
  let st := f 0x19 1
  let m : Mask := BitVec.ofNat 1024 (f 0x20 128)
  { pc := BitVec.ofNat 64 (f 0 8), hdr := BitVec.ofNat 64 (f 8 8), inClause := false, reread := f 0 8 != f 8 8, words := [], mask := m,
    fmt := BitVec.ofNat 32 (f 0x10 4), join := if j = 0xFF then none else some j,
    state := if st = 4 then .joinWait else if st = 5 then .barWait else if st = 6 then .gangBarWait else if st = 7 then .callWait else .ready,
    hold := .none, windows := [], replay := BitVec.ofNat 1024 (f 0xA0 128), stamp := stamp, run := 0,
    call := if st = 7 then some ⟨f 0x1A 1, f 0x1B 1, f 0x1C 4, m, none⟩ else none }

/-- R278: an operation from its sequencer record; a loop that is to be queued again stays suspended until its tiles are
restored. The record holds no pc: the records of its faults have pc 0 (DESIGN CHOICE, log 43). -/
def resOpOf (b : List Byte) (o gid id : Nat) : ResOp :=
  let f := fun (off n : Nat) => recField b (o + off) n
  let kind := f 0 1
  let args := (List.range (if kind = 1 then 7 else if kind = 2 then 1 else 2)).map fun i => BitVec.ofNat 64 (f (0x10 + 8 * i) 8)
  { gid := gid, id := id, pc := 0, kind := if kind = 1 then .mloop else if kind = 2 then .mzero else .mcfg, tile := f 2 1,
    tiles := tileSet (if kind = 1 then (loopDesc args).tiles else [f 2 1]), args := args, done := f 8 4,
    st := if f 1 1 = 2 then .held else .suspended, ticket := none, batch := f 4 2, passed := 0, after := none, abandon := false, snap := none, stg := none }

/-- R66: a tile from an image. -/
def tileOf (b : List Byte) (o : Nat) : Tile :=
  let w := recField b (o + 8) 8
  { ae := BitVec.ofNat 16 w, ovf := bits w 32 32 == 1, ferr := bits w 33 33 == 1,
    ents := sparse TEntry.zero ((List.range 16384).map fun i =>
      let v := recField b (o + 128 + 16 * i) 16
      (i, ⟨BitVec.ofNat 96 v, bits v 96 96 == 1, bits v 97 97 == 1⟩)) }

/-- R63: the members outstanding in each batch of a restored group: its loops, and the child grids it launched. -/
def State.batchOf (s : State) (grid gang index : Nat) (recs : List ResOp) : SMap Nat :=
  let loops := (recs.filter fun r => r.kind == .mloop).map (·.batch)
  let kids := s.grids.filterMap fun e =>
    match e.2.parent, e.2.batch with
    | some (p, q, _), some (i, b) => if p = grid ∧ q = gang ∧ i = index then some b else none
    | _, _ => none
  (loops ++ kids).foldl (fun m b => m.set 0 b (m.get 0 b + 1)) []

/-- R51, R68, R306: the group of an image as it is admitted at a new identity; its fragments are of one age. -/
def State.groupOf (s : State) (b : List Byte) (g : Grid) (a : Awaited) (gid sq : Nat) : Group × List ResOp :=
  let (nf, nj, nr, _) := imgCounts b
  let (offs, _) := imgLayout b
  let off := fun i => offs.getD i 0
  let lanes := recField b 0x10 2
  let regs := recField b 0x12 2
  let rows := lanes / 32
  let next := ((s.queue? sq).map fun q => q.ents.foldl (fun m e => max m (e.id + 1)) 0).getD 0
  let recs := (List.range nr).map fun i => resOpOf b (off 6 + 128 * i) gid (next + i)
  let word := fun (i lo n : Nat) => recField b (off i + lo) n
  let v := (List.range regs).flatMap fun r => (List.range lanes).map fun l =>
    let blk := (r * rows + l / 32) * 132
    (1024 * r + l, (⟨BitVec.ofNat 32 (word 5 (blk + 4 * (l % 32)) 4), bits (word 5 (blk + 128) 4) (l % 32) (l % 32) == 1⟩ : VReg))
  let p := (List.range 7).map fun n =>
    (n + 1, maskOf ((List.range lanes).filter fun l => bits (word 3 (32 * (l / 32) + 4 * (n + 1)) 4) (l % 32) (l % 32) == 1))
  let x := (List.range 4).flatMap fun k => (List.range lanes).map fun l =>
    (1024 * k + l, (BitVec.ofNat 8 (word 4 (128 * (l / 32) + 32 * k + l % 32) 1) : Byte))
  let j := (List.range nj).map fun i =>
    let o := off 1 + 16 * i
    let q := recField b (o + 12) 1
    (i, (⟨BitVec.ofNat 64 (recField b o 8), BitVec.ofNat 32 (recField b (o + 8) 4), if q = 0xFF then none else some q, recField b (o + 13) 1⟩ : Join))
  let bt := recField b 0x1C 4
  let gr : Group :=
    { lanes := lanes, regs := regs, tenant := g.tenant, asn := g.asn, grid := BitVec.ofNat 32 a.grid, gang := BitVec.ofNat 32 a.gang,
      index := BitVec.ofNat 4 a.index, depth := BitVec.ofNat 4 (recField b 0x24 1), v := sparse VReg.zero v, p := sparse 0 p, x := sparse 0 x,
      s := sparse 0 ((List.range 63).map fun i => (i + 1, (BitVec.ofNat 64 (word 2 (8 * (i + 1)) 8) : Dword))),
      flags := BitVec.ofNat 8 (recField b 0x18 1),
      idx := sparse 0 ((List.range 4).map fun k => (k, (BitVec.ofNat 32 (recField b (0x28 + 4 * k) 4) : Word))),
      ob := BitVec.ofNat 16 (bt / 65536), cb := BitVec.ofNat 16 bt, batch := s.batchOf a.grid a.gang a.index recs,
      frags := (List.range nf).map (fun i => (i, fragOf b (off 0 + 288 * i) s.fresh)), joins := j, loads := [], sq := sq, engs := [],
      halt := none, nextOp := next + nr, stamp := s.fresh, instrs := 0, demand := g.demand,
      seqGiven := if g.demand then some (s.die (gidDie gid)).tokSeq else none, saving := false, stalled := false }
  (gr, recs)

/-- R67: the store queue of a saved group: its own where stores of it are still parked, else a new one. -/
def State.sqOf (s : State) (b : List Byte) (g : Grid) (a : Awaited) (gid : Nat) : Nat × State :=
  match s.queues.find? fun q => q.2.saved && q.2.gid == recField b 8 4 && q.2.grid.toNat == a.grid && q.2.gang.toNat == a.gang with
  | some q => (q.1, s.putQueue q.1 { q.2 with gid := gid, live := true, saved := false })
  | none =>
    let q : StoreQ :=
      { gid := gid, tenant := g.tenant, asn := g.asn, grid := BitVec.ofNat 32 a.grid, gang := BitVec.ofNat 32 a.gang, live := true,
        saved := false, retIdx := none, ents := [] }
    (s.nextQueue, { s.putQueue s.nextQueue q with nextQueue := s.nextQueue + 1 })

/-- R320: a kind 5 record for a fragment restored in call-wait. -/
def State.postRestored (s : State) (gid : Nat) (e : Nat × Frag) : State :=
  match s.group? gid, e.2.call with
  | some g, some w =>
    let n := (lanesOf e.2.mask g.lanes).length
    let (h, s) := s.postRing (gidCluster gid) g.tenant ⟨5, gid, e.1, 0, e.2.mask, 0, [], 0⟩
      (ringBytes 5 w.kind gid e.2.pc.toNat w.call g.tenant.toNat n 0 (leBytes 128 e.2.mask.toNat))
    s.modGroup gid fun g => g.modFrag e.1 fun f => { f with call := some { w with handle := some h } }
  | _, _ => s

/-- R278: the records of restored groups are queued once the group that carries their tiles has been restored. -/
def State.requeue (s : State) (c : Nat) : State :=
  let ready := fun (r : ResOp) => r.st == .suspended && ((s.group? r.gid).map fun g =>
    ((s.gang? g.grid.toNat g.gang.toNat).map fun x => g.halt.isNone && (List.range 16).all fun i =>
      !(decide (i ∈ x.saves) && !(x.carried c i).isEmpty && (x.places.any fun p => p.1 == c && p.2.2.getLsbD i))).getD false).getD false
  let tiles := ((s.cluster c).table.filter ready).map (·.tile)
  let s := s.modCluster c fun x => { x with table := x.table.map fun r => if ready r then { r with st := .queued, passed := 0 } else r }
  tiles.foldl (fun s t => s.kickArray c t) s

/-- R28, R271: whether the core and the table have room for an image. -/
def State.imgFits (s : State) (b : List Byte) (gid : Nat) : Bool :=
  let (nf, nj, nr, _) := imgCounts b
  let c := gidCluster gid
  let tiles := (List.range nr).map fun i => recField b ((imgLayout b).1.getD 6 0 + 128 * i + 2) 1
  let t := (s.cluster c).table
  let half := fun (hi : Bool) => (t.filter fun r => decide (4 ≤ r.tile) == hi).length + (tiles.filter fun n => decide (4 ≤ n) == hi).length
  decide (s.poolUsed (gidCore gid) + nf + nj ≤ 128)
    && if s.split c then decide (half false ≤ 16) && decide (half true ≤ 16) else decide (t.length + nr ≤ 32)

/-- R278, R306, R320: a checked image is admitted at the identity that awaits it; the group finds no V copy there that is older than
what it has read and written elsewhere (R105; DEDUCED, log 24). -/
def State.admitImage (s : State) (b : List Byte) (g : Grid) (a : Awaited) (gid : Nat) : State :=
  let c := gidCluster gid
  let (_, _, _, nt) := imgCounts b
  let (sq, s) := s.sqOf b g a gid
  let (x, recs) := s.groupOf b g a gid sq
  let s := { (s.putGroup gid (Group.advanceCb 16 x)).acquire (gidCore gid) with fresh := s.fresh + 1 }
  let o := (imgLayout b).1.getD 7 0
  let s := s.modCluster c fun y =>
    { y with table := y.table ++ recs, restored := y.restored.erase gid
             tiles := (List.range nt).foldl (fun m i => m.set Tile.reset (recField b (o + 262272 * i) 1) (tileOf b (o + 262272 * i))) y.tiles }
  let s := s.modGang a.grid a.gang fun y => { y with groups := y.groups.set a.index (some gid), saves := y.saves.erase a.index }
  let s := s.modGang a.grid a.gang fun y => if y.saves.isEmpty ∧ y.st = .restoring then { y with st := .placed } else y
  let s := { s with grids := s.grids.map fun (e : Nat × Grid) =>
    match e.2.parent, e.2.batch with
    | some (p, q, _), some (i, _) => if p = a.grid ∧ q = a.gang ∧ i = a.index then (e.1, { e.2 with parent := some (p, q, gid) }) else e
    | _, _ => e }
  let s := s.requeue c
  let s := (x.frags.filter fun e => e.2.state == .callWait).foldl (fun s e => s.postRestored gid e) s
  s.settle gid

/-- R379: a restore is rejected. -/
def State.rejectImage (s : State) (c tenant pa off : Nat) : State :=
  (s.record (c / 16) (mkRec 1 0x13 1 10 tenant 0 (unitOf 1 c) 0 pa off)).setSctxop c 3

/-- R278, R306: CONTEXT_RESTORE_COMPLETE. -/
def execContextRestoreComplete (cv : BitVec 10) (s : State) : Out :=
  let c := cv.toNat
  let ev := Instr.contextRestoreComplete cv
  let gid := (s.svc c).sctxGid.toNat
  if ev ∉ s.due then .next s else
  let a := ((s.cluster c).restored.find gid).bind fun a => if a.reported then some a else none
  let g := a.bind fun a => s.grid? a.grid
  let t := (g.map fun g => g.tenant.toNat).getD 0
  let va := (s.svc c).sctxa.toNat
  let pa := match s.svcXlateIn c .s va Want.load with
    | .ok pa _ _ => pa
    | _ => va
  let gone := s.dropDue ev
  match s.imgRead c va 256 with
  | .waits s => .next s
  | .bad x k s => .next ((s.dropDue ev).imgFault c t 0 x k false)
  | .ok h s' =>
    match firstFail (headerChecks h g) with
    | some o => .next (gone.rejectImage c t pa o)
    | none =>
      match s'.imgRead c va (imgLayout h).2 with
      | .waits s => .next s
      | .bad x k s => .next ((s.dropDue ev).imgFault c t 0 x k false)
      | .ok b s' =>
        match a, g with
        | some a, some g =>
          let m := ((s.gang? a.grid a.gang).map (·.tmask)).getD 0
          match firstFail (sectionChecks b m (s.split c) g.desc.scratch) with
          | some o => .next (gone.rejectImage c t pa o)
          | none =>
            if s'.imgFits b gid then .next (((s'.dropDue ev).admitImage b g a gid).setSctxop c 2) else .next s'
        | _, _ => .next (gone.rejectImage c t pa 8)

/-! ### The restore of a gang (R305, R306) -/

/-- R291, R402: `n` bytes at a physical address as a distributor reads them, or the address that fails. -/
def State.physRead (s : State) (d pa n : Nat) : ImgAcc (List Byte) :=
  let as := (List.range n).map fun i => pa + i
  match as.find? fun a => decide (2 ^ 43 ≤ a) || inHole a || s.poisoned a || !s.reach d (paDie a) with
  | some a => .bad a 2 (if s.reach d (paDie a) then s else s.notSent d (paDie a))
  | none =>
    let lines := (as.map lineOf).dedup
    if lines.any fun l => s.lineBusy l then .waits s
    else
      let s := lines.foldl (fun s l => s.homeSync l false []) s
      .ok (as.map fun a => if backed a then s.readByte a else 0) s

/-- R70, R305: the checks of a gang record's header. -/
def State.recordChecks (s : State) (h : List Byte) : List Check :=
  let f := recField h
  let g := s.grid? (f 8 4)
  let x := s.gang? (f 8 4) (f 0x0C 4)
  let ok := fun (p : Grid → Bool) => (g.map p).getD false
  let n := f 0x14 1
  [(0, f 0 4 == 1), (8, g.isSome), (0x0C, (x.map fun x => x.st == .saved).getD false), (0x10, ok fun g => f 0x10 2 == g.tenant.toNat),
   (0x12, ok fun g => f 0x12 1 == g.desc.groups), (0x13, ok fun g => f 0x13 1 == g.desc.cls), (0x14, decide (1 ≤ n) && decide (n ≤ 16)),
   (0x15, ok fun g => popc (BitVec.ofNat 8 (f 0x15 1)) == g.desc.tiles), (0x16, f 0x16 2 == 0), (0x18, ok fun g => f 0x18 4 == g.desc.scratch)]
    ++ ((List.range 16).map fun i => (0x20 + 4 * i, if i < n then decide (f (0x20 + 4 * i) 4 < 65536) else f (0x20 + 4 * i) 4 == 0))
    ++ zeros h 0x60 32

/-- R269, R341: tiles that a tenant may hold in a cluster in its present mode. -/
def State.maskAllowed (s : State) (c : Nat) (m : Byte) (tenant : BitVec 12) : Bool :=
  m == 0 || !s.split c || (match s.tenantHalf c tenant with
    | some hi => (m &&& if hi then 0x0F else 0xF0) == 0
    | none => false)

/-- R299, R306: a cluster for each word of a gang record, in R299's order. -/
def State.replan (s : State) (grid : Nat) (g : Grid) (m : Byte) : List Nat → List (List Nat) → Option (List Place)
  | _, [] => some []
  | cs, ids :: rest =>
    match cs.find? fun c => s.usable grid c g.desc m && s.maskAllowed c m g.tenant && decide (ids.length ≤ s.clusterRoom c g.desc) with
    | none => none
    | some c =>
      (s.replan grid g m (cs.erase c) rest).map fun ps =>
        ⟨c, (s.grantRoom c g.desc.scratch).getD 0, s.seatGroups c g.desc ids []⟩ :: ps

/-- R297, R306: the clusters that a restore by die d tries, in order. -/
def State.restoreClusters (s : State) (d : Nat) (g : Grid) : List Nat :=
  let own := anyOrder s.fresh (clustersOf d)
  if g.desc.cls ≠ 2 then own else own ++ ((s.spanDies d g.dies).filter (· != d)).flatMap clustersOf

/-- R306: the payload of a 0x44 message for a cluster's place. -/
def placePayload (grid gang : Nat) (p : Place) : List Dword :=
  let ent := fun (e : Nat) => ((p.groups.find? fun x => x.1 == e).map fun x => 2 ^ 15 + x.2 % 256).getD 0
  [BitVec.ofNat 64 (gang * 2 ^ 32 + grid), BitVec.ofNat 64 (256 * p.cluster)]
    ++ (List.range 4).map fun q => BitVec.ofNat 64 (((List.range 4).map fun j => ent (4 * q + j) * 2 ^ (16 * j)).sum)

/-- R305, R306: a restored gang takes its clusters: grants with their contents, tiles, the identities that await groups, and the
record's mask of groups for each. -/
def State.placeRestored (s : State) (d grid gang : Nat) (g : Grid) (b : List Byte) (ps : List Place) : State :=
  let n := g.desc.scratch
  let s := ps.zipIdx.foldl (fun (s : State) (e : Place × Nat) =>
    let p := e.1
    let s := s.modCluster p.cluster fun x =>
      let x := { x with grants := x.grants ++ [⟨BitVec.ofNat 32 grid, BitVec.ofNat 32 gang, p.base, n⟩]
                        restored := p.groups.foldl (fun m q => m.put q.2 ⟨grid, gang, q.1, false⟩) x.restored }
      if n = 0 then x else (x.fill p.base (p.base + n) none).setSbytes p.base ((b.drop (128 + e.2 * n)).take n)
    (s.modDist (p.cluster / 16) fun x => { x with blocked := x.blocked.filter fun q => q.2 != p.cluster || q.1 == grid }).addDue
      (.gangRestorePlacement (BitVec.ofNat 10 p.cluster) (placePayload grid gang p))) s
  s.modGang grid gang fun x =>
    { x with st := .restoring, why := .none, places := ps.zipIdx.map fun e => (e.1.cluster, e.1.base, BitVec.ofNat 16 (recField b (0x20 + 4 * e.2) 4)), tmask := BitVec.ofNat 8 (recField b 0x15 1),
             bgen := BitVec.ofNat 16 (recField b 0x1C 2), barr := BitVec.ofNat 16 (recField b 0x1E 2), root := d, dieMsgs := 0, relWait := 0 }

/-- R299, R306: a gang waits on die d to be restored, before new indices of its tenant; or it waits no more. -/
def State.awaitRoom (s : State) (d grid gang : Nat) : State :=
  s.modDist d fun y => { y with restores := if (grid, gang) ∈ y.restores then y.restores else y.restores ++ [(grid, gang)] }
def State.roomFound (s : State) (d grid gang : Nat) : State :=
  s.modDist d fun y => { y with restores := y.restores.erase (grid, gang) }

/-- R305, R306, R379, R402: GANG_RESTORE: the record is read and checked; the gang takes its clusters, or waits for them. Where the
record cannot be read, the sctxop of the service core that asked reads 3. -/
def execGangRestore (ask : RestoreAsk) (pav : Dword) (s : State) : Out :=
  let d := ask.die.toNat
  let pa := pav.toNat
  let ev := Instr.gangRestore ask pav
  whenUp d ev (fun s =>
    let bad := fun (t a k : Nat) (s : State) =>
      ((s.dropDue ev).record d (mkRec 1 0x13 2 10 t 0 (unitOf 1 ask.src.toNat) 0 a k)).setSctxop ask.src.toNat 3
    match s.physRead d pa 128 with
    | .waits s => s
    | .bad a k s => bad 0 a k s
    | .ok h s' =>
      let grid := recField h 8 4
      let gang := recField h 0x0C 4
      let t := ((s.grid? grid).map fun g => g.tenant.toNat).getD 0
      match firstFail (s.recordChecks h), s.grid? grid, s.gang? grid gang with
      | none, some g, some x =>
        let n := recField h 0x14 1
        match s'.physRead d pa (128 + n * g.desc.scratch) with
        | .waits s => s
        | .bad a k s => bad t a k (s.roomFound d grid gang)
        | .ok b s' =>
          let ids := (List.range n).map fun i => (List.range 16).filter fun e => bits (recField b (0x20 + 4 * i) 4) e e == 1 && decide (e ∈ x.saves)
          match s'.replan grid g (BitVec.ofNat 8 (recField b 0x15 1)) (s'.restoreClusters d g) ids with
          | some ps =>
            if (ps.headD ⟨0, 0, []⟩).cluster / 16 = d then
              ((s'.dropDue ev).roomFound d grid gang).placeRestored d grid gang g b ps
            else s'.awaitRoom d grid gang
          | none => s'.awaitRoom d grid gang
      | some o, _, _ => ((s.dropDue ev).roomFound d grid gang).record d (mkRec 1 0x13 1 10 t 0 (unitOf 7 d) 0 pa o)
      | _, _, _ => s.dropDue ev) s

/-- R306: GANG_RESTORE_PLACEMENT: the service core of a chosen cluster is told. -/
def execGangRestorePlacement (cv : BitVec 10) (payload : List Dword) (s : State) : Out :=
  let c := cv.toNat
  let ev := Instr.gangRestorePlacement cv payload
  let p := (payload.headD 0).toNat
  if ev ∉ s.due then .next s
  else if (s.cluster c).out then .next (s.dropDue ev)
  else if 256 ≤ (s.svc c).rcv.length then .next s
  else
    let d := ((s.gang? (p % 2 ^ 32) (p / 2 ^ 32)).map (·.root)).getD (c / 16)
    let hdr : Dword := BitVec.ofNat 64 (0x44 * 2 ^ 40 + payload.length * 2 ^ 32 + c)
    .next ((s.dropDue ev).modCluster c fun x =>
      { x with restored := x.restored.map fun (e : Nat × Awaited) =>
                 if e.2.grid = p % 2 ^ 32 ∧ e.2.gang = p / 2 ^ 32 then (e.1, { e.2 with reported := true }) else e
               svc := { x.svc with rcv := x.svc.rcv ++ [(.dist (BitVec.ofNat 6 d), ⟨hdr, payload⟩)] } })

end Sys2Proof.Machine
end

