-- ==== Sys2Proof/Machine/Registers.lean ====
section
/-!
DEFINITION. Writes of device registers: the CSRs of a service core and the control frame of a die (00 R6, R7, 04 R75, R76,
12 R301, 13 R313, 14 R336 to R342, R351, R353, R356, 17 R369, R373, 18 R385, R392, 20 R416).
-/

namespace Sys2Proof.Machine

/-! ### Who may write (R76) -/

/-- R76: firmware, the distributor and service cores in S-mode. -/
def trusted : Agent → Bool
  | .host => false
  | _ => true
/-- R76: service cores in S-mode. -/
def isPeat : Agent → Bool
  | .peat _ => true
  | _ => false
/-- R76, R336: M-mode firmware and the distributor. -/
def isFirm : Agent → Bool
  | .firmware | .distributor => true
  | _ => false

/-- Fields of a register that a write stores: the bits of `m`. -/
def keepBits (old v m : Dword) : Dword := (old &&& ~~~m) ||| (v &&& m)

/-! ### The control frame (R76) -/

/-- R369: ERRCTL: hen, link, hsev, msev, alt, sc. -/
def State.writeErrctl (s : State) (d : Nat) (v : Dword) : State :=
  s.modDie d fun x => { x with errctl := keepBits x.errctl v 0x8FF003FF000003FF }

/-- R392: auditctl: en and period; mism is read only. -/
def State.writeAuditctl (s : State) (d : Nat) (v : Dword) : State :=
  s.modDie d fun x => { x with auditctl := keepBits x.auditctl v 0x8000FFFF00000000 }

/-- R301: SHARE_TABLE_WRITE. -/
def execShareTableWrite (die : BitVec 6) (a : Agent) (t : BitVec 12) (v : Byte) (s : State) : Out :=
  .next (if isPeat a then s.modDie die.toNat fun x => { x with shares := x.shares.set 1 t.toNat (if v = 0 then 1 else v) } else s)

/-- R341: two valid entries share a slice group, or the array of a cluster. -/
def tcfgClash (req : BitVec 16) (a b : Dword) : Bool :=
  let sg := fun (e : Dword) => e.extractLsb' 32 16
  let hm := fun (e : Dword) => e.extractLsb' 16 16
  let half := fun (e : Dword) => e.extractLsb' 0 16
  a.getLsbD 63 && b.getLsbD 63 && (sg a &&& sg b != 0 || (hm a &&& hm b &&& (~~~req ||| ~~~(half a ^^^ half b))) != 0)

/-- R341, R416: TCFG_WRITE. -/
def execTcfgWrite (die : BitVec 6) (a : Agent) (n : BitVec 4) (v : Dword) (s : State) : Out :=
  let d := die.toNat
  let x := s.die d
  let v := keepBits 0 v 0x8FFFFFFFFFFFFFFF
  match a with
  | .peat c =>
    if (List.range 16).any fun k => k != n.toNat && tcfgClash x.mmodeReq v (x.tcfg.get 0 k) then
      .next (s.record d (mkRec 1 0x23 4 0 0 0 (unitOf 1 c.toNat) 0 0 0))
    else .next (s.putDie d { x with tcfg := x.tcfg.set 0 n.toNat v })
  | _ => .next s

/-- R337: fwctl as a write leaves it: M-mode firmware alone sets lock; a locked map keeps part and its closed boundaries. -/
def fwctlTaken (old v : Dword) (firmware : Bool) : Dword :=
  let lock := old &&& BitVec.twoPow 64 63
  let set := if firmware then v &&& BitVec.twoPow 64 63 else 0
  if lock = 0 then set ||| (v &&& 0x3F0F) else old ||| (v &&& 0xF)

/-- R416: cause 0x03: across a boundary open on both sides the parts differ. -/
def State.partsClash (s : State) (d dir : Nat) : Bool :=
  match neighbour d dir with
  | none => false
  | some e =>
    let x := s.die d
    let y := s.die e
    !(x.fwctl.getLsbD dir || x.fence.getLsbD dir) && !(y.fwctl.getLsbD (dir ^^^ 1) || y.fence.getLsbD (dir ^^^ 1)) && x.part != y.part

/-- R416: both dies hold a boundary closed, or no longer, and what is newly closed is recorded by die d. -/
def State.checkBoundary (s : State) (d dir : Nat) : State :=
  match neighbour d dir with
  | none => s
  | some e =>
    let clash := s.partsClash d dir
    let was := (s.die d).shut.getLsbD dir
    let put := fun (x : Die) (k : Nat) => { x with shut := (x.shut &&& ~~~(BitVec.twoPow 4 k)) ||| if clash then BitVec.twoPow 4 k else 0 }
    let s := (s.modDie d fun x => put x dir).modDie e fun x => put x (dir ^^^ 1)
    if clash && !was then s.record d (mkRec 1 0x23 3 0 0 0 (unitOf 9 (4 * d + dir)) 0 0 0) else s

/-- R336, R337, R416: FWCTL_WRITE. -/
def execFwctlWrite (die : BitVec 6) (a : Agent) (v : Dword) (s : State) : Out :=
  let d := die.toNat
  if !isFirm a then .next s
  else
    let s := s.modDie d fun x => { x with fwctl := fwctlTaken x.fwctl v (a == .firmware) }
    .next ([0, 1, 2, 3].foldl (fun s dir => s.checkBoundary d dir) s)

/-- R342: MMODE_WRITE: the engines of clusters whose request differs from their mode change it when they can. -/
def execMmodeWrite (die : BitVec 6) (a : Agent) (v : Dword) (s : State) : Out :=
  let d := die.toNat
  if !isPeat a then .next s
  else
    let s := s.modDie d fun x => { x with mmodeReq := v.extractLsb' 0 16 }
    let x := s.die d
    .next ((List.range 16).foldl (fun s c =>
      if x.mmodeReq.getLsbD c = x.mmodeCur.getLsbD c then s else s.addDue (.arrayModeSwitch (BitVec.ofNat 10 (16 * d + c)))) s)

/-- R347, R351: where a die keeps its tokens and its delegation certificate. -/
def tokenAt (d seq : Nat) : Nat := d * 2 ^ 37 + 0x04000000 + 32768 * (seq % 64)
def certAt (d : Nat) : Nat := d * 2 ^ 37 + 0x04200000

/-- R346, R351: a signature of `n` bytes over a body (DESIGN CHOICE, log 7). -/
def rsaOf (body : List Byte) : List Byte := (List.range 384).map fun i => Config.rsaSignature body i
def slhOf (body : List Byte) : List Byte := (List.range 17088).map fun i => Config.slhSignature body i

/-- R351: the delegation certificate is filled and signed. -/
def State.certify (s : State) (d : Nat) : State :=
  let seq := (s.die d).tokSeq
  let body := leBytes 4 1 ++ leBytes 4 d ++ leBytes 8 seq ++ s.deviceBytes (certAt d + 0x10) 32 ++ leBytes 16 0
  s.deviceWrite (certAt d) (body ++ rsaOf body ++ slhOf body)

/-- R351, R356: FMODE_WRITE: bit 3 reads 1 with the certificate signed. -/
def execFmodeWrite (die : BitVec 6) (a : Agent) (v : Dword) (s : State) : Out :=
  let d := die.toNat
  if !isPeat a then .next s
  else
    let s := if v.getLsbD 3 && !(s.die d).fmode.getLsbD 3 then s.certify d else s
    .next (s.modDie d fun x => { x with fmode := v &&& 0x3F })

/-- R352: the Lode link that terminates on a die. -/
def dieLink (d : Nat) : Option Nat := if d ≤ 6 then some d else if 57 ≤ d then some (d - 50) else none

/-- R353, R422: LCFG_WRITE: a gmax of 0 or 3 leaves it; a write of gmax lets a link that failed to train try again. -/
def execLcfgWrite (die : BitVec 6) (a : Agent) (v : Dword) (s : State) : Out :=
  let d := die.toNat
  match dieLink d, a with
  | some n, .distributor =>
    let g := v.extractLsb' 58 2
    let keep := g == 0 || g == 3
    let s := s.modDie d fun x => { x with lcfg := keepBits x.lcfg v (if keep then 0xC00000000000FFFF else 0xCC0000000000FFFF) }
    let s := if keep then s else { s with links := s.links.put n { s.links.get Link.reset n with fails := 0 } }
    .next (if v.getLsbD 63 && (s.links.get Link.reset n).up then s.linkUp else s)
  | _, _ => .next s

/-- R385: QTMO_WRITE. -/
def execQtmoWrite (die : BitVec 6) (a : Agent) (v : Dword) (s : State) : Out :=
  .next (if trusted a then s.modDie die.toNat fun x => { x with qtmo := v &&& 0x80000000FFFFFFFF } else s)

/-- R373: fence bits are set on a die; with a neighbour fenced its replace request is set, for reason [0]. -/
def Die.setFence (x : Die) (v : Dword) : Die :=
  { x with fence := x.fence ||| (v &&& 0x1F)
           rreq := x.rreq ||| if v &&& 0xF = 0 then 0 else BitVec.twoPow 64 63 ||| BitVec.twoPow 64 48 }

/-- R373: FENCE_REGISTER_WRITE: each 1 sets its bit. -/
def execFenceRegisterWrite (die : BitVec 6) (a : Agent) (v : Dword) (s : State) : Out :=
  .next (if trusted a then s.modDie die.toNat fun x => x.setFence v else s)

/-- R373: the module's replace-request signal: req is 1 on a die. -/
def State.replaceRequest (s : State) : Bool := s.dies.any fun e => e.2.rreq.getLsbD 63

/-- R373: RREQ_WRITE: each 1 of req and reason sets its bit; seq is read only. -/
def execRreqWrite (die : BitVec 6) (a : Agent) (v : Dword) (s : State) : Out :=
  .next (if trusted a then s.modDie die.toNat fun x => { x with rreq := x.rreq ||| (v &&& 0x8003000000000000) } else s)

/-- R76: an 8-byte write at an offset of the control frame. DEDUCED: log 34. -/
def State.writeControl (s : State) (die : BitVec 6) (off : Nat) (a : Agent) (v : Dword) : Out :=
  let d := die.toNat
  match off with
  | 0x00 => .next (if trusted a then s.writeErrctl d v else s)
  | 0x10 => execRreqWrite die a v s
  | 0x18 => execFenceRegisterWrite die a v s
  | 0x20 => execQtmoWrite die a v s
  | 0x28 => .next (if trusted a then s.writeAuditctl d v else s)
  | 0x38 => execFwctlWrite die a v s
  | 0x40 => execFmodeWrite die a v s
  | 0x48 => execMmodeWrite die a v s
  | 0x50 => execLcfgWrite die a v s
  | _ =>
    if 0x80 ≤ off ∧ off < 0x100 ∧ off % 8 = 0 then execTcfgWrite die a (BitVec.ofNat 4 ((off - 0x80) / 8)) v s else .next s

/-- R369: errstat. -/
def Die.errstat (x : Die) : Dword := BitVec.ofNat 64 (x.dropped * 2 ^ 48 + x.seq % 2 ^ 48)

/-- R76: an 8-byte read at an offset of the control frame; an offset that names no register reads 0. DEDUCED: log 34. -/
def Die.readControl (x : Die) (d off : Nat) : Dword :=
  match off with
  | 0x00 => x.errctl
  | 0x08 => x.errstat
  | 0x10 => x.rreq
  | 0x18 => x.fence
  | 0x20 => x.qtmo
  | 0x28 => x.auditctl
  | 0x30 => x.mhealth
  | 0x38 => x.fwctl
  | 0x40 => x.fmode
  | 0x48 => BitVec.ofNat 64 (x.mmodeCur.toNat * 2 ^ 32 + x.mmodeReq.toNat)
  | 0x50 => if (dieLink d).isSome then x.lcfg else 0
  | _ => if 0x80 ≤ off ∧ off < 0x100 ∧ off % 8 = 0 then x.tcfg.get 0 ((off - 0x80) / 8) else 0

/-! ### The CSRs of a service core (R6, R310, R313) -/

/-- R310: the CSRs of the Unprivileged ISA and the Privileged Architecture that a service core has, satp and the identity
registers among them (PRESUMED, log 54). -/
def plainCsrs : List Nat :=
  [0x001, 0x002, 0x003, 0x100, 0x104, 0x105, 0x106, 0x10A, 0x140, 0x141, 0x142, 0x143, 0x144, 0x180, 0x300, 0x301, 0x302, 0x303, 0x304,
   0x305, 0x306, 0x30A, 0x320, 0x340, 0x341, 0x342, 0x343, 0x344, 0xB00, 0xB02, 0xC00, 0xC02, 0xF11, 0xF12, 0xF13, 0xF14, 0xF15]

/-- R313: the Maelem CSRs of a service core. -/
def maelemCsr (n : Nat) : Bool := (decide (0x5C0 ≤ n) && decide (n ≤ 0x5D6)) || n == 0xDC0 || n == 0xDC1

/-- R310, R313: whether an access to a CSR in the core's mode is legal: it is there, the mode may reach it, a standard
read-only one is not written, and M-mode, which has not enabled them, leaves the Maelem CSRs. PRESUMED: log 54. -/
def Svc.csrLegal (x : Svc) (n : Nat) (write : Bool) : Bool :=
  if maelemCsr n then x.mode == .s
  else
    decide (n ∈ plainCsrs) && decide (n / 256 % 4 ≤ x.mode.code) && !(write && decide (0xC00 ≤ n))
      && !(decide (n ≤ 3) && (x.csr 0x300).extractLsb' 13 2 == 0)
      && !(n == 0x180 && x.mode == .s && (x.csr 0x300).getLsbD 20)
      && !((n == 0xC00 || n == 0xC02) && ((x.mode != .m && !(x.csr 0x306).getLsbD (n % 256)) || (x.mode == .u && !(x.csr 0x106).getLsbD (n % 256))))

/-- R310: the fields of mstatus, and those of its view sstatus. -/
def mstatusBits : Dword := 0x7E79AA
def sstatusBits : Dword := 0xC6122

/-- R310: mstatus as it reads: XLEN 64 in every mode, and SD. -/
def Svc.mstatus (x : Svc) : Dword :=
  (x.csr 0x300 &&& mstatusBits) ||| 0xA00000000 ||| if (x.csr 0x300).extractLsb' 13 2 = 3 then BitVec.twoPow 64 63 else 0

/-- R310: the standard interrupts that are delegated to S-mode. -/
def Svc.delegated (x : Svc) : Dword := x.csr 0x303 &&& 0x222

/-- R313: srefuse k reads and writes the counter of core k (R124). -/
def State.setRefusals (s : State) (c k : Nat) (v : Dword) : State := s.modCore (4 * c + k) fun x => { x with refusals := v.extractLsb' 0 32 }

/-- R310: the value of a CSR of the Privileged Architecture. PRESUMED: log 54. -/
def State.plainCsr (s : State) (c n : Nat) : Dword :=
  let x := s.svc c
  match n with
  | 0x001 => (x.fcsr &&& 0x1F).zeroExtend 64
  | 0x002 => (x.fcsr.extractLsb' 5 3).zeroExtend 64
  | 0x003 => x.fcsr.zeroExtend 64
  | 0x100 => x.mstatus &&& (0x8000000300000000 ||| sstatusBits)
  | 0x104 => x.sie ||| (x.csr 0x304 &&& x.delegated)
  | 0x105 => x.stvec
  | 0x141 => x.sepc
  | 0x142 => x.scause
  | 0x143 => x.stval
  | 0x144 => s.sip c ||| (x.csr 0x344 &&& x.delegated)
  | 0x180 => 0
  | 0x300 => x.mstatus
  | 0x301 => 0x800000000014112D
  | 0xC00 => x.csr 0xB00
  | 0xC02 => x.csr 0xB02
  | 0xF14 => BitVec.ofNat 64 c
  | _ => if 0xF00 ≤ n then 0 else x.csr n

/-- R6, R313: the value that a read of a CSR of a service core returns; a write-only one reads 0. -/
def State.readCsr (s : State) (c n : Nat) : Dword :=
  let x := s.svc c
  let k := fun (b : Bool) => if b then (1 : Dword) else 0
  match n with
  | 0x5C0 => x.sdroot
  | 0x5C1 => x.intake
  | 0x5C2 => x.scsel
  | 0x5C5 => ((s.cluster c).rings.get RingSlot.reset x.ringSel).config x.ringSel
  | 0x5C6 => x.sqsel
  | 0x5C9 => k x.ctbPending
  | 0x5CA => x.smsgdst
  | 0x5CC => k x.sendAccepted
  | 0x5CD => x.msg
  | 0x5CE => x.nextWord
  | 0x5CF => BitVec.ofNat 64 x.sbten
  | 0x5D1 => (s.core (4 * c)).refusals.zeroExtend 64
  | 0x5D2 => (s.core (4 * c + 1)).refusals.zeroExtend 64
  | 0x5D3 => (s.core (4 * c + 2)).refusals.zeroExtend 64
  | 0x5D4 => (s.core (4 * c + 3)).refusals.zeroExtend 64
  | 0x5D5 => x.sctxa
  | 0x5D6 => x.sctxop.zeroExtend 64
  | 0xDC0 => BitVec.ofNat 64 (s.sbudget c)
  | 0xDC1 => BitVec.ofNat 64 (s.speriod c)
  | _ => if maelemCsr n then 0 else s.plainCsr c n

/-- R96, R313: a write of sqans. -/
def State.writeSqans (s : State) (cv : BitVec 10) (v : Dword) : Out :=
  let e := v.extractLsb' 0 10
  match (v.extractLsb' 10 2).toNat with
  | 0 => execSqansRetry cv e s
  | 1 => execSqansEmulateLoad cv e s
  | 2 => execSqansEmulateStore cv e s
  | _ => execSqansAbort cv e s

/-- R310: MPP takes a mode that is there. -/
def legalMpp (old v : Dword) : Dword := if v.extractLsb' 11 2 = 2 then keepBits v old 0x1800 else v

/-- R310: a write of a CSR of the Privileged Architecture. PRESUMED: log 54. -/
def Svc.writePlain (x : Svc) (n : Nat) (v : Dword) : Svc :=
  let set := fun (m : Dword) => { x with csrs := x.csrs.set 0 n (keepBits (x.csr n) v m) }
  let view := fun (k : Nat) (m : Dword) => { x with csrs := x.csrs.set 0 k (keepBits (x.csr k) v m) }
  let dirty := fun (x : Svc) => { x with csrs := x.csrs.set 0 0x300 (x.csr 0x300 ||| 0x6000) }
  match n with
  | 0x001 => dirty { x with fcsr := (x.fcsr &&& 0xE0) ||| (v.extractLsb' 0 8 &&& 0x1F) }
  | 0x002 => dirty { x with fcsr := (x.fcsr &&& 0x1F) ||| (v.extractLsb' 0 8 <<< 5) }
  | 0x003 => dirty { x with fcsr := v.extractLsb' 0 8 }
  | 0x100 => view 0x300 sstatusBits
  | 0x104 => { view 0x304 x.delegated with sie := v &&& 0xF0000 }
  | 0x105 => { x with stvec := v &&& ~~~2 }
  | 0x106 | 0x306 | 0x320 => set 5
  | 0x10A | 0x30A => set 1
  | 0x141 => { x with sepc := v &&& ~~~1 }
  | 0x142 => { x with scause := v }
  | 0x143 => { x with stval := v }
  | 0x144 => view 0x344 (x.delegated &&& 2)
  | 0x300 => { x with csrs := x.csrs.set 0 0x300 (legalMpp (x.csr 0x300) v &&& mstatusBits) }
  | 0x302 => set 0xB3FF
  | 0x303 => set 0x222
  | 0x304 => set 0xAAA
  | 0x305 => set (~~~2)
  | 0x341 => set (~~~1)
  | 0x344 => set 0x222
  | 0x140 | 0x340 | 0x342 | 0x343 | 0xB00 | 0xB02 => set (~~~0)
  | _ => x

/-- R6, R310, R313: a write of a CSR that is legal; one that is read only ignores it. DEDUCED: log 34. smsgrd has a meaning for reads
alone: a write of it has no effect (DESIGN CHOICE, log 34). -/
def State.putCsr (s : State) (cv : BitVec 10) (n : Nat) (v : Dword) : Out :=
  let c := cv.toNat
  let put := fun (f : Svc → Svc) => Host.Outcome.next (s.modSvc c f)
  match n with
  | 0x5C0 => put fun x => { x with sdroot := v &&& 0x800000000000FFFF }
  | 0x5C1 => execSintake cv s
  | 0x5C2 => put fun x => { x with scsel := v &&& 0xFFFF000003FF }
  | 0x5C3 => execScres cv v s
  | 0x5C4 => if v.getLsbD 63 then execSlresumeRelease cv v s else execSlresumeStage cv v s
  | 0x5C5 => execSring cv v s
  | 0x5C6 => execSqsel cv v s
  | 0x5C7 => execSqdata cv v s
  | 0x5C8 => s.writeSqans cv v
  | 0x5C9 =>
    if v.getLsbD 63 then execSctbinvAllSpaces cv s
    else if v.getLsbD 62 then execSctbinvPage cv (v.extractLsb' 0 16) (v.extractLsb' 16 39) s
    else execSctbinvSpace cv (v.extractLsb' 0 16) s
  | 0x5CA => put fun x => { x with smsgdst := v &&& 0xFFFF000007FF }
  | 0x5CB => execSmsgdat cv v s
  | 0x5CC => execSmsgsend cv s
  | 0x5CD => execSmsgrcv cv s
  | 0x5CE => .next s
  | 0x5CF => .next (s.setSbten c (v.extractLsb' 0 4).toNat)
  | 0x5D0 => execSmresume cv v s
  | 0x5D1 => .next (s.setRefusals c 0 v)
  | 0x5D2 => .next (s.setRefusals c 1 v)
  | 0x5D3 => .next (s.setRefusals c 2 v)
  | 0x5D4 => .next (s.setRefusals c 3 v)
  | 0x5D5 => put fun x => { x with sctxa := v &&& ~~~0x7F }
  | 0x5D6 => .next (s.writeSctxop c v)
  | _ => put fun x => x.writePlain n v

/-- R310, R313: a write of a CSR by a service core: what its mode may not write is an illegal instruction. -/
def State.writeCsr (s : State) (cv : BitVec 10) (n : Nat) (v : Dword) : Out :=
  if (s.svc cv.toNat).csrLegal n true then s.putCsr cv n v else .next (s.svcTrap cv.toNat 2 0)

/-- R6, R7, R76, R313: REGISTER_WRITE. An agent that a register does not name has no effect. -/
def execRegisterWrite (r : RegName) (a : Agent) (v : Dword) (s : State) : Out :=
  match r with
  | .csr c num =>
    match a with
    | .peat e => if e = c ∧ (s.svc c.toNat).mode ≠ .m then s.writeCsr c num.toNat v else .next s
    | .firmware => if (s.svc c.toNat).mode = .m then s.writeCsr c num.toNat v else .next s
    | _ => .next s
  | .ctl die off => if off.toNat / 65536 = 0x580 then s.writeControl die (off.toNat - 0x5800000) a v else .next s

end Sys2Proof.Machine
end

