-- ==== Sys2Proof/Machine/Sluice.lean ====
section
/-!
DEFINITION. Tenant switches, Sluice, scrub tokens, delegated signing and attestation (12 R307, 14 R343 to R351, 20 R413 to
R415).
-/

namespace Sys2Proof.Machine

/-! ### Tenant switch (R307, R343) -/

/-- R341: the tenant has a valid entry in a die's table. -/
def Die.hasTenant (x : Die) (t : Nat) : Bool :=
  (List.range 16).any fun n => let e := x.tcfg.get 0 n; e.getLsbD 63 && (e.extractLsb' 48 12).toNat == t

/-- R307, R343: the gang runs on a core or holds a tile of an array half that a switch of die d names. -/
def Gang.meets (x : Gang) (d : Nat) (cores : Dword) (halves : Word) : Bool :=
  (x.groups.any fun g => (g.map fun gid => gidDie gid == d && cores.getLsbD (gidCore gid % 64)).getD false) ||
    x.places.any fun p => p.1 / 16 == d &&
      ((x.tmask &&& 0x0F != 0 && halves.getLsbD (2 * (p.1 % 16))) || (x.tmask &&& 0xF0 != 0 && halves.getLsbD (2 * (p.1 % 16) + 1))
        || (List.range 4).any fun k => cores.getLsbD (4 * (p.1 % 16) + k) && x.groups.all fun g => g.isNone)

/-- R307: the gangs of a tenant that a switch saves. DEDUCED: log 36. -/
def State.switchGangs (s : State) (d tenant : Nat) (cores : Dword) (halves : Word) : List (Nat × Nat) :=
  s.grids.flatMap fun e => if e.2.tenant.toNat = tenant then
    (e.2.gangs.filter fun x => x.2.st != .saved && x.2.meets d cores halves).map fun x => (e.1, x.1) else []

/-- R307: a gang that a switch waits for is halted to be saved, whatever halt it was under; an abort stands. -/
def State.switchGang (s : State) (e : Nat × Nat) : State :=
  match s.gang? e.1 e.2 with
  | none => s
  | some x =>
    if x.st = .placed ∨ x.st = .draining ∨ x.st = .restoring then s.haltGang e.1 e.2 .switch
    else if x.why = .abort then s
    else s.modGang e.1 e.2 fun x => { x with why := .switch }

/-- R346: a die's switch or scrub is one of these tenants', and no token of its set is formed yet. -/
def Die.joins (x : Die) (tout tin : Nat) : Bool :=
  ((x.dist.switch.map fun w => w.tout == tout && w.tin == tin && !w.closed).getD false)
    || ((x.scrub.map fun c => c.tout == tout && c.tin == tin && !c.closed).getD false)

/-- R346: the set of a scrub's dies stands once one of them forms its token, so that all their tokens carry it. -/
def State.closeScrub (s : State) (c : Scrub) : State :=
  { s with dies := s.dies.map fun (e : Nat × Die) =>
      if c.dies.getLsbD e.1 && e.2.joins c.tout c.tin then
        (e.1, { e.2 with dist := { e.2.dist with switch := e.2.dist.switch.map fun w => { w with closed := true } }
                         scrub := e.2.scrub.map fun c => { c with closed := true } })
      else e }

/-- R346: die d joins a scrub: the dies of its partition that switch the same tenants take part in one with it, until one of
them forms its token. UNVERIFIED: log 35. -/
def State.joinScrub (s : State) (d tout tin : Nat) : State :=
  let same := fun (e : Nat × Die) => s.samePart d e.1 && (e.1 == d || e.2.joins tout tin)
  let all := (s.dies.filter same).foldl (fun m e =>
    m ||| BitVec.twoPow 64 e.1 ||| ((e.2.dist.switch.map (·.dies)).getD 0) ||| ((e.2.scrub.map (·.dies)).getD 0)) (0 : BitVec 64)
  { s with dies := s.dies.map fun (e : Nat × Die) =>
      if same e then
        (e.1, { e.2 with dist := { e.2.dist with switch := e.2.dist.switch.map fun w => { w with dies := all } }
                         scrub := e.2.scrub.map fun c => { c with dies := all } })
      else e }

/-- R343: TENANT_SWITCH: the gangs of the outgoing tenant are halted to be saved; then Sluice runs. -/
def execTenantSwitch (die : BitVec 6) (payload : List Dword) (s : State) : Out :=
  let d := die.toNat
  let ev := Instr.tenantSwitch die payload
  whenUp d ev (fun s =>
    let w := fun i => payload.getD i 0
    let tout := ((w 0).extractLsb' 0 16).toNat
    let tin := ((w 0).extractLsb' 32 16).toNat
    let rsvd := (w 0).extractLsb' 48 16 != 0 || (w 0).extractLsb' 16 16 != 0 || (w 0).extractLsb' 12 4 != 0 || (w 2).extractLsb' 32 32 != 0
      || (w 4).extractLsb' 32 32 != 0
    if rsvd || !(s.die d).hasTenant tout then (s.dropDue ev).distRecord d 1 5 (tout % 4096) (w 0).toNat
    else if (s.dist d).switch.isSome || (s.die d).scrub.isSome then s
    else
      let cores := w 1
      let halves := (w 2).extractLsb' 0 32
      let gangs := s.switchGangs d tout cores halves
      let sw : Switch :=
        { tout := tout, tin := tin, cores := cores, halves := halves, list := (w 3).toNat, n := ((w 4).extractLsb' 0 32).toNat,
          gangs := gangs, freed := [], dies := BitVec.twoPow 64 d, closed := false }
      let s := ((s.dropDue ev).modDist d fun x => { x with switch := some sw }).modDie d fun x => { x with firstSeq := x.firstSeq.erase tin }
      let s := gangs.foldl (fun s e => s.switchGang e) (s.joinScrub d tout tin)
      s.addDue (.sluiceScrub die [])) s

/-! ### Sluice (R344, R345, R413, R414) -/

/-- R344, R346: an entry of a range list: first frame, frames, next state and owner. -/
structure RangeEnt where
  pa : Nat
  count : Nat
  next : Nat
  owner : Nat
  ok : Bool

/-- R346: the entry of the boot scrub of die d. -/
def bootEntry (d : Nat) : List Byte := leBytes 8 (d * 2 ^ 37 + 0x08000000) ++ leBytes 4 1951077 ++ leBytes 4 0

/-- R344: the fields of an entry. -/
def rangeEnt (b : List Byte) : RangeEnt :=
  let f := recField b
  { pa := f 0 8, count := f 8 4, next := f 0x0C 1, owner := f 0x0E 2,
    ok := f 0 8 % 65536 == 0 && decide (f 0 8 < 2 ^ 43) && decide (1 ≤ f 8 4) && decide (f 8 4 ≤ 2 ^ 21) && decide (f 0x0C 1 ≤ 1) && f 0x0D 1 == 0
      && decide (f 0x0E 2 < 4096) }

/-- The bytes of a command's range list. -/
def State.listBytes (s : State) (d : Nat) (c : Scrub) : List Byte := if c.boot then bootEntry d else s.deviceBytes c.list (16 * c.n)

/-- The entries of a list. -/
def rangeList (b : List Byte) : List RangeEnt := (List.range (b.length / 16)).map fun i => rangeEnt ((b.drop (16 * i)).take 16)

/-- The frames of an entry, as physical addresses. -/
def RangeEnt.frames (e : RangeEnt) : List Nat := (List.range e.count).map fun i => e.pa + 65536 * i

/-- R344, R413: the first entry that is malformed or holds a frame not in state scrub-pending. -/
def State.badEntry (s : State) (es : List RangeEnt) : Option Nat :=
  es.findIdx? fun e => !e.ok || e.frames.any fun f => inHole f || ownState (s.ownEntry f) != 2

/-- R345: the freed scratchpad and tiles that no gang has taken since are zeroed. DEDUCED: log 36. -/
def State.clearFreed (s : State) (f : Nat × Nat × Nat × Byte) : State :=
  let (c, base, size, tmask) := f
  let taken := (s.cluster c).grants.any fun g => decide (base < g.base + g.size) && decide (g.base < base + size)
  let held := s.tilesHeld c
  s.modCluster c fun x =>
    let x := if size = 0 || taken then x else x.fill base (base + size) none
    { x with tiles := (List.range 8).foldl (fun m t => if tmask.getLsbD t && !held.getLsbD t then m.erase t else m) x.tiles }

/-- R345: the translations of a tenant's address spaces leave the die's buffers. -/
def State.dropTenant (s : State) (d tenant : Nat) : State :=
  let s := (clustersOf d).foldl (fun s c => s.modCluster c fun x => { x with ctb := x.ctb.filter fun e => e.tenant.toNat != tenant }) s
  let of := fun (asn : Nat) => bits (s.spaceEntry d asn) 63 52
  s.modDie d fun x => { x with tcache := x.tcache.filter fun e => of (e.1 / 2 ^ 43) != tenant }

/-- R345: the caches of a named core are emptied, and its counters cleared. Modified data are written back; step 6 writes zeros
over those of listed frames, so that they are discarded. -/
def State.clearCore (s : State) (k : Nat) : State :=
  let c := cacheOfCore k
  let s := (s.cache c).lines.foldl (fun s e => s.evict c e.1) s
  s.modCore k fun x => { x with icache := [], pins := [], refusals := 0 }

/-- R345: a line of a listed frame on its way to a cache carries zeros. -/
def zeroFlight (lo n : Nat) (i : Instr) : Instr :=
  let hit := fun (l : Nat) => decide (lo ≤ l) && decide (l < lo + n)
  match i with
  | .fillGrantReceived cache line m seq data => .fillGrantReceived cache line m seq (if hit line then data.map fun _ => 0 else data)
  | .pushDelivery q op core line src t refuse data => .pushDelivery q op core line src t refuse (if hit line then data.map fun _ => 0 else data)
  | i => i

/-- R345, R414: every byte of a listed frame is zeroed, in memory and in every cache; its poison goes, but of a frame that keeps
a poisoned sector. -/
def State.zeroFrame (s : State) (f : Nat) (stuck : Bool) : State :=
  let s := s.zeroRange f (f + 65536)
  let clean := fun (q : Nat × L1Line) =>
    if f / 128 ≤ q.1 ∧ q.1 < f / 128 + 512 then (q.1, { q.2 with psn := 0, dirty := 0, data := q.2.data.map fun _ => 0 }) else q
  { s with
    poison := s.poison.filter fun k => stuck || !(decide (f ≤ 32 * k) && decide (32 * k < f + 65536))
    due := s.due.map (zeroFlight (f / 128) 512)
    caches := s.caches.map fun (e : Nat × Cache) =>
      (e.1, { e.2 with lines := e.2.lines.map clean }) }

/-- R345, R414: a listed frame's ownership entry; a frame that could not be cleared is withdrawn. -/
def State.setOwner (s : State) (f : Nat) (e : RangeEnt) (stuck : Bool) : State :=
  s.deviceWrite (paDie f * 2 ^ 37 + 8 * (paOff f / 65536)) (leBytes 8 (if stuck then 4 * 4096 else e.next * 4096 + e.owner))

/-- R346: bytes 0x00 to 0x5F of a token. -/
def tokenBody (seq d flags tout tin : Nat) (dies : BitVec 64) (clock : Nat) (list : List Byte) : List Byte :=
  leBytes 4 1 ++ leBytes 4 17568 ++ leBytes 8 seq ++ leBytes 1 d ++ leBytes 1 flags ++ leBytes 2 tout ++ leBytes 2 tin ++ leBytes 2 0
    ++ leBytes 8 dies.toNat ++ leBytes 8 clock ++ (List.range 48).map (fun i => Config.sha384 list i) ++ leBytes 8 0

/-- R345, R346, R347: steps 1 to 8 of a scrub. UNVERIFIED: log 35. -/
def State.scrubSteps (s : State) (d : Nat) (c : Scrub) (list : List Byte) (stuck : List Nat) : State :=
  let es := rangeList list
  let frames := es.flatMap fun e => e.frames.map fun f => (f, e)
  let seq := (s.die d).tokSeq + 1
  let s := s.closeScrub c
  let s := c.freed.foldl (fun s f => s.clearFreed f) s
  let s := s.dropTenant d c.tout
  let s := ((List.range 64).filter fun k => c.cores.getLsbD k).foldl (fun s k => s.clearCore (64 * d + k)) s
  let gone := fun (k : Nat) (r : ResOp) => c.halves.getLsbD (2 * (k % 16) + if 4 ≤ r.tile then 1 else 0) && (s.group? r.gid).isNone
  let counters := fun (k : Nat) (m : SMap Nat) => [0, 1].foldl (fun m h => if c.halves.getLsbD (2 * (k % 16) + h) then m.set 0 h 0 else m) m
  let s := (clustersOf d).foldl (fun s k => s.modCluster k fun x =>
    { x with table := x.table.filter (fun r => !gone k r), perf := counters k x.perf }) s
  let s := frames.foldl (fun s f => s.zeroFrame f.1 (decide (f.1 ∈ stuck))) s
  let s := frames.foldl (fun s f => s.setOwner f.1 f.2 (decide (f.1 ∈ stuck))) s
  let s := (frames.filter fun f => decide (f.1 ∈ stuck)).foldl (fun s f =>
    s.record d (mkRec 1 0x22 1 8 0 0 (hbmUnit f.1) 0 f.1 seq)) s
  let host := (s.die d).fmode.getLsbD 3
  let body := tokenBody seq d (if host then 1 else 0) c.tout c.tin c.dies (s.clock d % 2 ^ 64) list
  let s := s.deviceWrite (tokenAt d seq) (padTo 32768 body)
  (s.modDie d fun x => { x with tokSeq := seq, tokens := x.tokens ++ [seq] }).addDue
    (.tokenSign (BitVec.ofNat 6 d) 0 0)

/-- R343, R345: the gangs that a switch waits for are saved, or are no more. -/
def State.switchReady (s : State) (w : Switch) : Bool :=
  w.gangs.all fun e => ((s.gang? e.1 e.2).map fun x => x.st == .saved).getD true

/-- R307, R345, R413, R414: SLUICE_SCRUB, once the gangs of the outgoing tenant are saved, those placed meanwhile too.
`stuck` are listed frames with a sector that stays poisoned after two full writes. UNVERIFIED: log 35. -/
def execSluiceScrub (die : BitVec 6) (stuck : List (BitVec 43)) (s : State) : Out :=
  let d := die.toNat
  let ev := Instr.sluiceScrub die []
  if ev ∉ s.due then .next s else
  match (s.die d).scrub with
  | none =>
    match (s.dist d).switch with
    | none => .next (s.dropDue ev)
    | some w =>
      let more := (s.switchGangs d w.tout w.cores w.halves).filter fun e => decide (e ∉ w.gangs)
      if !(s.dist d).up then .next s
      else if !more.isEmpty then
        .next (more.foldl (fun s e => s.switchGang e) (s.modDist d fun x => { x with switch := some { w with gangs := w.gangs ++ more } }))
      else if !s.switchReady w then .next s
      else
        let c : Scrub := { boot := false, tout := w.tout, tin := w.tin, dies := w.dies, cores := w.cores,
                           halves := w.halves, list := w.list, n := w.n, freed := w.freed, closed := w.closed }
        .next ((s.modDist d fun x => { x with switch := none }).modDie d fun x => { x with scrub := some c })
  | some c =>
    let list := s.listBytes d c
    let s := (s.dropDue ev).modDie d fun x => { x with scrub := none }
    match s.badEntry (rangeList list) with
    | some i => .next (s.record d (mkRec 1 0x22 6 (8 + if c.tout = 0 then 0 else 2) (c.tout % 4096) 0 (unitOf 7 d) 0 (c.list + 16 * i) i))
    | none => .next (s.scrubSteps d c list (stuck.map (·.toNat)))

/-! ### Signing (R346, R347, R351, R413, R415) -/

/-- R413: a record of class 0x22 of die d's security block. -/
def State.signRecord (s : State) (d sev cause detail : Nat) : State := s.record d (mkRec sev 0x22 cause 0 0 0 (unitOf 8 d) 0 0 detail)

/-- R347: a token's bytes 0x00 to 0x5F. -/
def State.tokenBytes (s : State) (d seq : Nat) : List Byte := s.readBytes (tokenAt d seq) 0x60

/-- R347: rsa, then slh, then the signed indication. -/
def State.markSigned (s : State) (d seq : Nat) (rsa slh : List Byte) : State :=
  let s := s.deviceWrite (tokenAt d seq + 0x60) (rsa ++ slh)
  s.modDie d fun x => { x with signed := x.signed ++ [seq], tokens := x.tokens.erase seq, tokAsk := x.tokAsk.erase seq, tokTries := x.tokTries.erase seq }

/-- R346: a token signed by the security block alone. -/
def State.signSelf (s : State) (d seq : Nat) : State :=
  let s := s.deviceWrite (tokenAt d seq + 0x11) [0]
  let b := s.tokenBytes d seq
  s.markSigned d seq (rsaOf b) (slhOf b)

/-- R413: what the checks of a first and a second signing find; true if the second also fails. -/
def State.signChecks (s : State) (d : Nat) (rsaBad slhBad : BitVec 2) : State × Bool :=
  let det := fun (k : Nat) => (if rsaBad.getLsbD k then 1 else 0) + if slhBad.getLsbD k then 2 else 0
  if det 0 = 0 then (s, false)
  else
    let s := s.signRecord d 0 2 (det 0)
    if det 1 = 0 then (s, false) else (s.signRecord d 3 3 (det 1), true)

/-- The oldest token that waits for its signing. -/
def Die.nextToken (x : Die) : Option Nat := x.tokens.find? fun n => !x.tokAsk.has n

/-- R346, R351, R413: TOKEN_SIGN. The bits of `rsaBad` and `slhBad` say which signatures fail their check after the first and
the second signing. -/
def execTokenSign (die : BitVec 6) (rsaBad slhBad : BitVec 2) (s : State) : Out :=
  let d := die.toNat
  let ev := Instr.tokenSign die 0 0
  if ev ∉ s.due then .next s else
  match (s.die d).nextToken with
  | none => .next (s.dropDue ev)
  | some seq =>
    let delegated := (s.tokenBytes d seq).getD 0x11 0 != 0
    if delegated then
      let (s, failed) := s.signChecks d rsaBad 0
      if failed then .next (s.modDie d fun x => { x with tokens := x.tokens.erase seq })
      else
        let s := s.deviceWrite (tokenAt d seq + 0x60) (rsaOf (s.tokenBytes d seq))
        let s := s.modDie d fun x => { x with tokAsk := x.tokAsk.put seq (s.clock d) }
        .next ((s.tellHost d (.signing d seq)).addDue (.delegatedSignTimeout die))
    else
      let (s, failed) := s.signChecks d rsaBad slhBad
      .next (if failed then s.modDie d fun x => { x with tokens := x.tokens.erase seq } else s.signSelf d seq)

/-- R351, R413: cause 0x07: the security block signs a delegated token itself. -/
def State.giveUpDelegated (s : State) (d seq : Nat) : State := (s.signRecord d 1 7 (seq % 2 ^ 48)).signSelf d seq

/-- R351: SIGNING_DOORBELL: the staged signature is checked against the delegated key. -/
def execSigningDoorbell (die : BitVec 6) (value : Word) (s : State) : Out :=
  let d := die.toNat
  let x := s.die d
  match x.tokens.find? fun n => x.tokAsk.has n && n % 2 ^ 32 == value.toNat with
  | none => .next s
  | some seq =>
    let body := s.tokenBytes d seq
    let sig := (List.range 17088).map fun i => x.staging.get 0 i
    if Config.slhVerify (s.deviceBytes (certAt d + 0x10) 32) body sig then .next (s.markSigned d seq (s.readBytes (tokenAt d seq + 0x60) 384) sig)
    else if x.tokTries.get 0 seq = 0 then
      let s := (s.signRecord d 0 2 4).modDie d fun x => { x with tokTries := x.tokTries.put seq 1 }
      .next (s.tellHost d (.signing d seq))
    else .next (s.giveUpDelegated d seq)

/-- R351, R413: DELEGATED_SIGN_TIMEOUT: 2^30 cycles after the first request. -/
def execDelegatedSignTimeout (die : BitVec 6) (s : State) : Out :=
  let d := die.toNat
  let ev := Instr.delegatedSignTimeout die
  if ev ∉ s.due then .next s else
  if (s.die d).tokAsk.isEmpty then .next (s.dropDue ev)
  else
    match (s.die d).tokAsk.find? fun e => decide (e.2 + 2 ^ 30 ≤ s.clock d) with
    | none => .next s
    | some e => .next (s.giveUpDelegated d e.1)

/-! ### Attestation (R350) -/

/-- R350: the body of a report. -/
def State.reportBody (s : State) (d : Nat) (nonce : List Byte) : List Byte :=
  let x := s.die d
  leBytes 4 1 ++ leBytes 4 d ++ padTo 64 (nonce.take 64) ++ (List.range 48).map (fun i => Config.firmwareHash d i) ++ leBytes 8 x.fwctl.toNat
    ++ (List.range 48).map (fun i => Config.sha384 ((List.range 16).flatMap fun n => leBytes 8 (x.tcfg.get 0 n).toNat) i)
    ++ leBytes 8 (x.signed.foldl max 0) ++ leBytes 8 (s.clock d % 2 ^ 64) ++ leBytes 64 0

/-- R350, R413: ATTESTATION_REPORT; a report whose second signing fails leaves no security block. -/
def execAttestationReport (die : BitVec 6) (nonce : List Byte) (rsaBad slhBad : BitVec 2) (s : State) : Out :=
  let d := die.toNat
  let body := s.reportBody d nonce
  let (s, failed) := s.signChecks d rsaBad slhBad
  .next (if failed then s else s.modDie d fun x => { x with report := body ++ rsaOf body ++ slhOf body })

end Sys2Proof.Machine
end

