-- ==== Sys2Proof/Machine/SvcAccess.lean ====
section
/-!
DEFINITION. Accesses of a service core's program to memory and to register frames (04 R75, 05 R117, R126, 13 R310 to R312,
18 R388).
-/

namespace Sys2Proof.Machine

/-! ### Register frames (R75) -/

/-- R75: whether an access has a size and alignment that a register of a frame takes; `n` bytes at an offset. -/
def regShape (off n : Nat) : Bool :=
  let natural := decide (n ∈ [1, 2, 4, 8]) && off % n == 0
  match off / 65536 with
  | 0x200 => n == 4 && (off == 0x2000000 || off == 0x2000008)
  | 0x430 => natural && decide (off - 0x4300000 + n ≤ 17088)
  | 0x580 => if 0x5801000 ≤ off ∧ off < 0x5802000 then natural else n == 8 && off % 8 == 0
  | _ => n == 8 && off % 8 == 0

/-- R356: a write to the call-service window of a cluster. -/
def State.writeWindow (s : State) (c off : Nat) (v : Dword) : Out :=
  let cv := BitVec.ofNat 10 c
  match off with
  | 0x00 => s.putCsr cv 0x5C2 v
  | 0x08 => s.putCsr cv 0x5C3 v
  | 0x10 => s.putCsr cv 0x5C4 v
  | 0x18 => s.putCsr cv 0x5C8 v
  | _ => .next s

/-- R301: bytes written into the share table. -/
def State.writeShares (s : State) (die : BitVec 6) (t : Nat) (a : Agent) : List Byte → Out
  | [] => .next s
  | b :: bs =>
    match execShareTableWrite die a (BitVec.ofNat 12 t) b s with
    | .next s => s.writeShares die (t + 1) a bs
    | o => o

/-- R75: a write of `n` bytes to a register frame by an agent that the ownership check admits. -/
def State.regStore (s : State) (a : Agent) (pa n : Nat) (v : Dword) : Out :=
  let off := paOff pa
  let d := paDie pa
  let die := BitVec.ofNat 6 d
  if !regShape off n then .next s
  else
    match off / 65536 with
    | 0x200 =>
      if off = 0x2000000 then execQueueNotify die (v.extractLsb' 0 32) s
      else if off = 0x2000008 then execSigningDoorbell die (v.extractLsb' 0 32) s
      else .next s
    | 0x300 => if off - 0x3000000 < 4096 then s.writeWindow (16 * d + (off - 0x3000000) / 256) (off % 256) v else .next s
    | 0x430 =>
      .next (s.modDie d fun x =>
        { x with staging := ((leBytes n v.toNat).zipIdx).foldl (fun m e => m.set 0 (off - 0x4300000 + e.2) e.1) x.staging })
    | 0x580 =>
      if 0x5801000 ≤ off ∧ off < 0x5802000 then s.writeShares die (off - 0x5801000) a (leBytes n v.toNat)
      else s.writeControl die (off - 0x5800000) a v
    | _ => .next s

/-- R75: a read of `n` bytes of a register frame; what names no register, or takes another access, reads 0. -/
def State.regLoad (s : State) (pa n : Nat) : Nat :=
  let off := paOff pa
  let x := s.die (paDie pa)
  if !regShape off n then 0
  else
    match off / 65536 with
    | 0x300 => if off - 0x3000000 < 4096 ∧ off % 256 = 0 then (s.svc (16 * paDie pa + (off - 0x3000000) / 256)).scsel.toNat else 0
    | 0x430 => leNat ((List.range n).map fun i => x.staging.get 0 (off - 0x4300000 + i))
    | 0x580 =>
      if 0x5801000 ≤ off ∧ off < 0x5802000 then leNat ((List.range n).map fun i => x.shares.get 1 (off - 0x5801000 + i))
      else (x.readControl (paDie pa) (off - 0x5800000)).toNat
    | _ => 0

/-! ### An access (R117, R126, R310, R311) -/

/-- Bytes of an access. PRESUMED: log 48. -/
def svcBytes (a : SvcAccess) : Nat := 2 ^ a.size.toNat

/-- R86, R311: what an access asks of its page. PRESUMED: log 48. -/
def svcWant : SvcOp → Want
  | .fetch => ⟨false, false, true, 3⟩
  | .load | .lr => ⟨true, false, false, 0⟩
  | .store | .sc => ⟨false, true, false, 1⟩
  | _ => ⟨true, true, false, 2⟩

/-- R310: the exception codes of an access: misaligned, access fault, page fault. PRESUMED: log 48. -/
def svcCauses : SvcOp → Nat × Nat × Nat
  | .fetch => (0, 1, 12)
  | .load | .lr => (4, 5, 13)
  | _ => (6, 7, 15)

/-- R310: the A extension's operations on values of n bits. -/
def amoValue (op : SvcOp) (n old v : Nat) : Nat :=
  let a := BitVec.ofNat n old
  let b := BitVec.ofNat n v
  match op with
  | .amoAdd => (a + b).toNat
  | .amoSwap => b.toNat
  | .amoAnd => (a &&& b).toNat
  | .amoOr => (a ||| b).toNat
  | .amoXor => (a ^^^ b).toNat
  | .amoMin => (minBv true a b).toNat
  | .amoMax => (maxBv true a b).toNat
  | .amoMinu => (minBv false a b).toNat
  | .amoMaxu => (maxBv false a b).toNat
  | _ => old

/-- A value of n bits as a register takes it. -/
def widen (signed : Bool) (n v : Nat) : Dword := if signed then ((BitVec.ofNat n v).signExtend 64) else BitVec.ofNat 64 (v % 2 ^ n)

/-- R310: a write of a register of a service core; x0 discards it. -/
def State.setX (s : State) (c : Nat) (rd : BitVec 5) (v : Dword) : State :=
  if rd = 0 then s else s.modSvc c fun x => { x with x := x.x.set 0 rd.toNat v }

/-- R310: the operations of the A extension, which take 4 or 8 bytes. -/
def svcAtomic : SvcOp → Bool
  | .fetch | .load | .store => false
  | _ => true

/-- How an access ends: with the value read (of a store-conditional whether it failed), waiting for its line, or in an
exception with its cause and address. -/
inductive SvcEnd where
  | done (v : Nat) (s : State)
  | waits (s : State)
  | trap (cause tval : Nat) (s : State)

/-- R75: an access to a register frame: a load or a store of the shape its register takes. -/
def State.svcRegister (s : State) (c : Nat) (a : SvcAccess) (pa : Nat) : SvcEnd :=
  let agent := if (s.svc c).mode = .m then Agent.firmware else .peat (BitVec.ofNat 10 c)
  match a.op with
  | .load => .done (s.regLoad pa (svcBytes a)) s
  | .store =>
    match s.regStore agent pa (svcBytes a) a.value with
    | .next s => .done 0 s
    | _ => .done 0 s
  | .sc => .done 1 (s.modSvc c fun x => { x with resv := none })
  | _ => .done 0 s

/-- R113, R117: the bytes of an access as the service core reads them: in its cache on a T page, which it must hold in M for
a write; at home on others. -/
def State.svcRead (s : State) (c pa tr n : Nat) (own : Bool) : SvcEnd :=
  let k := cacheOfSvc c
  let line := pa / 128
  if tr ≠ 0 then if s.poisoned pa then .trap 5 0 s else .done (s.readNat pa n) s
  else if own && !s.holdsM k line then .waits (s.addDue (.homeOwnershipRequest k line))
  else
    match (s.cache k).lines.find line with
    | some l =>
      if l.psn.getLsbD (pa % 128 / 32) then .trap 5 0 s
      else .done (leNat ((List.range n).map fun i => l.data.getD (pa % 128 + i) 0)) (s.consume k line)
    | none => .waits (s.requestFill k line none)

/-- R113, R117: the bytes of an access written. -/
def State.svcWrite (s : State) (c pa tr n v : Nat) : State :=
  let k := cacheOfSvc c
  let line := pa / 128
  let ws := (leBytes n v).zipIdx.map fun e => (pa + e.2, e.1)
  if tr ≠ 0 then s.writeHome ws
  else s.modCache k fun x =>
    match x.lines.find line with
    | some l => { x with lines := x.lines.put line (l.store line ws) }
    | none => x

/-- R14: a line enters the core's instruction cache of 64 KiB; a full one gives a line up (DESIGN CHOICE, log 5). -/
def Svc.icPut (x : Svc) (line : Nat) (data : List Byte) (k : Nat) : Svc :=
  let x := if x.icache.length < 512 then x else { x with icache := x.icache.eraseIdx (Config.victim k % 512) }
  { x with icache := x.icache.put line data }

/-- R312: a fetch of two bytes reads their line through the home L2 into the core's own instruction cache. -/
def State.svcFetch (s : State) (c pa tr : Nat) : SvcEnd :=
  let line := pa / 128
  let half := fun (data : List Byte) => leNat ((data.drop (pa % 128)).take 2)
  match (s.svc c).icache.find line with
  | some data => .done (half data) s
  | none =>
    if tr = 0 ∧ s.lineBusy line = true then .waits s
    else
      let s := if tr = 0 then s.homeSync line false [] else s
      if s.poisoned pa then .trap 1 0 s
      else
        let s := s.modSvc c fun x => x.icPut line (s.homeLine line) s.fresh
        .done (half (s.homeLine line)) { s with fresh := s.fresh + 1 }

/-- R126, R310: the access at its physical address. -/
def State.svcPerform (s : State) (c : Nat) (a : SvcAccess) (pa tr : Nat) : SvcEnd :=
  let n := svcBytes a
  let owns := decide (tr ≠ 0) || s.holdsM (cacheOfSvc c) (pa / 128)
  let ask := SvcEnd.waits (s.addDue (.homeOwnershipRequest (cacheOfSvc c) (pa / 128)))
  let resv := fun (l : Option Nat) (s : State) => s.modSvc c fun x => { x with resv := l }
  match a.op with
  | .fetch => s.svcFetch c pa tr
  | .store => if owns then .done 0 (s.svcWrite c pa tr n a.value.toNat) else ask
  | .sc =>
    if (s.svc c).resv ≠ some (pa / 128) then .done 1 (resv none s)
    else if owns then .done 0 (resv none (s.svcWrite c pa tr n a.value.toNat))
    else ask
  | .load => s.svcRead c pa tr n false
  | .lr =>
    match s.svcRead c pa tr n false with
    | .done v s => .done v (resv (some (pa / 128)) s)
    | e => e
  | op =>
    match s.svcRead c pa tr n true with
    | .done v s => .done v (s.svcWrite c pa tr n (amoValue op (8 * n) v a.value.toNat))
    | e => e

/-- R75, R126, R310, R311: an access of service core c in a mode, from its translation to its end; one with aq is an acquire. -/
def State.svcAccess (s : State) (c : Nat) (a : SvcAccess) (mode : Mode) : SvcEnd :=
  let (misaligned, access, page) := svcCauses a.op
  let va := a.va.toNat
  if svcAtomic a.op ∧ a.size.toNat < 2 then .trap 2 0 s
  else
    match s.svcXlateIn c mode va (svcWant a.op) with
    | .pageFault => .trap page va s
    | .accessFault _ s => .trap access va s
    | .ok pa tr s =>
      if regFrame (paOff pa) then s.svcRegister c a pa
      else if va % (if a.op = .fetch then 2 else svcBytes a) ≠ 0 then .trap misaligned va s
      else
        match s.svcPerform c a pa tr with
        | .done v s => .done v (if a.aq then s.modCache (cacheOfSvc c) Cache.acquire else s)
        | .trap cause _ s => .trap cause va s
        | e => e

/-- R310: what an access leaves in its register: a value widened, or whether a store-conditional failed. -/
def svcResult (a : SvcAccess) (v : Nat) : Option Dword :=
  match a.op with
  | .fetch | .store => none
  | .sc => some (BitVec.ofNat 64 v)
  | .load => some (widen a.signed (8 * svcBytes a) v)
  | _ => some (widen true (8 * svcBytes a) v)

end Sys2Proof.Machine
end

