-- ==== Sys2Proof/Machine/Hart.lean ====
section
/-!
DEFINITION. A service core as a processor: the RV64GC instructions, its interrupts, and the steps SERVICE_CORE_ACCESS and
FENCE_I (05 R126, 13 R310 to R314; the instruction set is PRESUMED from the documents that R310 names, log 54).
-/

namespace Sys2Proof.Machine

/-! ### Compressed instructions -/

/-- The words of the base formats. -/
def encR (f7 rs2 rs1 f3 rd op : Nat) : Nat := f7 * 2 ^ 25 + rs2 * 2 ^ 20 + rs1 * 2 ^ 15 + f3 * 2 ^ 12 + rd * 2 ^ 7 + op
def encI (imm rs1 f3 rd op : Nat) : Nat := imm % 4096 * 2 ^ 20 + rs1 * 2 ^ 15 + f3 * 2 ^ 12 + rd * 2 ^ 7 + op
def encS (imm rs2 rs1 f3 op : Nat) : Nat := encR (imm / 32 % 128) rs2 rs1 f3 (imm % 32) op
def encB (imm rs1 f3 : Nat) : Nat :=
  encR (bits imm 12 12 * 64 + bits imm 10 5) 0 rs1 f3 (bits imm 4 1 * 2 + bits imm 11 11) 0x63
def encJ (imm : Nat) : Nat := (bits imm 20 20 * 2 ^ 19 + bits imm 10 1 * 2 ^ 9 + bits imm 11 11 * 2 ^ 8 + bits imm 19 12) * 2 ^ 12 + 0x6F

/-- The value of a signed field of n bits, modulo 2^32. -/
def sext (n v : Nat) : Nat := ((BitVec.ofNat n v).signExtend 32).toNat

/-- Quadrant 0: loads and stores through the registers x8 to x15. -/
def expand0 (h : Nat) : Option Nat :=
  let r1 := 8 + bits h 9 7
  let r2 := 8 + bits h 4 2
  let word := bits h 12 10 * 8 + bits h 6 6 * 4 + bits h 5 5 * 64
  let dbl := bits h 12 10 * 8 + bits h 6 5 * 64
  match bits h 15 13 with
  | 0 =>
    let imm := bits h 10 7 * 64 + bits h 12 11 * 16 + bits h 5 5 * 8 + bits h 6 6 * 4
    if imm = 0 then none else some (encI imm 2 0 r2 0x13)
  | 1 => some (encI dbl r1 3 r2 0x07)
  | 2 => some (encI word r1 2 r2 0x03)
  | 3 => some (encI dbl r1 3 r2 0x03)
  | 5 => some (encS dbl r2 r1 3 0x27)
  | 6 => some (encS word r2 r1 2 0x23)
  | 7 => some (encS dbl r2 r1 3 0x23)
  | _ => none

/-- Quadrant 1: immediates, arithmetic on x8 to x15, jumps and branches. -/
def expand1 (h : Nat) : Option Nat :=
  let rd := bits h 11 7
  let u := bits h 12 12 * 32 + bits h 6 2
  let imm := sext 6 u
  let r1 := 8 + bits h 9 7
  let r2 := 8 + bits h 4 2
  match bits h 15 13 with
  | 0 => some (encI imm rd 0 rd 0x13)
  | 1 => if rd = 0 then none else some (encI imm rd 0 rd 0x1B)
  | 2 => some (encI imm 0 0 rd 0x13)
  | 3 =>
    if u = 0 then none
    else if rd = 2 then
      some (encI (sext 10 (bits h 12 12 * 512 + bits h 4 3 * 128 + bits h 5 5 * 64 + bits h 2 2 * 32 + bits h 6 6 * 16)) 2 0 2 0x13)
    else some (imm % 2 ^ 20 * 2 ^ 12 + rd * 2 ^ 7 + 0x37)
  | 4 =>
    match bits h 11 10 with
    | 0 => some (encI u r1 5 r1 0x13)
    | 1 => some (encI (1024 + u) r1 5 r1 0x13)
    | 2 => some (encI imm r1 7 r1 0x13)
    | _ =>
      match bits h 12 12, bits h 6 5 with
      | 0, 0 => some (encR 32 r2 r1 0 r1 0x33)
      | 0, 1 => some (encR 0 r2 r1 4 r1 0x33)
      | 0, 2 => some (encR 0 r2 r1 6 r1 0x33)
      | 0, _ => some (encR 0 r2 r1 7 r1 0x33)
      | _, 0 => some (encR 32 r2 r1 0 r1 0x3B)
      | _, 1 => some (encR 0 r2 r1 0 r1 0x3B)
      | _, _ => none
  | 5 => some (encJ (sext 12 (bits h 12 12 * 2048 + bits h 8 8 * 1024 + bits h 10 9 * 256 + bits h 6 6 * 128 + bits h 7 7 * 64
                + bits h 2 2 * 32 + bits h 11 11 * 16 + bits h 5 3 * 2)))
  | f => some (encB (sext 9 (bits h 12 12 * 256 + bits h 6 5 * 64 + bits h 2 2 * 32 + bits h 11 10 * 8 + bits h 4 3 * 2)) r1 (f - 6))

/-- Quadrant 2: loads and stores on the stack, shifts, moves and jumps through a register. -/
def expand2 (h : Nat) : Option Nat :=
  let rd := bits h 11 7
  let rs := bits h 6 2
  let dbl := bits h 12 12 * 32 + bits h 6 5 * 8 + bits h 4 2 * 64
  let sdbl := bits h 12 10 * 8 + bits h 9 7 * 64
  match bits h 15 13 with
  | 0 => some (encI (bits h 12 12 * 32 + rs) rd 1 rd 0x13)
  | 1 => some (encI dbl 2 3 rd 0x07)
  | 2 => if rd = 0 then none else some (encI (bits h 12 12 * 32 + bits h 6 4 * 4 + bits h 3 2 * 64) 2 2 rd 0x03)
  | 3 => if rd = 0 then none else some (encI dbl 2 3 rd 0x03)
  | 4 =>
    if bits h 12 12 = 0 then
      if rs ≠ 0 then some (encR 0 rs 0 0 rd 0x33) else if rd = 0 then none else some (encI 0 rd 0 0 0x67)
    else if rs ≠ 0 then some (encR 0 rs rd 0 rd 0x33)
    else if rd = 0 then some 0x100073 else some (encI 0 rd 0 1 0x67)
  | 5 => some (encS sdbl rs 2 3 0x27)
  | 6 => some (encS (bits h 12 9 * 4 + bits h 8 7 * 64) rs 2 2 0x23)
  | _ => some (encS sdbl rs 2 3 0x23)

/-- The C extension: the instruction that a halfword stands for. -/
def expandC (h : Nat) : Option Nat :=
  match h % 4 with
  | 0 => expand0 h
  | 1 => expand1 h
  | _ => expand2 h

/-! ### Integer arithmetic -/

/-- A signed field of n bits as an operand. -/
def immOf (n v : Nat) : Dword := (BitVec.ofNat n v).signExtend 64
def immI (w : Nat) : Dword := immOf 12 (bits w 31 20)
def immS (w : Nat) : Dword := immOf 12 (bits w 31 25 * 32 + bits w 11 7)
def immB (w : Nat) : Dword := immOf 13 (bits w 31 31 * 4096 + bits w 7 7 * 2048 + bits w 30 25 * 32 + bits w 11 8 * 2)
def immU (w : Nat) : Dword := immOf 32 (w / 4096 * 4096)
def immJ (w : Nat) : Dword := immOf 21 (bits w 31 31 * 2 ^ 20 + bits w 19 12 * 4096 + bits w 20 20 * 2048 + bits w 30 21 * 2)

/-- The base operations on n bits, by funct3; `alt` is subtraction and the arithmetic shift. -/
def rvAlu {n : Nat} (f3 : Nat) (alt : Bool) (a b : BitVec n) : BitVec n :=
  let sh := b.toNat % n
  match f3 with
  | 0 => if alt then a - b else a + b
  | 1 => a <<< sh
  | 2 => if a.slt b then 1 else 0
  | 3 => if a.ult b then 1 else 0
  | 4 => a ^^^ b
  | 5 => if alt then a.sshiftRight sh else a >>> sh
  | 6 => a ||| b
  | _ => a &&& b

/-- The M extension on n bits, by funct3. -/
def rvMul {n : Nat} (f3 : Nat) (a b : BitVec n) : BitVec n :=
  let high := fun (z : Int) => BitVec.ofInt n (z / 2 ^ n)
  match f3 with
  | 0 => a * b
  | 1 => high (a.toInt * b.toInt)
  | 2 => high (a.toInt * b.toNat)
  | 3 => high (a.toNat * b.toNat)
  | 4 => if b = 0 then BitVec.allOnes n else a.sdiv b
  | 5 => if b = 0 then BitVec.allOnes n else a / b
  | 6 => if b = 0 then a else a.srem b
  | _ => if b = 0 then a else a % b

/-- Whether a branch is taken, by funct3; none where there is no such branch. -/
def rvBranch (f3 : Nat) (a b : Dword) : Option Bool :=
  match f3 with
  | 0 => some (a == b)
  | 1 => some (a != b)
  | 4 => some (a.slt b)
  | 5 => some (!a.slt b)
  | 6 => some (a.ult b)
  | 7 => some (!a.ult b)
  | _ => none

/-- The A extension: the operation of funct5. -/
def rvAmo (f5 : Nat) : Option SvcOp :=
  match f5 with
  | 0x00 => some .amoAdd
  | 0x01 => some .amoSwap
  | 0x02 => some .lr
  | 0x03 => some .sc
  | 0x04 => some .amoXor
  | 0x08 => some .amoOr
  | 0x0C => some .amoAnd
  | 0x10 => some .amoMin
  | 0x14 => some .amoMax
  | 0x18 => some .amoMinu
  | 0x1C => some .amoMaxu
  | _ => none

/-! ### One instruction -/

/-- How an instruction ends: at a pc, in an exception, or waiting for a line with no effect yet. -/
inductive HartEnd where
  | next (pc : Dword) (s : State)
  | trap (cause tval : Nat) (s : State)
  | waits (s : State)

namespace Svc

/-- A register; x0 reads 0. -/
def xreg (x : Svc) (r : Nat) : Dword := if r = 0 then 0 else x.x.get 0 r
/-- A floating-point register. -/
def freg (x : Svc) (r : Nat) : Dword := x.f.get 0 r
/-- The floating-point unit is on. -/
def fpOn (x : Svc) : Bool := (x.csr 0x300).extractLsb' 13 2 != 0
/-- The rounding mode of an instruction: its own, or that of fcsr; none where it is reserved. -/
def rmOf (x : Svc) (f : Nat) : Option Nat :=
  let r := if f = 7 then (x.fcsr.extractLsb' 5 3).toNat else f
  if r ≤ 4 then some (rvMode r) else none
/-- The mode in which loads and stores are made: MPP's where MPRV is set. -/
def dataMode (x : Svc) : Mode :=
  if x.mode = .m ∧ (x.csr 0x300).getLsbD 17 = true then
    match (x.csr 0x300).extractLsb' 11 2 with
    | 3 => .m
    | 1 => .s
    | _ => .u
  else x.mode
/-- A write of the floating-point state: its flags accumulate, and it is dirty. -/
def fpDirty (x : Svc) (fl : Byte) : Svc := { x with fcsr := x.fcsr ||| (fl &&& 0x1F), csrs := x.csrs.set 0 0x300 (x.csr 0x300 ||| 0x6000) }
def setF (x : Svc) (rd : Nat) (v : Dword) (fl : Byte) : Svc := { x.fpDirty fl with f := x.f.set 0 rd v }

/-- MRET: the mode and the interrupt enable that mstatus saved. -/
def mret (x : Svc) : Svc :=
  let st := x.csr 0x300
  let mode : Mode := match st.extractLsb' 11 2 with
    | 3 => .m
    | 1 => .s
    | _ => .u
  let st := setBit (setBit (setBit (setBit st 3 (st.getLsbD 7)) 7 true) 11 false) 12 false
  { x with mode := mode, pc := x.csr 0x341, csrs := x.csrs.set 0 0x300 (if mode = .m then st else setBit st 17 false) }

/-- SRET: likewise from sstatus. -/
def sret (x : Svc) : Svc :=
  let st := x.csr 0x300
  let mode : Mode := if st.getLsbD 8 then .s else .u
  let st := setBit (setBit (setBit (setBit st 1 (st.getLsbD 5)) 5 true) 8 false) 17 false
  { x with mode := mode, pc := x.sepc, csrs := x.csrs.set 0 0x300 st }

end Svc

/-- An access of an instruction, then what its value does. -/
def State.hartMem (s : State) (c : Nat) (a : SvcAccess) (next : Dword) (k : Nat → State → State) : HartEnd :=
  match s.svcAccess c a (s.svc c).dataMode with
  | .done v s => .next next (k v s)
  | .waits s => .waits s
  | .trap cause tval s => .trap cause tval s

/-- SYSTEM, funct3 0. -/
def State.hartPriv (s : State) (c w : Nat) (next : Dword) : HartEnd :=
  let x := s.svc c
  let st := x.csr 0x300
  let bad := HartEnd.trap 2 w s
  let go := fun (x : Svc) => HartEnd.next x.pc (s.modSvc c fun _ => x)
  match w with
  | 0x00000073 => .trap (8 + x.mode.code) 0 s
  | 0x00100073 => .trap 3 x.pc.toNat s
  | 0x30200073 => if x.mode = .m then go x.mret else bad
  | 0x10200073 => if x.mode = .u ∨ (x.mode = .s ∧ st.getLsbD 22 = true) then bad else go x.sret
  | 0x10500073 => .next next s
  | _ => if bits w 31 25 = 9 ∧ bits w 11 7 = 0 ∧ x.mode ≠ .u ∧ ¬(x.mode = .s ∧ st.getLsbD 20 = true) then .next next s else bad

/-- Zicsr: whether a SYSTEM word writes the CSR it names: CSRRS and CSRRC of x0 do not. -/
def csrWrites (w : Nat) : Bool := bits w 13 12 == 1 || (2 ≤ bits w 13 12 && bits w 19 15 != 0)

/-- Zicsr: the old value is read, then the new one is written; a read of smsgrd moves on to the next doubleword (R313). -/
def State.hartCsr (s : State) (c w : Nat) (next : Dword) : HartEnd :=
  let x := s.svc c
  let cv := BitVec.ofNat 10 c
  let n := bits w 31 20
  let f3 := bits w 14 12
  let rd := BitVec.ofNat 5 (bits w 11 7)
  let src := if 4 ≤ f3 then BitVec.ofNat 64 (bits w 19 15) else x.xreg (bits w 19 15)
  let writes := csrWrites w
  let reads := !(decide (f3 % 4 = 1) && rd == 0)
  if f3 % 4 = 0 ∨ x.csrLegal n writes = false then .trap 2 w s
  else
    let old := s.readCsr c n
    let v := if f3 % 4 = 1 then src else if f3 % 4 = 2 then old ||| src else old &&& ~~~src
    let s := if reads && n == 0x5CE then s.modSvc c fun x => { x with msgRest := x.msgRest.tail } else s
    let s := s.setX c rd (if reads then old else 0)
    .next next (if writes then match s.putCsr cv n v with
      | .next s => s
      | _ => s
    else s)

/-- OP-FP on registers. -/
def State.hartFp (s : State) (c w : Nat) (next : Dword) : HartEnd :=
  let x := s.svc c
  let dbl := bits w 26 25 == 1
  let f := rvFmt dbl
  let rd := bits w 11 7
  let r2 := bits w 24 20
  let f3 := bits w 14 12
  let raw := x.freg (bits w 19 15)
  let a := unbox dbl raw
  let b := unbox dbl (x.freg r2)
  let u := f.decode a
  let v := f.decode b
  let bad := HartEnd.trap 2 w s
  let putF := fun (r : Nat × Byte) => HartEnd.next next (s.modSvc c fun x => x.setF rd (box dbl r.1) r.2)
  let putX := fun (v : Dword) (fl : Byte) => HartEnd.next next ((s.modSvc c fun x => x.fpDirty fl).setX c (BitVec.ofNat 5 rd) v)
  let round := fun (k : Nat → HartEnd) => match x.rmOf f3 with
    | some rm => k rm
    | none => bad
  if 2 ≤ bits w 26 25 then bad else
  match bits w 31 27 with
  | 0x00 => round fun rm => putF (rvRound f rm (fadd rm u v) false)
  | 0x01 => round fun rm => putF (rvRound f rm (fadd rm u v.neg) false)
  | 0x02 => round fun rm => putF (rvRound f rm (fmul u v) false)
  | 0x03 => round fun rm => let q := fdiv u v; putF (rvRound f rm (q.1, q.2.2) q.2.1)
  | 0x0B => if r2 ≠ 0 then bad else round fun rm => let q := fsqrt u; putF (rvRound f rm (q.1, q.2.2) q.2.1)
  | 0x04 =>
    let mag := a % f.signBit
    let sa := decide (f.signBit ≤ a)
    let sb := decide (f.signBit ≤ b)
    match f3 with
    | 0 => putF (f.code sb mag, 0)
    | 1 => putF (f.code (!sb) mag, 0)
    | 2 => putF (f.code (sa != sb) mag, 0)
    | _ => bad
  | 0x05 => if f3 ≤ 1 then putF (rvMinMax f (f3 == 1) a b) else bad
  | 0x08 =>
    if r2 ≠ (if dbl then 0 else 1) then bad
    else round fun rm =>
      let y := (rvFmt (!dbl)).decode (unbox (!dbl) raw)
      putF (rvRound f rm (y, flagIf y.isSnan flagNV) false)
  | 0x14 => if f3 ≤ 2 then let r := rvCompare f3 u v; putX (if r.1 then 1 else 0) r.2 else bad
  | 0x18 =>
    round fun rm =>
      let r := match r2 with
        | 0 => some (rvToInt 32 (2 ^ 31) (2 ^ 31 - 1) rm u)
        | 1 => some (rvToInt 32 0 (2 ^ 32 - 1) rm u)
        | 2 => some (rvToInt 64 (2 ^ 63) (2 ^ 63 - 1) rm u)
        | 3 => some (rvToInt 64 0 (2 ^ 64 - 1) rm u)
        | _ => none
      match r with
      | some r => putX r.1 r.2
      | none => bad
  | 0x1A =>
    let z := x.xreg (bits w 19 15)
    round fun rm =>
      let i := match r2 with
        | 0 => some (z.extractLsb' 0 32).toInt
        | 1 => some ((z.toNat % 2 ^ 32 : Nat) : Int)
        | 2 => some z.toInt
        | 3 => some (z.toNat : Int)
        | _ => none
      match i with
      | some i => putF (rvRound f rm (ofInt i, 0) false)
      | none => bad
  | 0x1C =>
    if r2 ≠ 0 then bad
    else match f3 with
      | 0 => putX (if dbl then raw else (raw.extractLsb' 0 32).signExtend 64) 0
      | 1 => putX (BitVec.ofNat 64 (rvClass f a)) 0
      | _ => bad
  | 0x1E => if r2 = 0 ∧ f3 = 0 then putF ((x.xreg (bits w 19 15)).toNat % (2 * f.signBit), 0) else bad
  | _ => bad

/-- The fused multiply-adds: FMADD, FMSUB, FNMSUB, FNMADD. -/
def State.hartFma (s : State) (c w : Nat) (next : Dword) : HartEnd :=
  let x := s.svc c
  let dbl := bits w 26 25 == 1
  let f := rvFmt dbl
  let val := fun (r : Nat) => f.decode (unbox dbl (x.freg r))
  let a := val (bits w 19 15)
  let z := val (bits w 31 27)
  let neg := decide (0x4B ≤ w % 128)
  match if 2 ≤ bits w 26 25 then none else x.rmOf (bits w 14 12) with
  | none => .trap 2 w s
  | some rm =>
    let r := rvFma rm (if neg then a.neg else a) (val (bits w 24 20)) (if w % 128 = 0x47 ∨ w % 128 = 0x4F then z.neg else z)
    let k := rvRound f rm r false
    .next next (s.modSvc c fun x => x.setF (bits w 11 7) (box dbl k.1) k.2)

/-- R310, R312: one instruction of RV64GC: `w` of `len` bytes at the core's pc. -/
def State.hartExec (s : State) (c w len : Nat) : HartEnd :=
  let x := s.svc c
  let next := x.pc + BitVec.ofNat 64 len
  let bad := HartEnd.trap 2 w s
  let rd := BitVec.ofNat 5 (bits w 11 7)
  let f3 := bits w 14 12
  let a := x.xreg (bits w 19 15)
  let b := x.xreg (bits w 24 20)
  let put := fun (v : Dword) => HartEnd.next next (s.setX c rd v)
  let acc := fun (op : SvcOp) (va : Dword) (signed : Bool) (v : Dword) (q r : Bool) =>
    (⟨op, va, BitVec.ofNat 2 f3, signed, v, rd, q, r⟩ : SvcAccess)
  match w % 128 with
  | 0x03 =>
    if f3 = 7 then bad
    else s.hartMem c (acc .load (a + immI w) (decide (f3 < 4)) 0 false false) next fun v s => s.setX c rd (widen (decide (f3 < 4)) (8 * 2 ^ (f3 % 4)) v)
  | 0x07 =>
    if !x.fpOn || !(f3 == 2 || f3 == 3) then bad
    else s.hartMem c (acc .load (a + immI w) false 0 false false) next fun v s => s.modSvc c fun x => x.setF rd.toNat (box (f3 == 3) v) 0
  | 0x0F =>
    if f3 = 0 then .next next (if bits w 25 24 + bits w 21 20 = 0 then s else s.modCache (cacheOfSvc c) Cache.acquire)
    else if f3 = 1 then .next next (s.modSvc c fun x => { x with icache := [] })
    else bad
  | 0x13 =>
    if f3 = 1 then if bits w 31 26 = 0 then put (rvAlu 1 false a (BitVec.ofNat 64 (bits w 25 20))) else bad
    else if f3 = 5 then
      if bits w 31 26 = 0 ∨ bits w 31 26 = 16 then put (rvAlu 5 (bits w 31 26 == 16) a (BitVec.ofNat 64 (bits w 25 20))) else bad
    else put (rvAlu f3 false a (immI w))
  | 0x17 => put (x.pc + immU w)
  | 0x1B =>
    let lo := a.extractLsb' 0 32
    let sh : Word := BitVec.ofNat 32 (bits w 24 20)
    match f3 with
    | 0 => put ((rvAlu 0 false lo ((immI w).extractLsb' 0 32)).signExtend 64)
    | 1 => if bits w 31 25 = 0 then put ((rvAlu 1 false lo sh).signExtend 64) else bad
    | 5 => if bits w 31 25 = 0 ∨ bits w 31 25 = 32 then put ((rvAlu 5 (bits w 31 25 == 32) lo sh).signExtend 64) else bad
    | _ => bad
  | 0x23 => if 4 ≤ f3 then bad else s.hartMem c (acc .store (a + immS w) false b false false) next fun _ s => s
  | 0x27 =>
    if !x.fpOn || !(f3 == 2 || f3 == 3) then bad
    else s.hartMem c (acc .store (a + immS w) false (x.freg (bits w 24 20)) false false) next fun _ s => s
  | 0x2F =>
    match rvAmo (bits w 31 27) with
    | some op =>
      if !(f3 == 2 || f3 == 3) || (op == .lr && bits w 24 20 != 0) then bad
      else
        let m := acc op a true b (bits w 26 26 == 1) (bits w 25 25 == 1)
        s.hartMem c m next fun v s => s.setX c rd ((svcResult m v).getD 0)
    | none => bad
  | 0x33 =>
    match bits w 31 25 with
    | 0 => put (rvAlu f3 false a b)
    | 32 => if f3 = 0 ∨ f3 = 5 then put (rvAlu f3 true a b) else bad
    | 1 => put (rvMul f3 a b)
    | _ => bad
  | 0x37 => put (immU w)
  | 0x3B =>
    let lo := a.extractLsb' 0 32
    let hi := b.extractLsb' 0 32
    match bits w 31 25 with
    | 0 => if f3 = 0 ∨ f3 = 1 ∨ f3 = 5 then put ((rvAlu f3 false lo hi).signExtend 64) else bad
    | 32 => if f3 = 0 ∨ f3 = 5 then put ((rvAlu f3 true lo hi).signExtend 64) else bad
    | 1 => if f3 = 0 ∨ 4 ≤ f3 then put ((rvMul f3 lo hi).signExtend 64) else bad
    | _ => bad
  | 0x43 | 0x47 | 0x4B | 0x4F => if x.fpOn then s.hartFma c w next else bad
  | 0x53 => if x.fpOn then s.hartFp c w next else bad
  | 0x63 =>
    match rvBranch f3 a b with
    | some t => .next (if t then x.pc + immB w else next) s
    | none => bad
  | 0x67 => if f3 = 0 then .next ((a + immI w) &&& ~~~1) (s.setX c rd next) else bad
  | 0x6F => .next (x.pc + immJ w) (s.setX c rd next)
  | 0x73 => if f3 = 0 then s.hartPriv c w next else s.hartCsr c w next
  | _ => bad

/-! ### Interrupts and the run of a program -/

/-- The interrupt that is taken of those pending: external, software, timer, then those of R314. -/
def firstIrq (p : Dword) : Nat := ([9, 1, 5, 16, 17, 18, 19].find? fun i => p.getLsbD i).getD 0

/-- R310, R314: the interrupt that the core takes now: to M-mode or not, and its number. -/
def State.svcIrq (s : State) (c : Nat) : Option (Bool × Nat) :=
  let x := s.svc c
  let std := x.csr 0x344 &&& x.csr 0x304 &&& 0x222
  let m := std &&& ~~~x.delegated
  let v := (std &&& x.delegated) ||| (s.sip c &&& x.sie)
  if m ≠ 0 ∧ (x.mode ≠ .m ∨ (x.csr 0x300).getLsbD 3 = true) then some (true, firstIrq m)
  else if v ≠ 0 ∧ (x.mode = .u ∨ (x.mode = .s ∧ (x.csr 0x300).getLsbD 1 = true)) then some (false, firstIrq v)
  else none

/-- The address that an interrupt goes to: the base, or in vectored mode its own entry. -/
def vectorAt (tvec : Dword) (n : Nat) : Dword := (tvec &&& ~~~3) + if tvec.getLsbD 0 then BitVec.ofNat 64 (4 * n) else 0

/-- R310, R314: an interrupt of a service core. -/
def State.takeIrq (s : State) (c : Nat) (m : Bool) (n : Nat) : State :=
  s.modSvc c fun x =>
    let cause := BitVec.ofNat 64 (2 ^ 63 + n)
    if m then x.enterM cause 0 (vectorAt (x.csr 0x305) n) else x.enterS cause 0 (vectorAt x.stvec n)

/-- The fetch of two bytes at an address. -/
def fetchOf (va : Dword) : SvcAccess := ⟨.fetch, va, 1, false, 0, 0, false, false⟩

/-- The fetch at the core's pc, which carries its program on. -/
def State.hartEvent (s : State) (c : Nat) : Instr := .serviceCoreAccess (BitVec.ofNat 10 c) (fetchOf (s.svc c).pc)

/-- The instruction at the core's pc: its word, the word as fetched, and its bytes. -/
def State.hartFetch (s : State) (c : Nat) : (Nat × Nat × Nat × State) ⊕ HartEnd :=
  let x := s.svc c
  let half := fun (s : State) (va : Dword) => s.svcAccess c (fetchOf va) x.mode
  match half s x.pc with
  | .waits s => .inr (.waits s)
  | .trap cause tval s => .inr (.trap cause tval s)
  | .done lo s =>
    if lo % 4 = 3 then
      match half s (x.pc + 2) with
      | .waits s => .inr (.waits s)
      | .trap cause tval s => .inr (.trap cause tval s)
      | .done hi s => .inl (lo + 65536 * hi, lo + 65536 * hi, 4, s)
    else
      match expandC lo with
      | some w => .inl (w, lo, 2, s)
      | none => .inr (.trap 2 lo s)

/-- An instruction counts in instret, and the cycles it took in cycle, unless mcountinhibit stops them or the instruction `w`
wrote that counter (log 54). -/
def Svc.retire (x : Svc) (k w : Nat) : Svc :=
  let stop := fun (i : Nat) => (x.csr 0x320).getLsbD i || (w % 128 == 0x73 && csrWrites w && bits w 31 20 == 0xB00 + i)
  let m := if stop 2 then x.csrs else x.csrs.set 0 0xB02 (x.csr 0xB02 + 1)
  { x with csrs := if stop 0 then m else m.set 0 0xB00 (x.csr 0xB00 + BitVec.ofNat 64 (Config.svcCycles k + 1)) }

/-- R310: a running core takes an interrupt, or carries out the instruction at its pc, and fetches the next. -/
def State.hartStep (s : State) (c : Nat) : State :=
  let go := fun (s : State) => s.addDue (s.hartEvent c)
  let s0 := s.dropDue (s.hartEvent c)
  match s.svcIrq c with
  | some (m, n) => go (s0.takeIrq c m n)
  | none =>
    match s0.hartFetch c with
    | .inr (.waits s) => go s
    | .inr (.trap cause tval s) => go (s.svcTrap c cause tval)
    | .inr (.next _ s) => go s
    | .inl (w, raw, len, s) =>
      match s.hartExec c w len with
      | .waits s => go s
      | .trap cause tval s => go (s.svcTrap c cause (if cause = 2 then raw else tval))
      | .next pc s => go { s.modSvc c fun x => { x.retire s.fresh w with pc := pc } with fresh := s.fresh + 1 }

/-- R126, R310, R311: SERVICE_CORE_ACCESS: the fetch of a running core carries out its next instruction; another access of
the core's program is made, and what it read goes to its register. One whose line is not there is made again, and holds
the core. DESIGN CHOICE: log 31. -/
def execServiceCoreAccess (cv : BitVec 10) (a : SvcAccess) (s : State) : Out :=
  let c := cv.toNat
  let ev := Instr.serviceCoreAccess cv a
  let x := s.svc c
  let mine := decide (ev ∈ x.accs)
  let free := fun (s : State) => (s.dropDue ev).modSvc c fun x => { x with accs := x.accs.erase ev }
  if (s.cluster c).out then .next (free s)
  else if x.running && a.op == .fetch && !mine && decide (ev ∈ s.due) then
    .next (if s.svcHeld c then s else if a = fetchOf x.pc then s.hartStep c else (s.dropDue ev).addDue (s.hartEvent c))
  else if s.svcHeld c && !mine then .next s
  else
    match (free s).svcAccess c a x.mode with
    | .waits s => .next ((s.modSvc c fun x => { x with accs := [ev] }).addDue ev)
    | .trap cause tval s => .next (s.svcTrap c cause tval)
    | .done v s => .next (match svcResult a v with
      | some r => s.setX c a.rd r
      | none => s)

/-- R312: FENCE_I: the core's own instruction cache is emptied; its earlier stores are performed. -/
def execFenceI (cv : BitVec 10) (s : State) : Out := inOrder cv.toNat (fun s => s.modSvc cv.toNat fun x => { x with icache := [] }) s

end Sys2Proof.Machine
end

