-- ==== Sys2Proof/Machine/Calls.lean ====
section
/-!
DEFINITION. The calls that Peat serves, and the faults it hands on (13 R320 to R326, 15 R205, 20 R418 to R420, 21).
-/

namespace Sys2Proof.Machine

/-! ### Errors (R323) -/

/-- R323: the names of Peat's errors. -/
inductive Errno where
  | inval | nosys | perm | acces | fault | busy | again | canceled | timedout
  | nomem | noent | exist | notdir | isdir | nametoolong | badf | mfile | fbig | nospc | rofs | io
  | notsock | msgsize | netdown | connreset | connrefused
deriving DecidableEq, Repr

/-- R323: the value of an error. -/
def Errno.value : Errno → Nat
  | .inval => 1 | .nosys => 2 | .perm => 3 | .acces => 4 | .fault => 5 | .busy => 6 | .again => 7 | .canceled => 8 | .timedout => 9
  | .nomem => 16 | .noent => 32 | .exist => 33 | .notdir => 34 | .isdir => 35 | .nametoolong => 36 | .badf => 37 | .mfile => 38
  | .fbig => 39 | .nospc => 40 | .rofs => 41 | .io => 42
  | .notsock => 64 | .msgsize => 65 | .netdown => 66 | .connreset => 67 | .connrefused => 68

/-- R323: the result −e; which case of a call gives which error is DEDUCED: log 25. -/
def errno (e : Errno) : Dword := -(BitVec.ofNat 64 e.value)

/-! ### A caller's memory -/

/-- The translations of `n` bytes of an address space as die d walks it, if every byte has one. -/
def State.spanMap (s : State) (d : Nat) (asn : BitVec 16) (va n : Nat) (want : Want) : Option (List (Nat × CtbEntry)) :=
  ((List.range n).map fun i => (va + i) % 2 ^ 64).mapM fun a => (s.walkTo d asn.toNat a want).map fun t => (t.pa a, t)

/-- The lines of T pages among translated bytes. -/
def tLines (ts : List (Nat × CtbEntry)) : List Nat := ((ts.filter fun p => p.2.tr == 0).map fun p => p.1 / 128).eraseDups

/-- R111, R332: `n` bytes of a caller's address space, read at home. -/
def State.spanRead (s : State) (d : Nat) (asn : BitVec 16) (va n : Nat) : Reach (List Byte) :=
  match s.spanMap d asn va n Want.load with
  | none => .lost
  | some ts =>
    if ts.any fun p => !s.reach d (paDie p.1) || s.poisoned p.1 then .lost
    else if (tLines ts).any fun l => s.lineBusy l then .waits s
    else
      let s := (tLines ts).foldl (fun s l => s.homeSync l false []) s
      .got (ts.map fun p => s.readByte p.1) s

/-- R91, R111, R332: bytes of a caller's address space written at home. -/
def State.spanWrite (s : State) (c : Nat) (asn : BitVec 16) (va : Nat) (bs : List Byte) : Reach Unit :=
  match s.spanMap (c / 16) asn va bs.length Want.store with
  | none => .lost
  | some ts =>
    if ts.any fun p => !s.reach (c / 16) (paDie p.1) then .lost
    else if (tLines ts).any fun l => s.lineBusy l then .waits s
    else
      let s := (tLines ts).foldl (fun s l => s.homeSync l true []) s
      let s := s.markLeaves c ((ts.zipIdx.map fun e => (pageOf ((va + e.2) % 2 ^ 64), e.1.2)).dedup)
      .got () (s.writeHome ((ts.map (·.1)).zip bs))

/-! ### A call and its callers (R316, R320, R321) -/

/-- A call that Peat serves: its handle's waiting fragment and its callers in ascending lane order. -/
structure Served where
  h : Handle
  g : Group
  f : Frag
  w : CallWait
  callers : List Nat

/-- R316, R317: where a live record stands in its cluster's scratchpad, and whether it is taken. -/
def Cluster.recOf (x : Cluster) (h : Nat) : Option (Nat × Bool) :=
  x.rings.findSome? fun e => (e.2.recs.find? fun r => r.handle == h && r.kind != 0 && !r.retired).map fun r => (e.2.base.toNat + r.off, r.taken)

/-- R317, R356: the call at a handle that Peat has taken; under host-assisted calls the host serves them. -/
def State.served (s : State) (c hn : Nat) : Option Served :=
  if (s.die (c / 16)).fmode.getLsbD 4 then none else
  match (s.cluster c).recOf hn with
  | some (_, true) => (s.waiter c hn).map fun (h, g, f, w) => ⟨h, g, f, w, lanesOf (h.callers &&& f.mask) g.lanes⟩
  | _ => none

/-- R205, R316, R320: the six argument words of a caller: of the record, or for a restored call of its registers. -/
def State.argsOf (s : State) (c hn : Nat) (v : Served) (lane : Nat) : List Nat :=
  match v.h.kind, (s.cluster c).recOf hn with
  | 1, some (off, _) =>
    let x := s.cluster c
    let m : Mask := BitVec.ofNat 1024 (leNat (x.sbytes (off + 0x40) 128))
    let k := (lanesOf m lane).length
    (List.range 6).map fun i => leNat (x.sbytes (off + 0xC0 + 24 * k + 4 * i) 4)
  | _, _ => (List.range 6).map fun i => (v.g.vreg lane (v.w.reg + i)).data.toNat

/-- R206, R316: the value of a TRAPI's sd. -/
def State.trapValue (s : State) (c hn : Nat) (v : Served) : Nat :=
  match v.h.kind, (s.cluster c).recOf hn with
  | 2, some (off, _) => leNat ((s.cluster c).sbytes (off + 0x18) 8)
  | _, _ => (v.g.sreg v.w.reg).toNat

/-- A 64-bit argument: word i low, word i + 1 high. -/
def arg64 (a : List Nat) (i : Nat) : Nat := a.getD i 0 + 2 ^ 32 * a.getD (i + 1) 0
def arg (a : List Nat) (i : Nat) : Nat := a.getD i 0

/-- R321: the callers of each pattern of arguments, by the lowest caller. -/
def patterns (args : Nat → List Nat) (lanes : List Nat) : List (List Nat × List Nat) :=
  ((lanes.map args).eraseDups).map fun a => (a, lanes.filter fun l => args l == a)

/-- R321: the callers one by one, in ascending order. -/
def singles (args : Nat → List Nat) (lanes : List Nat) : List (List Nat × List Nat) := lanes.map fun l => (args l, [l])

/-- R318: results to lanes. -/
def State.giveResults (s : State) (v : Served) (rs : List (Nat × Dword)) : State :=
  s.modGroup v.h.gid fun g => rs.foldl (fun g r => g.putResult v.w r.1 r.2) g

/-- R318, R319: every caller has its result, and all the lanes resume. -/
def State.finishCall (s : State) (c hn : Nat) (v : Served) (rs : List (Nat × Dword)) : State :=
  (s.giveResults v rs).resumeWhole c hn v.h

/-- A call that Peat answers at once: `body` gives each pattern's lanes their results; none where memory it needs is in use
at its home. -/
def State.callNow (s : State) (c hn n : Nat) (split : (Nat → List Nat) → List Nat → List (List Nat × List Nat))
    (body : Served → State → List Nat → Nat → Option (State × List Dword)) : State :=
  match s.served c hn with
  | none => s
  | some v =>
    if v.w.kind ≠ 1 ∨ v.w.call ≠ n then s else
    let add := fun (st : State × List (Nat × Dword)) (p : List Nat × List Nat) =>
      (body v st.1 p.1 p.2.length).map fun r => (r.1, st.2 ++ p.2.zipIdx.map fun l => (l.1, r.2.getD l.2 (r.2.getLastD 0)))
    match (split (s.argsOf c hn v) v.callers).foldlM add (s, []) with
    | none => s
    | some (t, rs) => t.finishCall c hn v rs

/-! ### Calls that wait (R319, R320, R322) -/

/-- How a call of a lane begins: answered at once, or waiting for something. -/
inductive Begun where
  | now (r : Dword)
  | on (w : WaitOn)

/-- The lanes of a call that wait or have results to take. -/
def State.waitsOf (s : State) (v : Served) : List PeatWait :=
  s.peat.waits.filter fun w => w.grid == v.g.grid.toNat && w.gang == v.g.gang.toNat && w.index == v.g.index.toNat && decide (w.lane ∈ v.callers)

/-- R321: each set of callers begins in turn, as far as it can now; with `inTurn` one begins when those before it have their
results. -/
def State.beginAll (s : State) (v : Served) (inTurn : Bool) (one : State → List Nat → Option (State × Begun)) :
    List (List Nat × List Nat) → State
  | [] => s
  | (a, lanes) :: rest =>
    if inTurn && (s.waitsOf v).any fun w => w.res.isNone then s else
    match one s a with
    | none => s
    | some (t, b) =>
      let entry (l : Nat) : PeatWait :=
        match b with
        | .now r => ⟨v.g.grid.toNat, v.g.gang.toNat, v.g.index.toNat, l, .grid 0, some r⟩
        | .on w => ⟨v.g.grid.toNat, v.g.gang.toNat, v.g.index.toNat, l, w, none⟩
      ({ t with peat := { t.peat with waits := t.peat.waits ++ lanes.map entry } } : State).beginAll v inTurn one rest

/-- R333: writes of files have reported. -/
def Peat.report (p : Peat) (ids : List Nat) : Peat :=
  { p with files := p.files.map fun (e : Nat × FileEnt) => (e.1, { e.2 with reported := e.2.reported + ids.count e.1 }) }

/-- R333: the file of a write that reports. -/
def PeatWait.reports (w : PeatWait) : Option Nat :=
  match w.on, w.res with
  | .cmds _ _ false _ f, some _ => f
  | _, _ => none

/-- R332: what a lane waits for once some commands of controller k have ended. -/
def PeatWait.after (w : PeatWait) (k : Nat) (ends : List (Nat × NvmeStatus)) : PeatWait :=
  match w.on with
  | .cmds j left err value file =>
    if j ≠ k ∨ w.res.isSome then w else
    let err := err || ends.any fun q => decide (q.1 ∈ left) && decide (q.2 ≠ .ok)
    let left := left.filter fun i => !(ends.any fun q => q.1 == i)
    { w with on := .cmds k left err value file
             res := if left.isEmpty then some (if err then errno .io else BitVec.ofNat 64 value) else none }
  | _ => w

/-- R332, R333: Peat takes the completions of its core, and core 0 those of the admin queues: a command that ends is over for each
caller that waits for it, and a write whose commands have all ended reports. -/
def State.takeCompletions (s : State) (c : Nat) : State :=
  s.nvme.foldl (fun (s : State) (e : Nat × Nvme) =>
    let ends := (e.2.completions.filter fun q => q.1 == c).map fun q => q.2
    let waits := s.peat.waits.map fun w => w.after e.1 ends
    let ids := ((s.peat.waits.zip waits).filter fun w => w.1.res.isNone).filterMap fun w => w.2.reports
    { s with
      peat := ({ s.peat with waits := waits } : Peat).report ids
      nvme := s.nvme.put e.1 { e.2 with completions := e.2.completions.filter (fun q => q.1 != c), admin := if c = 0 then [] else e.2.admin } }) s

/-- R39, R318, R319: the lanes of a call that have their results resume, if an entry can be had. -/
def State.settleCall (s : State) (c hn : Nat) : State :=
  match s.served c hn with
  | none => s
  | some v =>
    let ready := (s.waitsOf v).filter fun w => w.res.isSome
    if ready.isEmpty then s else
    let all := v.callers.all fun l => ready.any fun w => w.lane == l
    let m := if all then v.f.mask else maskOf (ready.map (·.lane))
    match (s.giveResults v (ready.map fun w => (w.lane, w.res.getD 0))).resume c hn m with
    | none => s.addDue (.partialResumptionAllocated (BitVec.ofNat 10 c) (BitVec.ofNat 16 hn))
    | some t => { t with peat := { t.peat with waits := t.peat.waits.filter fun w => !decide (w ∈ ready) } }

/-- A call whose lanes may wait: those that have not begun begin, and those that have their results resume. -/
def State.callWaiting (s : State) (c hn n : Nat) (inTurn : Bool)
    (split : (Nat → List Nat) → List Nat → List (List Nat × List Nat)) (one : Served → State → List Nat → Option (State × Begun)) : State :=
  let s := s.takeCompletions c
  match s.served c hn with
  | none => s
  | some v =>
    if v.w.kind ≠ 1 ∨ v.w.call ≠ n then s else
    let todo := v.callers.filter fun l => !(s.waitsOf v).any fun w => w.lane == l
    (s.beginAll v inTurn (one v) (split (s.argsOf c hn v) todo)).settleCall c hn

/-! ### Memory calls (R322) -/

/-- R322: the class of an allocation, for a size from 1 to 64 KiB. -/
def sizeClass (n : Nat) : Option Nat := if n = 0 then none else (List.range 11).find? fun k => decide (n ≤ 64 * 2 ^ k)

/-- R322: the blocks of a tenant's class that its quota still has, and the address of the next one (DESIGN CHOICE, log 44). -/
def Peat.quotaOf (p : Peat) (key : Nat) : Nat := (p.quota.find key).getD (Config.peatQuota key)
def Peat.runOf (p : Peat) (key : Nat) : Nat := (p.run.find key).getD (64 * 2 ^ (key % 16) * (Config.peatRun key % 2 ^ 39))

/-- R322: CALL_ALLOC: blocks for the lanes of one pattern, as far as the quota goes. -/
def execCallAlloc (cv : BitVec 10) (hv : BitVec 16) (s : State) : Out :=
  .next (s.callNow cv.toNat hv.toNat 1 patterns fun v s a n =>
    match if arg a 1 = 0 then sizeClass (arg a 0) else none with
    | none => some (s, [errno .inval])
    | some k =>
      let t := v.g.tenant.toNat
      let key := 16 * t + k
      let m := min n (s.peat.quotaOf key)
      let at' := s.peat.runOf key
      let got := (List.range m).map fun i => at' + 64 * 2 ^ k * i
      let p := { s.peat with quota := s.peat.quota.put key (s.peat.quotaOf key - m), run := s.peat.run.put key (at' + 64 * 2 ^ k * m)
                             blocks := got.foldl (fun b x => b.set 0 (2 ^ 64 * t + x) (k + 1)) s.peat.blocks }
      some ({ s with peat := p }, got.map (BitVec.ofNat 64) ++ List.replicate (n - m) (errno .nomem)))

/-- R322: CALL_FREE: the block goes back to the tenant's quota of its class. -/
def execCallFree (cv : BitVec 10) (hv : BitVec 16) (s : State) : Out :=
  .next (s.callNow cv.toNat hv.toNat 2 singles fun v s a _ =>
    let t := v.g.tenant.toNat
    let key := 2 ^ 64 * t + arg64 a 0
    match s.peat.blocks.find key with
    | none => some (s, [errno .inval])
    | some k1 =>
      let q := 16 * t + (k1 - 1)
      let p := { s.peat with quota := s.peat.quota.put q (s.peat.quotaOf q + 1), blocks := s.peat.blocks.erase key }
      some ({ s with peat := p }, [0]))

/-- R340, R341: the slice groups of die d that belong to a tenant. -/
def Die.sliceGroups (x : Die) (tenant : Nat) : BitVec 16 :=
  (List.range 16).foldl (fun m n =>
    let e := x.tcfg.get 0 n
    if e.getLsbD 63 && (e.extractLsb' 48 12).toNat == tenant then m ||| e.extractLsb' 32 16 else m) 0

/-- R89, R90, R340: a frame of die d in state free whose slice group is among those given, by Peat's choice (DESIGN CHOICE,
log 11), as a physical address. -/
def State.freeFrame (s : State) (d : Nat) (groups : BitVec 16) : Option Nat :=
  let free := (List.range dieFrames).filter fun f =>
    groups.getLsbD (f % 16) &&
    let e := s.ownEntry (d * 2 ^ 37 + 65536 * f)
    ownState e == 0 && bits e 63 17 == 0
  if free.isEmpty then none else some (d * 2 ^ 37 + 65536 * free.getD (Config.peatChoice s.fresh % free.length) 0)

/-- R89: Peat writes a frame's ownership entry: state, owner, and PT for a page that takes pushes. -/
def State.setFrame (s : State) (pa st owner pt : Nat) : State :=
  { s.deviceWrite (paDie pa * 2 ^ 37 + 8 * (paOff pa / 65536)) (leBytes 8 (pt * 65536 + st * 4096 + owner)) with fresh := s.fresh + 1 }

/-- R84, R85, R89: the address of the level-3 entry of a page, with the tables on the way made where they are missing; `n`
levels are left. -/
def State.pageSlot (s : State) (d va : Nat) : Nat → Nat → Nat → Option (State × Nat)
  | 0, _, _ => none
  | n + 1, table, level =>
    let slot := table * 65536 + 8 * bits va (54 - 13 * (level - 1)) (42 - 13 * (level - 1))
    if level = 3 then some (s, slot) else
    let e := s.deviceNat slot 8
    if bits e 1 0 = 1 then s.pageSlot d va n (bits e 42 16) (level + 1)
    else if bits e 1 0 ≠ 0 then none
    else
      match s.freeFrame d (BitVec.allOnes 16) with
      | none => none
      | some f => (((s.setFrame f 4 0 0).zeroRange f (f + 65536)).deviceWrite slot (leBytes 8 (f + 1))).pageSlot d va n (f / 65536) (level + 1)

/-- R86, R90, R322: one page mapped with a protection, on a frame that its tenant now owns; its push bit allows pushes in the
leaf and in the ownership entry. DEDUCED: log 44. -/
def State.mapPage (s : State) (d : Nat) (asn : BitVec 16) (tenant va prot : Nat) (bytes : List Byte) : Option State :=
  match s.pageSlot d va 3 (bits (s.spaceEntry d asn.toNat) 42 16) 1 with
  | none => none
  | some (s, slot) =>
    if bits (s.deviceNat slot 8) 1 0 ≠ 0 then none else
    (s.freeFrame d ((s.die d).sliceGroups tenant)).map fun f =>
      let s := (s.setFrame f 1 tenant (bits prot 6 6)).deviceWrite f bytes
      s.deviceWrite slot (leBytes 8 (f + 2 + 8 * bits prot 2 0 + 64 * bits prot 5 4 + 512 * bits prot 6 6))

/-- R322: the pages of a mapping, one after another. -/
def State.mapPages (s : State) (d : Nat) (asn : BitVec 16) (tenant va prot : Nat) : List (List Byte) → Option State
  | [] => some s
  | b :: bs => (s.mapPage d asn tenant va prot b).bind fun s => s.mapPages d asn tenant (va + 65536) prot bs

/-- The bytes of a file from an offset, `n` pages of 64 KiB, zero past its end. -/
def filePages (data : List Byte) (off n : Nat) : List (List Byte) :=
  (List.range n).map fun i => let b := (data.drop (off + 65536 * i)).take 65536; b ++ List.replicate (65536 - b.length) 0

/-- The end of the highest mapping of an address space, in pages. -/
def Peat.mapEnd (p : Peat) (asn : Nat) : Nat := (p.maps.filter fun m => m.1 == asn).foldl (fun n m => max n (m.2.1 + m.2.2.1)) 0

/-- R322: a descriptor of the tenant. -/
def State.fd (s : State) (tenant : BitVec 12) (n : Nat) : Option FdEnt :=
  (s.peat.fds.find n).bind fun e =>
    match e with
    | .file t _ _ => if t = tenant.toNat then some e else none
    | .sock t _ _ _ _ _ _ => if t = tenant.toNat then some e else none

/-- R419: the controller of a file is out of service. -/
def State.fileOut (s : State) (f : FileEnt) : Bool := (s.nvme.get Nvme.reset f.ctl).out

/-- R356: the file calls of a cluster are the host's: Peat leaves those on a descriptor that is no socket of its own to it. -/
def State.hostFiles (s : State) (c : Nat) (tenant : BitVec 12) (n : Nat) : Bool :=
  (s.die (c / 16)).fmode.getLsbD 5 && match s.fd tenant n with
    | some (.sock _ _ _ _ _ _ _) => false
    | _ => true

/-- R322, R356, R419: CALL_MMAP: the pages at the hint where they are free, else where Peat chooses (DESIGN CHOICE, log 11). -/
def execCallMmap (cv : BitVec 10) (hv : BitVec 16) (s : State) : Out :=
  .next (s.callNow cv.toNat hv.toNat 3 patterns fun v s a _ =>
    let d := cv.toNat / 16
    let n := (arg a 2 + 65535) / 65536
    let prot := arg a 3
    let anon := arg a 4 == 2 ^ 32 - 1
    let src := match s.fd v.g.tenant (arg a 4) with
      | some (.file _ id _) => s.peat.files.find id
      | _ => none
    if anon = false ∧ s.hostFiles cv.toNat v.g.tenant (arg a 4) = true then none
    else if anon = false ∧ (src.any fun f => s.fileOut f) = true then some (s, [errno .io])
    else if n = 0 ∨ bits prot 5 4 = 3 ∨ bits prot 3 3 ≠ 0 ∨ 128 ≤ prot ∨ arg64 a 0 % 65536 ≠ 0 then some (s, [errno .inval])
    else if anon = false ∧ src.isNone then some (s, [errno .badf])
    else
      let pages := match src with
        | some f => if anon then filePages [] 0 n else filePages f.data (65536 * arg a 5) n
        | none => filePages [] 0 n
      let choice := 65536 * max (Config.peatChoice s.fresh % 2 ^ 38) (s.peat.mapEnd v.g.asn.toNat)
      let try' := fun (va : Nat) =>
        if 2 ^ 55 < va + 65536 * n then none
        else (s.mapPages d v.g.asn v.g.tenant.toNat va prot pages).map fun t =>
          ({ t with peat := { t.peat with maps := t.peat.maps ++ [(v.g.asn.toNat, va / 65536, n, prot)] } }, [BitVec.ofNat 64 va])
      match (if arg64 a 0 = 0 then none else try' (arg64 a 0)).orElse fun _ => try' choice with
      | some r => some r
      | none => some (s, [errno .nomem]))

/-- R85, R322: a page is no longer mapped; its leaf is written invalid, and its translations go. -/
def State.unmapPage (s : State) (d : Nat) (asn : BitVec 16) (va : Nat) : State :=
  let s :=
    match s.walkFrom d asn.toNat va 3 (bits (s.spaceEntry d asn.toNat) 42 16) 1 with
    | .inl (_, 3, _) =>
      match s.pageSlot d va 3 (bits (s.spaceEntry d asn.toNat) 42 16) 1 with
      | some (s, slot) => s.deviceWrite slot (leBytes 8 0)
      | none => s
    | _ => s
  (clustersOf d).foldl (fun s c => s.modCluster c fun x => { x with ctb := x.ctb.filter fun e => !(e.asn == asn && e.covers (pageOf va)) }) s

/-- R322: CALL_MUNMAP. -/
def execCallMunmap (cv : BitVec 10) (hv : BitVec 16) (s : State) : Out :=
  .next (s.callNow cv.toNat hv.toNat 4 singles fun v s a _ =>
    let va := arg64 a 0
    let n := (arg a 2 + 65535) / 65536
    if va % 65536 ≠ 0 ∨ n = 0 then some (s, [errno .inval])
    else
      let s := (List.range n).foldl (fun s i => s.unmapPage (cv.toNat / 16) v.g.asn (va + 65536 * i)) s
      let gone := fun (m : Nat × Nat × Nat × Nat) => m.1 == v.g.asn.toNat && decide (va / 65536 ≤ m.2.1) && decide (m.2.1 + m.2.2.1 ≤ va / 65536 + n)
      some ({ s with peat := { s.peat with maps := s.peat.maps.filter fun m => !gone m } }, [0]))

/-- R322: CALL_FAULTREG: the handler of an address space and the kinds of fault it takes. -/
def execCallFaultreg (cv : BitVec 10) (hv : BitVec 16) (s : State) : Out :=
  .next (s.callNow cv.toNat hv.toNat 5 patterns fun v s a _ =>
    if arg a 2 % 16 ≠ arg a 2 ∨ bits (arg a 2) 2 2 ≠ 0 then some (s, [errno .inval])
    else some ({ s with peat := { s.peat with handlers := s.peat.handlers.put v.g.asn.toNat (arg a 2, arg64 a 0) } }, [0]))

/-! ### Commands of a file call (R332, R333) -/

/-- R332: a controller serves I/O commands of a core: it is ready, the core has its queue pair, and its die's file calls are
not the host's (R356). -/
def State.ioReady (s : State) (ctl c : Nat) : Bool :=
  let x := s.nvme.get Nvme.reset ctl
  x.ready && !x.out && decide (c ∈ x.queues) && !(s.die (c / 16)).fmode.getLsbD 5

/-- R332: commands that the core's queue of depth 256 still takes. -/
def State.ioRoom (s : State) (ctl c : Nat) : Nat := 255 - ((s.nvme.get Nvme.reset ctl).cmds.filter fun q => q.core == c).length

/-- The event that executes a command. -/
def ioEvent (ctl : BitVec 3) (cid : Nat) : NvmeOp → Instr
  | .read => .nvmeRead ctl cid
  | .write => .nvmeWrite ctl cid
  | .flush => .nvmeFlush ctl cid
  | .writeZeroes => .nvmeWriteZeroes ctl cid
  | .deallocate => .nvmeDatasetManagement ctl cid

/-- R332: the PRP entries of a buffer: the pages of 4,096 bytes that its bytes lie in, in order. -/
def prpsOf (va : Nat) (pas : List Nat) : List Nat :=
  (pas.zipIdx.filter fun e => e.2 == 0 || (va + e.2) % 4096 == 0).map fun e => e.1 / 4096 * 4096

/-- R332, R417: a command is submitted with the places of its buffer: it sets out, and its time starts. DESIGN CHOICE: log 26. -/
def State.submit (s : State) (ctl c : Nat) (op : NvmeOp) (fua : Bool) (job : FileJob) (pas : List Nat) : Nat × State :=
  let cid := s.fresh
  let lba := Config.peatChoice job.file + job.off / 4096
  let q : NvmeCmd :=
    { cid := cid, core := c, op := op, nsid := 1, lba := lba, n := (job.len + 4095) / 4096, prps := prpsOf job.va pas, fua := fua,
      clock := s.clock (c / 16), status := none, job := some job, covers := [] }
  let x := s.nvme.get Nvme.reset ctl
  let k := BitVec.ofNat 3 ctl
  (cid, ((({ s with nvme := s.nvme.put ctl { x with cmds := x.cmds ++ [q] }, fresh := cid + 1 } : State).addDue (ioEvent k cid op)).addDue
    (.nvmeCommandTimeout k false)))

/-- R332: the parts of at most 1 MiB of `len` bytes of a file from an offset, each with the places of its bytes in memory. -/
def chunks (file off va : Nat) (asn : BitVec 16) (pas : List Nat) : List (FileJob × List Nat) :=
  (List.range ((pas.length + 2 ^ 20 - 1) / 2 ^ 20)).map fun i =>
    (⟨file, off + 2 ^ 20 * i, min (2 ^ 20) (pas.length - 2 ^ 20 * i), asn, (va + 2 ^ 20 * i) % 2 ^ 64⟩, (pas.drop (2 ^ 20 * i)).take (2 ^ 20))

/-- The commands of a call are submitted; their numbers. -/
def State.submitAll (s : State) (ctl c : Nat) (op : NvmeOp) (fua : Bool) (jobs : List (FileJob × List Nat)) : List Nat × State :=
  jobs.foldl (fun st j => let r := st.2.submit ctl c op fua j.1 j.2; (st.1 ++ [r.1], r.2)) ([], s)

/-- The file of a descriptor of a tenant, with its number and the descriptor's flags. DESIGN CHOICE: log 26. -/
def State.fdFile (s : State) (tenant : BitVec 12) (n : Nat) : Option (Nat × FileEnt × Nat) :=
  match s.fd tenant n with
  | some (.file _ id flags) => (s.peat.files.find id).map fun f => (id, f, flags)
  | _ => none

/-- R322, R332, R356: a read of a file begins. -/
def State.beginRead (s : State) (c : Nat) (v : Served) (a : List Nat) : Option (State × Begun) :=
  if s.hostFiles c v.g.tenant (arg a 0) then none else
  match s.fdFile v.g.tenant (arg a 0) with
  | none => some (s, .now (errno .badf))
  | some (id, f, flags) =>
    let off := arg64 a 4
    let n := min (arg a 3) (f.data.length - off)
    if s.fileOut f then some (s, .now (errno .io))
    else if flags % 2 = 0 then some (s, .now (errno .badf))
    else if n = 0 then some (s, .now 0)
    else
      match s.spanMap (c / 16) v.g.asn (arg64 a 1) n Want.store with
      | none => some (s, .now (errno .fault))
      | some ts =>
        if !s.ioReady f.ctl c || s.ioRoom f.ctl c == 0 then none
        else
          let ts := ts.take (2 ^ 20 * s.ioRoom f.ctl c)
          let s := s.markLeaves c ((ts.zipIdx.map fun e => (pageOf ((arg64 a 1 + e.2) % 2 ^ 64), e.1.2)).dedup)
          let (ids, s) := s.submitAll f.ctl c .read false (chunks id off (arg64 a 1) v.g.asn (ts.map (·.1)))
          some (s, .on (.cmds f.ctl ids false ts.length none))

/-- R322: CALL_READ. -/
def State.serveRead (s : State) (c hn : Nat) : State := s.callWaiting c hn 7 true singles fun v s a => s.beginRead c v a
def execCallRead (cv : BitVec 10) (hv : BitVec 16) (s : State) : Out := .next (s.serveRead cv.toNat hv.toNat)

/-- R322: the end of a file once the writes submitted before are carried out: where an append goes. DEDUCED: log 26. -/
def State.fileEnd (s : State) (id : Nat) (f : FileEnt) : Nat :=
  (s.nvme.get Nvme.reset f.ctl).cmds.foldl (fun n q =>
    match q.job with
    | some j => if j.file = id ∧ q.status = none ∧ (q.op = .write ∨ q.op = .writeZeroes) then max n (j.off + j.len) else n
    | none => n) f.data.length

/-- R22: the file's namespace has room for it with an end at `n`, beside the other files of its controller. DESIGN CHOICE: log 26. -/
def State.fileRoom (s : State) (id : Nat) (f : FileEnt) (n : Nat) : Bool :=
  let used := (s.peat.files.filter fun e => e.2.ctl == f.ctl && e.1 != id).map fun e => (s.fileEnd e.1 e.2 + 4095) / 4096
  match (s.nvme.get Nvme.reset f.ctl).spaces.find 1 with
  | some (blocks, _) => decide (used.sum + (max n (s.fileEnd id f) + 4095) / 4096 ≤ blocks)
  | none => false

/-- R322, R333, R356: a write of a file begins; bytes between its end and the offset are zero. -/
def State.beginWrite (s : State) (c : Nat) (v : Served) (a : List Nat) : Option (State × Begun) :=
  if s.hostFiles c v.g.tenant (arg a 0) then none else
  match s.fdFile v.g.tenant (arg a 0) with
  | none => some (s, .now (errno .badf))
  | some (id, f, flags) =>
    let last := s.fileEnd id f
    let off := if bits flags 4 4 = 1 then last else arg64 a 4
    let gap := off - last
    if s.fileOut f then some (s, .now (errno .io))
    else if bits flags 1 1 = 0 then some (s, .now (errno .badf))
    else if arg a 3 = 0 then some (s, .now 0)
    else if 2 ^ 63 ≤ off + arg a 3 then some (s, .now (errno .fbig))
    else if !s.fileRoom id f (off + arg a 3) then some (s, .now (errno .nospc))
    else
      match s.spanMap (c / 16) v.g.asn (arg64 a 1) (arg a 3) Want.load with
      | none => some (s, .now (errno .fault))
      | some ts =>
        if !s.ioReady f.ctl c || decide (s.ioRoom f.ctl c < 2) then none
        else
          let ts := ts.take (2 ^ 20 * (s.ioRoom f.ctl c - 1))
          let sync := bits flags 5 5 == 1
          let (z, s) := s.submitAll f.ctl c .writeZeroes sync (if gap = 0 then [] else [(⟨id, last, gap, 0, 0⟩, [])])
          let (ids, s) := s.submitAll f.ctl c .write sync (chunks id off (arg64 a 1) v.g.asn (ts.map (·.1)))
          some (s, .on (.cmds f.ctl (z ++ ids) false ts.length (if sync then none else some id)))

/-- R333: CALL_WRITE. -/
def State.serveWrite (s : State) (c hn : Nat) : State := s.callWaiting c hn 8 true singles fun v s a => s.beginWrite c v a
def execCallWrite (cv : BitVec 10) (hv : BitVec 16) (s : State) : Out := .next (s.serveWrite cv.toNat hv.toNat)

/-- R333, R356, R418: a flush of a file begins; a write-error mark is reported once. -/
def State.beginFsync (s : State) (c : Nat) (v : Served) (a : List Nat) : Option (State × Begun) :=
  if s.hostFiles c v.g.tenant (arg a 0) then none else
  match s.fdFile v.g.tenant (arg a 0) with
  | none => some (s, .now (errno .badf))
  | some (id, f, _) =>
    if s.fileOut f then some (s, .now (errno .io))
    else if f.writeErr then some ({ s with peat := { s.peat with files := s.peat.files.put id { f with writeErr := false } } }, .now (errno .io))
    else if !s.ioReady f.ctl c || s.ioRoom f.ctl c == 0 then none
    else
      let (n, s) := s.submit f.ctl c .flush false ⟨id, 0, 0, 0, 0⟩ []
      some (s, .on (.cmds f.ctl [n] false 0 none))

/-- R333: CALL_FSYNC. -/
def State.serveFsync (s : State) (c hn : Nat) : State := s.callWaiting c hn 9 false patterns fun v s a => s.beginFsync c v a
def execCallFsync (cv : BitVec 10) (hv : BitVec 16) (s : State) : Out := .next (s.serveFsync cv.toNat hv.toNat)

/-- R322: a NUL-terminated path of at most 4,096 bytes; each byte is read in turn. -/
def State.readPath (s : State) (d : Nat) (asn : BitVec 16) (va : Nat) : Nat → Reach (Option (List Byte))
  | 0 => .got none s
  | n + 1 =>
    match s.spanRead d asn va 1 with
    | .lost => .lost
    | .waits s => .waits s
    | .got b s =>
      if b.headD 0 = 0 then .got (some []) s
      else
        match s.readPath d asn (va + 1) n with
        | .got p s => .got (p.map fun q => b ++ q) s
        | r => r

/-- R322, R356: CALL_OPEN: a descriptor of a file of the tenant. -/
def execCallOpen (cv : BitVec 10) (hv : BitVec 16) (s : State) : Out :=
  .next (s.callNow cv.toNat hv.toNat 6 patterns fun v s a _ =>
    let c := cv.toNat
    let t := v.g.tenant.toNat
    let flags := arg a 2
    if (s.die (c / 16)).fmode.getLsbD 5 then none
    else if 64 ≤ flags ∨ flags % 4 = 0 then some (s, [errno .inval])
    else
      match s.readPath (c / 16) v.g.asn (arg64 a 0) 4096 with
      | .lost => some (s, [errno .fault])
      | .waits _ => none
      | .got none s => some (s, [errno .nametoolong])
      | .got (some path) s =>
        let old := s.peat.files.find? fun e => e.2.tenant == t && e.2.path == path
        let id := (old.map (·.1)).getD ((s.peat.files.foldl (fun n e => max n (e.1 + 1)) 0))
        let file := (old.map (·.2)).getD ⟨t, path, [], [], none, Config.peatChoice id % 8, 0, 0, false⟩
        if path.isEmpty ∨ (old.isNone ∧ bits flags 2 2 = 0) then some (s, [errno .noent])
        else if s.fileOut file then some (s, [errno .io])
        else
          let cut := bits flags 3 3 == 1 && !file.data.isEmpty
          let s := if cut && s.ioReady file.ctl c && decide (0 < s.ioRoom file.ctl c) then
            (s.submit file.ctl c .deallocate false ⟨id, 0, file.data.length, 0, 0⟩ []).2 else s
          let n := (s.peat.fds.firstFree (s.peat.fds.length + 1)).getD 0
          let p := { s.peat with files := s.peat.files.put id (if cut then { file with data := [], cut := some [] } else file)
                                 fds := s.peat.fds.put n (.file t id flags) }
          some ({ s with peat := p }, [BitVec.ofNat 64 n]))

/-- R322, R356, R419, R420: CALL_CLOSE; of a stream socket that was reset it says so, and the descriptor goes (log 27). -/
def execCallClose (cv : BitVec 10) (hv : BitVec 16) (s : State) : Out :=
  .next (s.callNow cv.toNat hv.toNat 10 patterns fun v s a _ =>
    if s.hostFiles cv.toNat v.g.tenant (arg a 0) then none else
    let gone := fun (r : Dword) => some ({ s with peat := { s.peat with fds := s.peat.fds.erase (arg a 0) } }, [r])
    match s.fd v.g.tenant (arg a 0) with
    | none => some (s, [errno .badf])
    | some (.file _ _ _) => gone 0
    | some (.sock _ _ _ _ _ reset _) => gone (if reset then errno .connreset else 0))

/-! ### Sockets (R322, R334, R420) -/

/-- R334, R420: Peat writes an entry of a port's steering table. -/
def State.steer (s : State) (k i c : Nat) : State :=
  let x := s.ports.get Port.reset k
  { s with ports := s.ports.put k { x with steer := x.steer.set 0 i c, badSteer := x.badSteer.filter (· != i) } }

/-- R322, R334: CALL_SOCKET: Peat steers an entry of its choice to the core, which owns the socket; a descriptor, bound to a port that Peat chooses (DESIGN CHOICE, log 11). DESIGN CHOICE: log 27. -/
def execCallSocket (cv : BitVec 10) (hv : BitVec 16) (s : State) : Out :=
  .next (s.callNow cv.toNat hv.toNat 11 patterns fun v s a _ =>
    if (arg a 0 ≠ 4 ∧ arg a 0 ≠ 6) ∨ 1 < arg a 1 ∨ arg a 2 ≠ 0 then some (s, [errno .inval])
    else
      let n := (s.peat.fds.firstFree (s.peat.fds.length + 1)).getD 0
      let k := Config.peatChoice s.fresh % 8
      let e := FdEnt.sock v.g.tenant.toNat (arg a 0) (arg a 1) k cv.toNat false []
      let s := s.steer k (Config.peatChoice (s.fresh + 1) % 4096) cv.toNat
      some ({ s with peat := { s.peat with fds := s.peat.fds.put n e }, fresh := s.fresh + 2 }, [BitVec.ofNat 64 n]))

/-- The runs of a caller's bytes that lie in one page each, as physical addresses. -/
def runsOf : List Nat → List (Nat × Nat)
  | [] => []
  | p :: ps =>
    match runsOf ps with
    | (q, n) :: rest => if q = p + 1 then (p, n + 1) :: rest else (p, 1) :: (q, n) :: rest
    | [] => [(p, 1)]

/-- The headers that Peat puts before a payload: addresses, ports and numbers are its own (DESIGN CHOICE, log 11). -/
def peatHeader (k family kind n : Nat) : List Byte :=
  let own := fun (m : Nat) => (List.range m).map fun i => BitVec.ofNat 8 (Config.peatChoice (k + i))
  let proto : Byte := if kind = 0 then 6 else 17
  let l4 := if kind = 0 then own 12 ++ [0x50, 0x18, 0xFF, 0xFF, 0, 0, 0, 0] else own 4 ++ (leBytes 2 (n + 8)).reverse ++ [0, 0]
  let m := l4.length + n
  own 12 ++ (if family = 4 then [0x08, 0x00, 0x45, 0] ++ (leBytes 2 (20 + m)).reverse ++ own 2 ++ [0x40, 0, 64, proto, 0, 0] ++ own 8
             else [0x86, 0xDD, 0x60, 0, 0, 0] ++ (leBytes 2 m).reverse ++ [proto, 64] ++ own 32) ++ l4

/-- R322, R334, R420: a send begins: the socket's owner makes a descriptor for its port. DESIGN CHOICE: log 27. -/
def State.beginSend (s : State) (c : Nat) (v : Served) (a : List Nat) : Option (State × Begun) :=
  match s.fd v.g.tenant (arg a 0) with
  | none => some (s, .now (errno .badf))
  | some (.file _ _ _) => some (s, .now (errno .notsock))
  | some (.sock _ family kind port owner reset _) =>
    if reset then some (s, .now (errno .connreset))
    else if !(s.ports.get Port.reset port).up then some (s, .now (errno .netdown))
    else if kind = 1 ∧ 8930 < arg a 3 then some (s, .now (errno .msgsize))
    else
      let n := min (arg a 3) 262144
      match s.spanMap (c / 16) v.g.asn (arg64 a 1) n Want.load with
      | none => some (s, .now (errno .fault))
      | some ts =>
        let d : TxDesc :=
          { core := BitVec.ofNat 10 owner, head := peatHeader s.fresh family kind n, parts := runsOf (ts.map (·.1)), ipSum := family == 4, l4Sum := true,
            segment := if kind = 0 then 8930 else 0, sock := some (arg a 0, s.fresh) }
        some (({ s with fresh := s.fresh + 1 } : State).addDue (.frameTransmit (BitVec.ofNat 3 port) d), .on (.frame s.fresh n))

/-- R322: CALL_SEND. -/
def State.serveSend (s : State) (c hn : Nat) : State := s.callWaiting c hn 12 true singles fun v s a => s.beginSend c v a
def execCallSend (cv : BitVec 10) (hv : BitVec 16) (s : State) : Out := .next (s.serveSend cv.toNat hv.toNat)

/-- A byte of a frame, and two in network order. -/
def frameByte (f : List Byte) (i : Nat) : Nat := (f.getD i 0).toNat
def frameWord (f : List Byte) (i : Nat) : Nat := 256 * frameByte f i + frameByte f (i + 1)

/-- R334: where the network header of a frame starts: VLAN tags pass unchanged. One tag of IEEE 802.1Q is looked through; behind two
tags, a tag of another kind or an IPv6 extension header no TCP or UDP header is looked for, so that the frame has no 5-tuple and
hashes to 0. DESIGN CHOICE: log 8. -/
def netAt (f : List Byte) : Nat := if frameWord f 12 = 0x8100 then 18 else 14

/-- R334: the transport header of an IPv4 or IPv6 frame that carries TCP or UDP: where it starts, and whether it is TCP. DESIGN CHOICE:
log 8. -/
def transportAt (f : List Byte) : Option (Nat × Bool) :=
  let n := netAt f
  let (next, at') :=
    if frameWord f (n - 2) = 0x0800 then (frameByte f (n + 9), n + 4 * (frameByte f n % 16))
    else if frameWord f (n - 2) = 0x86DD then (frameByte f (n + 6), n + 40) else (0, 0)
  if next = 6 then some (at', true) else if next = 17 then some (at', false) else none

/-- The payload of a TCP or UDP frame. -/
def payloadOf (f : List Byte) : List Byte :=
  match transportAt f with
  | some (n, true) => f.drop (n + 4 * (frameByte f (n + 12) / 16))
  | some (n, false) => f.drop (n + 8)
  | none => []

/-- R334: the oldest frame in a core's receive queue of a port. -/
def Port.nextFrame (x : Port) (c : Nat) : Option (List Byte × Port) :=
  match x.rx.get [] c with
  | [] => none
  | f :: fs => some (f, { x with rx := x.rx.put c fs })

/-- R322, R334: a receive: what the socket holds, or the payload of the next frame of its owner's queue; with neither, it waits.
DESIGN CHOICE: log 27. -/
def State.beginRecv (s : State) (c : Nat) (v : Served) (a : List Nat) : Option (State × Begun) :=
  match s.fd v.g.tenant (arg a 0) with
  | none => some (s, .now (errno .badf))
  | some (.file _ _ _) => some (s, .now (errno .notsock))
  | some (.sock t family kind port owner reset rx) =>
    let x := s.ports.get Port.reset port
    let more := if rx.isEmpty then (x.nextFrame owner).map fun r => (payloadOf r.1, r.2) else some (rx, x)
    if reset then some (s, .now (errno .connreset))
    else
      match more with
      | none => none
      | some (bytes, x) =>
        let n := min (arg a 3) bytes.length
        match s.spanWrite c v.g.asn (arg64 a 1) (bytes.take n) with
        | .lost => some (s, .now (errno .fault))
        | .waits _ => none
        | .got _ s =>
          let left := if kind = 0 then bytes.drop n else []
          let p := { s.peat with fds := s.peat.fds.put (arg a 0) (.sock t family kind port owner false left) }
          some ({ s with peat := p, ports := s.ports.put port x }, .now (BitVec.ofNat 64 n))

/-- R322: CALL_RECV. -/
def State.serveRecv (s : State) (c hn : Nat) : State := s.callWaiting c hn 13 true singles fun v s a => s.beginRecv c v a
def execCallRecv (cv : BitVec 10) (hv : BitVec 16) (s : State) : Out := .next (s.serveRecv cv.toNat hv.toNat)

/-! ### Grids (R50, R292, R322, R326) -/

/-- How a launch that Peat makes goes. -/
inductive PeatLaunch where
  | accept (id : Nat) (s : State)
  | reject (status : Nat) (s : State)
  | waits

/-- R289 to R292: the checks and the acceptance of a record that Peat launches. -/
def State.peatLaunch (s : State) (c : Nat) (r : List Byte) (l : Launcher) : PeatLaunch :=
  if !recordOk r then .reject 1 s else
  match s.spanRead (c / 16) l.asn (recField r 8 8) 64 with
  | .waits _ => .waits
  | .lost => .reject 2 s
  | .got k s =>
    if !kdescOk k then .reject 2 s
    else if !s.holdable l.dies (kdescOf k) then .reject 3 s
    else
      let (s, id) := s.acceptGrid (c / 16) r (kdescOf k) l
      .accept id s

/-- R50, R322: a launch and wait begins: the grid is a child of the calling group. DEDUCED: log 44. -/
def State.beginLaunchw (s : State) (c : Nat) (v : Served) (a : List Nat) : Option (State × Begun) :=
  if 10 ≤ v.g.depth.toNat then some (s, .now (errno .perm)) else
  if !(s.dist (c / 16)).up then none else
  match s.spanRead (c / 16) v.g.asn (arg64 a 0) 192 with
  | .lost => some (s, .now (errno .fault))
  | .waits _ => none
  | .got r s =>
    let l : Launcher :=
      { tenant := v.g.tenant, asn := v.g.asn, depth := v.g.depth.toNat + 1, dies := [c / 16], queue := none,
        parent := some (v.g.grid.toNat, v.g.gang.toNat, v.h.gid), batch := none, record := 0 }
    match s.peatLaunch c r l with
    | .waits => none
    | .reject status s => some (s.rejectRecord c 0 0 status l v.h.gid (recField r 0x20 8), .now (BitVec.ofNat 64 (status * 2 ^ 32)))
    | .accept id s =>
      let s := (s.modGrid v.g.grid.toNat fun p => { p with children := p.children + 1 }).modGang v.g.grid.toNat v.g.gang.toNat fun x =>
        { x with childGrids := x.childGrids ++ [id] }
      some (s, .on (.grid id))

/-- R322: CALL_LAUNCHW. -/
def State.serveLaunchw (s : State) (c hn : Nat) : State := s.callWaiting c hn 14 false singles fun v s a => s.beginLaunchw c v a
def execCallLaunchw (cv : BitVec 10) (hv : BitVec 16) (s : State) : Out := .next (s.serveLaunchw cv.toNat hv.toNat)

/-- R322: a wait for a grid begins. DEDUCED: log 44. -/
def State.beginGridw (s : State) (v : Served) (a : List Nat) : Option (State × Begun) :=
  match s.grid? (arg a 0) with
  | some g => some (s, if g.tenant = v.g.tenant then .on (.grid (arg a 0)) else .now (errno .inval))
  | none => some (s, .now ((s.peat.completions.find (arg a 0)).getD (errno .inval)))

/-- R322: CALL_GRIDW. -/
def State.serveGridw (s : State) (c hn : Nat) : State := s.callWaiting c hn 15 false patterns fun v s a => s.beginGridw v a
def execCallGridw (cv : BitVec 10) (hv : BitVec 16) (s : State) : Out := .next (s.serveGridw cv.toNat hv.toNat)

/-! ### Unassigned calls and TRAPI codes (R322, R324) -/

/-- A call answered at once with one value for all its callers. -/
def State.answerAll (s : State) (c hn : Nat) (v : Served) (r : Dword) : State := s.finishCall c hn v (v.callers.map fun l => (l, r))

/-- R322, R324: CALL_UNASSIGNED: a call number or a TRAPI code that names nothing. -/
def execCallUnassigned (cv : BitVec 10) (hv : BitVec 16) (s : State) : Out :=
  let c := cv.toNat
  .next (match s.served c hv.toNat with
    | none => s
    | some v =>
      let assigned := if v.w.kind = 2 then v.w.call == 1 || v.w.call == 2 else decide (1 ≤ v.w.call) && decide (v.w.call ≤ 15)
      if assigned then s else s.answerAll c hv.toNat v (errno .nosys))

/-- R326: the fault that a handler grid was given is still parked. -/
def State.handlerWaits (s : State) (h : Nat × Nat × Nat × Nat) : Bool :=
  ((s.die h.2.1).quag.find h.2.2.1).any fun q => q.st == .parked && q.clock == h.2.2.2

/-- R96, R324, R386: FAULT_ANSWER: a handler group answers the entry it was given; once that fault is no longer parked the answer has
no effect, and the result is 0 as well. -/
def execFaultAnswer (cv : BitVec 10) (hv : BitVec 16) (s : State) : Out :=
  let c := cv.toNat
  match s.served c hv.toNat with
  | none => .next s
  | some v =>
    if v.w.kind ≠ 2 ∨ v.w.call ≠ 1 then .next s else
    let x := s.trapValue c hv.toNat v
    let entry := x % 1024
    match s.peat.handlerGrids.find? fun h => h.1 == v.g.grid.toNat && h.2.2.1 == entry with
    | none => .next (s.answerAll c hv.toNat v (errno .perm))
    | some h =>
      if !s.handlerWaits h then .next (s.answerAll c hv.toNat v 0) else
      match s.writeSqans (BitVec.ofNat 10 (16 * h.2.1)) (BitVec.ofNat 64 (x % 4096)) with
      | .next s => .next (s.answerAll c hv.toNat v 0)
      | o => o

/-- R324, R327: YIELD_SLICE: the caller's tenant is charged the rest of its budget period on this core. -/
def execYieldSlice (cv : BitVec 10) (hv : BitVec 16) (s : State) : Out :=
  let c := cv.toNat
  .next (match s.served c hv.toNat with
    | none => s
    | some v =>
      if v.w.kind ≠ 2 ∨ v.w.call ≠ 2 then s else
      let s := s.charge c
      let s := match (s.cluster c).slotOf v.g.tenant with
        | some k => s.modCluster c fun x => { x with rings := x.rings.put k { x.rings.get RingSlot.reset k with budget := 0 } }
        | none => s
      (s.answerAll c hv.toNat v 0).addDue (.budgetExhausted cv))

/-- R326: FAULT_HANDLER_LAUNCH: the registered handler as a grid of one gang at depth 0; the kind 3 record retires. -/
def execFaultHandlerLaunch (cv : BitVec 10) (hv : BitVec 16) (s : State) : Out :=
  let c := cv.toNat
  let d := c / 16
  match (s.cluster c).handles.find hv.toNat, (s.cluster c).recOf hv.toNat with
  | some h, some (_, true) =>
    match (s.die d).quag.find h.entry with
    | none => .next s
    | some q =>
      if h.kind ≠ 3 ∨ q.st ≠ .parked ∨ !(s.dist d).up ∨ (q.kind ≠ 0 ∧ q.kind ≠ 1 ∧ q.kind ≠ 3) then .next s else
      match s.peat.handlers.find q.asn.toNat with
      | none => .next s
      | some (kinds, desc) =>
        if bits kinds q.kind q.kind = 0 then .next s else
        let rec' := faultRecord q.va q.gid q.asn.toNat q.kind q.access h.entry q.level q.clock
        let r := leBytes 2 1 ++ leBytes 2 0 ++ leBytes 4 0 ++ leBytes 8 desc ++ leBytes 4 1 ++ leBytes 4 1 ++ leBytes 4 1 ++ leBytes 4 0 ++ leBytes 8 0
          ++ leBytes 8 0 ++ rec' ++ leBytes 8 h.entry ++ List.replicate 104 0
        let l : Launcher :=
          { tenant := q.tenant, asn := q.asn, depth := 0, dies := [d], queue := none, parent := none, batch := none, record := 0 }
        match s.peatLaunch c r l with
        | .accept id s =>
          let s := { s with peat := { s.peat with handlerGrids := s.peat.handlerGrids ++ [(id, d, h.entry, q.clock)] } }
          .next (s.modCluster c fun x => x.retireHandle hv.toNat (s.clock d))
        | _ => .next s
  | _, _ => .next s

/-! ### Resumptions that waited for an entry (R39) -/

/-- The calls whose lanes wait go on. -/
def State.serveAgain (s : State) (c hn : Nat) : State :=
  match (s.served c hn).map fun v => v.w.call with
  | some 7 => s.serveRead c hn
  | some 8 => s.serveWrite c hn
  | some 9 => s.serveFsync c hn
  | some 12 => s.serveSend c hn
  | some 13 => s.serveRecv c hn
  | some 14 => s.serveLaunchw c hn
  | some 15 => s.serveGridw c hn
  | _ => s

/-- R39, R319: PARTIAL_RESUMPTION_ALLOCATED: the oldest held resumption of a handle takes effect, and a call that Peat serves
goes on. -/
def execPartialResumptionAllocated (cv : BitVec 10) (hv : BitVec 16) (s : State) : Out :=
  let c := cv.toNat
  let n := hv.toNat
  let ev := Instr.partialResumptionAllocated cv hv
  if ev ∉ s.due then .next s else
  match s.waiter c n with
  | none => .next (s.dropDue ev)
  | some (h, _, _, w) =>
    match h.held with
    | [] =>
      let s := s.dropDue ev
      .next (if w.kind = 1 ∧ (s.served c n).isSome then s.serveAgain c n else s)
    | m :: ms =>
      let t := s.modCluster c fun x => { x with handles := x.handles.put n { h with held := ms } }
      .next ((t.resume c n m).getD s)

/-- R322, R332: the calls of a core's handles go on: a queue has room, or a frame has come. -/
def State.promptCore (s : State) (c : Nat) : State :=
  ((s.cluster c).handles.filter fun e => e.2.kind == 1 || e.2.kind == 5).foldl (fun s e =>
    s.addDue (.partialResumptionAllocated (BitVec.ofNat 10 c) (BitVec.ofNat 16 e.1))) s

end Sys2Proof.Machine
end

