-- ==== Sys2Proof/Machine/Devices.lean ====
section
/-!
DEFINITION. Storage, network and host links: the NVMe controllers, the Ethernet ports, the Lode links and the permits of
links (13 R332 to R334, 14 R352 to R356, 18 R391, R392, 20 R417 to R423).
-/

namespace Sys2Proof.Machine

/-! ### NVMe controllers (R332, R333, R417 to R419) -/

/-- A controller. -/
def State.ctl (s : State) (k : Nat) : Nvme := s.nvme.get Nvme.reset k
def State.modCtl (s : State) (k : Nat) (f : Nvme → Nvme) : State := { s with nvme := s.nvme.put k (f (s.ctl k)) }

/-- R417: a record of class 0x24, in the log of a die (DEDUCED, log 19): the first block and the namespace concerned. -/
def State.nvmeRecord (s : State) (d k cause lba nsid : Nat) : State :=
  s.record d (mkRec 1 0x24 cause (if lba = 0 then 0 else 8) 0 0 (unitOf 10 k) 0 lba nsid)

/-- R332: a block of a namespace as reads return it; one never written reads as the controller leaves it (PRESUMED, log 10). -/
def blockKey (nsid lba : Nat) : Nat := nsid * 2 ^ 40 + lba
def Nvme.durableBlock (x : Nvme) (key : Nat) : List Byte := (x.media.find key).getD ((List.range 4096).map fun i => Config.nvmeData key i)
def Nvme.block (x : Nvme) (key : Nat) : List Byte := (x.cache.find key).getD (x.durableBlock key)

/-- R332: what Get Features answers at reset: the volatile write cache is enabled (06h), and there is a queue pair for each of the
1,024 service cores (07h). PRESUMED: log 10. -/
def featureReset (fid : Nat) : Nat := if fid = 6 then 1 else if fid = 7 then 1023 * 65536 + 1023 else 0
def Nvme.feature (x : Nvme) (fid : Nat) : Nat := (x.features.find fid).getD (featureReset fid)

/-- R332, R333: a write is durable when it completes: it has FUA, or the volatile write cache is disabled. -/
def Nvme.through (x : Nvme) (fua : Bool) : Bool := fua || x.feature 6 % 2 == 0

/-- R333: blocks written: into the volatile write cache, or to the medium. -/
def Nvme.putBlock (x : Nvme) (fua : Bool) (key : Nat) (b : List Byte) : Nvme :=
  if x.through fua then { x with media := x.media.put key b, cache := x.cache.erase key } else { x with cache := x.cache.put key b }

/-- R418: bytes that hold either of two values, by a key; where a file ended before them the old value is 0, as of bytes that no
write covers (DESIGN CHOICE, log 9). -/
def mixBytes (k : Nat) (old new : List Byte) : List Byte :=
  new.zipIdx.map fun e => if Config.takeNew k e.2 then e.1 else old.getD e.2 0

/-- Bytes written into a file at an offset; what lies between its end and the offset is zero. -/
def writeAt (data : List Byte) (off : Nat) (bs : List Byte) : List Byte :=
  (data ++ List.replicate (off - data.length) 0).take off ++ bs ++ data.drop (off + bs.length)

/-- R333: a write into a file; one that writes through the cache is durable at once. -/
def FileEnt.put (f : FileEnt) (through : Bool) (off : Nat) (bs : List Byte) : FileEnt :=
  { f with
    data := writeAt f.data off bs
    durable := if through then writeAt f.durable off bs else f.durable
    cut := if through then f.cut.map fun d => writeAt d off bs else f.cut }

/-- The file of a job changes. -/
def State.modFile (s : State) (id : Nat) (f : FileEnt → FileEnt) : State :=
  match s.peat.files.find id with
  | some x => { s with peat := { s.peat with files := s.peat.files.put id (f x) } }
  | none => s

/-- R332: the namespace of a command is attached and holds its blocks; a command moves 1 MiB at most. A file's blocks are there
(log 26). -/
def Nvme.inSpace (x : Nvme) (q : NvmeCmd) : Bool :=
  match x.spaces.find q.nsid with
  | some (n, on) => on && (q.job.isSome || decide (q.lba + q.n ≤ n) && decide (q.n ≤ 256))
  | none => false

/-- R332: where the bytes of a command's buffer lie: in the pages that its PRP entries name. -/
def NvmeCmd.places (q : NvmeCmd) : List Nat :=
  match q.job with
  | some j => (List.range j.len).map fun i => q.prps.getD ((j.va % 4096 + i) / 4096) 0 + (j.va + i) % 4096
  | none => (List.range q.n).flatMap fun i => (List.range 4096).map fun b => q.prps.getD i 0 + b

/-- R331: the boot ROM as the NVMe host of controller 0, which is no service core. -/
def romHost : Nat := 1024

/-- The command of an event, while it can be executed: submitted, not yet executed, its controller ready. -/
def State.cmdOf (s : State) (k cid : Nat) (op : NvmeOp) : Option NvmeCmd :=
  if !(s.ctl k).ready || (s.ctl k).out then none
  else (s.ctl k).cmds.find? fun q => q.cid == cid && q.op == op && q.status.isNone

/-- R332: a command has been executed: its completion is on its way. -/
def State.executed (s : State) (kv : BitVec 3) (cid : Nat) (st : NvmeStatus) : State :=
  (s.modCtl kv.toNat fun x => { x with cmds := x.cmds.map fun q => if q.cid = cid then { q with status := some st } else q }).addDue
    (.nvmeCompletion kv cid .ok)

/-- R332: the execution of a command that is due: `f` says what it does, and how it ends; none while a line it needs is in use.
One outside its namespace fails. -/
def State.runCmd (s : State) (kv : BitVec 3) (cid : Nat) (op : NvmeOp) (f : State → NvmeCmd → Option (State × NvmeStatus)) : Out :=
  let ev := ioEvent kv cid op
  if ev ∉ s.due then .next s else
  match s.cmdOf kv.toNat cid op with
  | none => .next (if (s.ctl kv.toNat).cmds.any fun q => q.cid == cid && q.status.isNone then s else s.dropDue ev)
  | some q =>
    match if (s.ctl kv.toNat).inSpace q then f s q else some (s, .other) with
    | none => .next s
    | some (t, st) => .next ((t.dropDue ev).executed kv cid st)

/-- The die of a command's host: of its service core, or die 0 for the boot ROM. -/
def NvmeCmd.die (q : NvmeCmd) : Nat := if q.core = romHost then 0 else q.core / 16

/-- R332: the bytes that a command moves: of its file, or of its blocks. -/
def State.stored (s : State) (ctl : Nat) (q : NvmeCmd) : List Byte :=
  match q.job with
  | some j => ((((s.peat.files.find j.file).map fun f => f.data).getD []).drop j.off).take j.len
  | none => (List.range q.n).flatMap fun i => (s.ctl ctl).block (blockKey q.nsid (q.lba + i))

/-- R24, R374: the bytes lie in HBM4 of a die that is fenced: a transfer of them is answered with an error. -/
def State.offModule (s : State) (pas : List Nat) : Bool := pas.any fun p => backed p && (s.die (paDie p)).fence.getLsbD 4

/-- Bytes that a complex writes at the home L2; a hole or a register frame takes none (R74, R75), nor does a die that is fenced
(R374). -/
def State.dmaWrite (s : State) (ws : List (Nat × Byte)) : State := s.homeWrite 0 (ws.filter fun w => backed w.1 && !s.offModule [w.1])

/-- R74, R111, R332, R374: NVME_READ: the bytes written to the command's buffer at the home L2; it fails where one cannot be. -/
def execNvmeRead (ctl : BitVec 3) (cid : Nat) (s : State) : Out :=
  s.runCmd ctl cid .read fun s q =>
    let ws := q.places.zip (s.stored ctl.toNat q)
    let pas := (ws.map (·.1)).filter backed
    if s.anyBusy 0 pas then none else some (s.dmaWrite ws, if s.offModule pas then .other else .ok)

/-- R74, R388, R417: the bytes at some addresses as a complex fetches them, and whether any is poisoned. -/
def State.fetchBytes (s : State) (pas : List Nat) : State × List Byte × Bool :=
  let s := ((pas.map fun p => p / 128).eraseDups).foldl (fun s l => s.homeSync l false []) s
  (s, pas.map fun p => if backed p then s.readByte p else 0, pas.any fun p => backed p && s.poisoned p)

/-- R332, R333: the bytes of a command take their place in its file or its blocks; `keep` says what each byte becomes. -/
def State.store (s : State) (ctl : Nat) (q : NvmeCmd) (fua : Bool) (bytes : List Byte) (keep : Nat → List Byte → List Byte → List Byte) : State :=
  let s' := match q.job with
    | some j => s.modFile j.file fun f => f.put ((s.ctl ctl).through fua) j.off (keep s.fresh ((f.data.drop j.off).take bytes.length) bytes)
    | none => s.modCtl ctl fun x =>
        (List.range q.n).foldl (fun x i =>
          let key := blockKey q.nsid (q.lba + i)
          x.putBlock fua key (keep (s.fresh + i) (x.block key) ((bytes.drop (4096 * i)).take 4096))) x
  { s' with fresh := s.fresh + q.n + 1 }

/-- R332, R333, R374, R417: NVME_WRITE: the buffer is fetched at the home L2; a poisoned one fails the command, and so does one that
cannot be fetched. -/
def execNvmeWrite (ctl : BitVec 3) (cid : Nat) (s : State) : Out :=
  s.runCmd ctl cid .write fun s q =>
    if s.offModule q.places then some (s, .other)
    else if q.places.any fun p => s.lineBusy (p / 128) then none
    else
      let (s, bytes, bad) := s.fetchBytes q.places
      let s := if bad then s.nvmeRecord q.die ctl.toNat 4 q.lba q.nsid else s
      some (s.store ctl.toNat q q.fua bytes (fun k old new => if bad then mixBytes k old new else new), if bad then .other else .ok)

/-- R418: the writes that the files of a controller have reported. -/
def State.reportedOn (s : State) (k : Nat) : List (Nat × Nat) := (s.peat.files.filter fun e => e.2.ctl == k).map fun e => (e.1, e.2.reported)

/-- R333, R418: NVME_FLUSH: what the cache holds becomes durable; once it completes it covers the writes reported by now. -/
def execNvmeFlush (ctl : BitVec 3) (cid : Nat) (s : State) : Out :=
  s.runCmd ctl cid .flush fun s q =>
    let s := s.modCtl ctl.toNat fun x =>
      { x with media := (x.cache.filter fun e => e.1 / 2 ^ 40 == q.nsid).foldl (fun m e => m.put e.1 e.2) x.media
               cache := x.cache.filter fun e => e.1 / 2 ^ 40 != q.nsid
               cmds := x.cmds.map fun p => if p.cid = cid then { p with covers := s.reportedOn ctl.toNat } else p }
    let files := s.peat.files.map fun (e : Nat × FileEnt) =>
      if e.2.ctl = ctl.toNat then (e.1, { e.2 with durable := e.2.data, cut := none }) else e
    some ({ s with peat := { s.peat with files := files } }, .ok)

/-- R332: NVME_WRITE_ZEROES. -/
def execNvmeWriteZeroes (ctl : BitVec 3) (cid : Nat) (s : State) : Out :=
  s.runCmd ctl cid .writeZeroes fun s q =>
    match q.job with
    | some j => some (s.modFile j.file fun f => f.put ((s.ctl ctl.toNat).through q.fua) j.off (List.replicate j.len 0), .ok)
    | none =>
      some (s.modCtl ctl.toNat fun x => (List.range q.n).foldl (fun x i => x.putBlock q.fua (blockKey q.nsid (q.lba + i)) (List.replicate 4096 0)) x, .ok)

/-- R332: NVME_DATASET_MANAGEMENT: the blocks are deallocated; of a file, the truncation that asked for it is durable. -/
def execNvmeDatasetManagement (ctl : BitVec 3) (cid : Nat) (s : State) : Out :=
  s.runCmd ctl cid .deallocate fun s q =>
    match q.job with
    | some j => some (s.modFile j.file fun f => { f with durable := f.cut.getD f.durable, cut := none }, .ok)
    | none =>
      some (s.modCtl ctl.toNat fun x => (List.range q.n).foldl (fun x i =>
        let key := blockKey q.nsid (q.lba + i)
        { x with media := x.media.erase key, cache := x.cache.erase key }) x, .ok)

/-- R418: a completed Flush covers the writes that it names. -/
def State.coverWrites (s : State) (covers : List (Nat × Nat)) : State :=
  covers.foldl (fun s e => s.modFile e.1 fun f => { f with flushed := max f.flushed e.2 }) s

/-- R314, R332, R417, R418: NVME_COMPLETION: the completion is posted to its core; a status of type 2 is recorded. -/
def execNvmeCompletion (ctl : BitVec 3) (cid : Nat) (status : NvmeStatus) (s : State) : Out :=
  let ev := Instr.nvmeCompletion ctl cid .ok
  if ev ∉ s.due then .next s else
  match (s.ctl ctl.toNat).cmds.find? fun q => q.cid == cid && q.status.isSome with
  | none => .next (s.dropDue ev)
  | some q =>
    let st := if q.status = some .ok then status else .other
    let s := if st = .media then s.nvmeRecord q.die ctl.toNat 1 q.lba q.nsid else s
    let s := if st = .ok then s.coverWrites q.covers else s
    let s := (s.dropDue ev).modCtl ctl.toNat fun x =>
      { x with cmds := x.cmds.filter fun p => p.cid != cid, completions := x.completions ++ [(q.core, cid, st)] }
    .next (s.promptCore q.core)

/-- The cores whose calls can go on. -/
def State.promptAll (s : State) : State := s.clusters.foldl (fun s e => s.promptCore e.1) s

/-- R418: a file after the loss of what was not durable: each byte is its new or its old data. An open file with data that write calls
reported and no completed Flush covered has a write-error mark. -/
def FileEnt.lose (f : FileEnt) (k : Nat) (isOpen : Bool) : FileEnt :=
  let data := mixBytes k f.durable f.data
  { f with data := data, durable := data, cut := none, flushed := f.reported, writeErr := f.writeErr || (isOpen && decide (f.flushed < f.reported)) }

/-- R418: what a reset or a loss of power leaves of the data that was not durable on a controller. -/
def State.loseCache (s : State) (k : Nat) : State :=
  let n := s.fresh
  let x := s.ctl k
  let media := x.cache.foldl (fun m e => m.put e.1 (mixBytes (n + e.1) (x.durableBlock e.1) e.2)) x.media
  let opened := fun (id : Nat) => s.peat.fds.any fun e => match e.2 with | .file _ i _ => i == id | _ => false
  let files := s.peat.files.map fun (e : Nat × FileEnt) => if e.2.ctl = k then (e.1, e.2.lose (n + e.1) (opened e.1)) else e
  { s.modCtl k fun x => { x with media := media, cache := [] } with peat := { s.peat with files := files }, fresh := n + 2 ^ 48 }

/-- R418: a Write that is ended: each byte of its blocks holds its old data or the data written. -/
def State.endCmd (s : State) (k : Nat) (q : NvmeCmd) : State :=
  if q.op ≠ .write ∨ q.status.isSome then s else
  let old := s.stored k q
  let new := q.places.zipIdx.map fun e => if s.offModule [e.1] then old.getD e.2 0 else if backed e.1 then s.readByte e.1 else 0
  s.store k q true new mixBytes

/-- R418, R419: a reset of a controller: Peat takes what has completed, the outstanding commands end, what was not durable may be
lost. -/
def State.resetCtl (s : State) (kv : BitVec 3) : State :=
  let k := kv.toNat
  let s := ((s.ctl k).completions.map (·.1)).eraseDups.foldl State.takeCompletions s
  let cmds := (s.ctl k).cmds
  let s := s.loseCache k
  let s := cmds.foldl (fun s q => (s.endCmd k q).dropDue (ioEvent kv q.cid q.op)) s
  let s := cmds.foldl (fun s q => s.dropDue (.nvmeCompletion kv q.cid .ok)) s
  let s := s.modCtl k fun x =>
    { x with cmds := [], completions := x.completions ++ cmds.map fun q => (q.core, q.cid, .other)
             enabled := false, ready := false, cfs := false, cqs := [], queues := [], features := [], async := 0, admin := [], resetClock := s.clock 0 }
  ((cmds.map (·.core)).eraseDups.foldl State.promptCore s).addDue (.nvmeReadyTimeout kv)

/-- R22, R418: NVME_CONTROLLER_RESET: Peat resets a controller, from boot stage 4 on. -/
def execNvmeControllerReset (ctl : BitVec 3) (s : State) : Out :=
  .next (if (s.ctl ctl.toNat).out || decide (s.boot < 4) then s else (s.dropDue (.nvmeControllerReset ctl)).resetCtl ctl)

/-- R22, R417: NVME_COMMAND_TIMEOUT: a command without completion after 2^34 cycles, or a fatal status of a controller in use: Peat
resets the controller. Before boot stage 4 only controller 0 is in use, by the boot ROM. -/
def execNvmeCommandTimeout (ctl : BitVec 3) (fatal : Bool) (s : State) : Out :=
  let k := ctl.toNat
  let ev := Instr.nvmeCommandTimeout ctl false
  let x := s.ctl k
  let report := fun (s : State) (q : Option NvmeCmd) =>
    (s.nvmeRecord ((q.map (·.die)).getD 0) k 2 ((q.map (·.lba)).getD 0) ((q.map (·.nsid)).getD 0)).addDue (.nvmeControllerReset ctl)
  let used := decide (4 ≤ s.boot) || (k == 0 && x.enabled)
  if fatal then .next (if x.out || x.cfs || !used then s else report (s.modCtl k fun x => { x with cfs := true }) x.cmds.head?)
  else if ev ∉ s.due then .next s
  else if x.cmds.isEmpty then .next (s.dropDue ev)
  else
    match x.cmds.find? fun q => decide (q.clock + 2 ^ 34 ≤ s.clock q.die) with
    | some q => .next (report (s.dropDue ev) (some q))
    | none => .next s

/-- R419: NVME_READY_TIMEOUT: not ready 2^34 cycles after its reset: the controller is out of service. -/
def execNvmeReadyTimeout (ctl : BitVec 3) (s : State) : Out :=
  let k := ctl.toNat
  let ev := Instr.nvmeReadyTimeout ctl
  if ev ∉ s.due then .next s
  else if (s.ctl k).ready then .next (s.dropDue ev)
  else if s.clock 0 < (s.ctl k).resetClock + 2 ^ 34 then .next s
  else .next (((s.dropDue ev).nvmeRecord 0 k 3 0 0).modCtl k fun x => { x with out := true }).promptAll

/-- Bytes of a structure, little-endian, put at an offset. -/
def putAt (off : Nat) (v : List Byte) (bs : List Byte) : List Byte := v.zipIdx.foldl (fun bs e => bs.set (off + e.2) e.1) bs

/-- R332: the bytes of an Identify by CNS: the fields that the spec fixes, in the NVMe specification's places; the others are the
controller's (PRESUMED, log 10). -/
def Nvme.identify (x : Nvme) (k : Nat) (cns : Byte) (ns : Nat) : List Byte :=
  let junk := (List.range 4096).map fun i => Config.nvmeData (k + 256 * cns.toNat) i
  let list := fun (p : Nat × Bool → Bool) =>
    (((x.spaces.filter fun (e : Nat × Nat × Bool) => decide (ns < e.1) && p e.2).map fun (e : Nat × Nat × Bool) => leBytes 4 e.1).flatten ++ List.replicate 4096 0).take 4096
  let space := fun (p : Nat × Bool → Bool) =>
    match x.spaces.find ns with
    | some e => if p e then
        putAt 128 (leBytes 4 (12 * 65536)) (putAt 25 [0, 0] (putAt 0 (leBytes 8 e.1 ++ leBytes 8 e.1) junk))
      else List.replicate 4096 0
    | none => List.replicate 4096 0
  match cns.toNat with
  | 0x00 => space fun e => e.2
  | 0x01 =>
    putAt 536 (leBytes 4 0) (putAt 525 [1] (putAt 520 (leBytes 2 0x0C) (putAt 516 (leBytes 4 64)
      (putAt 280 (leBytes 16 (4096 * ctlBlocks) ++ leBytes 16 (4096 * (ctlBlocks - (x.spaces.map fun e => e.2.1).sum)))
        (putAt 256 (leBytes 2 0x0A) (putAt 77 [8] junk))))))
  | 0x02 => list fun e => e.2
  | 0x10 => list fun _ => true
  | 0x11 => space fun _ => true
  | _ => junk

/-- Bytes that a controller writes to a buffer. -/
def State.dataIn (s : State) (pa : Nat) (bs : List Byte) : State := s.dmaWrite (bs.zipIdx.map fun e => (pa + e.2, e.1))

/-- R332: an admin command completes: dword 0 and status. -/
def Nvme.answer (x : Nvme) (dw : Nat) (st : NvmeStatus) : Nvme := { x with admin := x.admin ++ [(BitVec.ofNat 32 dw, st)] }

/-- R332, R374: an admin command that moves data in completes; it fails where the buffer's die is fenced. -/
def State.answerIn (s : State) (k pa : Nat) (bs : List Byte) : State :=
  (s.dataIn pa bs).modCtl k fun x => x.answer 0 (if s.offModule ((List.range bs.length).map (pa + ·)) then .other else .ok)

/-- R332: a change of namespaces completes an asynchronous event request, as a notice. PRESUMED: log 10. -/
def Nvme.notice (x : Nvme) : Nvme := if x.async = 0 then x else { x with async := x.async - 1 }.answer 0x00040002 .ok

/-- R332: the data of a namespace goes: its blocks, and the files that lie on it. -/
def State.wipeSpace (s : State) (k ns : Nat) : State :=
  let gone := fun (m : SMap (List Byte)) => m.filter fun (e : Nat × List Byte) => e.1 / 2 ^ 40 != ns
  let s := s.modCtl k fun x => { x with media := gone x.media, cache := gone x.cache }
  let wiped := fun (id : Nat) (f : FileEnt) =>
    let d := f.data.zipIdx.map fun (e : Byte × Nat) => Config.nvmeData (2 ^ 60 + id) e.2
    { f with data := d, durable := d, cut := none, flushed := f.reported }
  if ns ≠ 1 then s else
  { s with peat := { s.peat with files := s.peat.files.map fun (e : Nat × FileEnt) => if e.2.ctl = k then (e.1, wiped e.1 e.2) else e } }

/-- R332: the namespaces that an NSID names: FFFFFFFFh names all of them. PRESUMED: log 10. -/
def Nvme.named (x : Nvme) (ns : Nat) : List Nat :=
  if ns = 2 ^ 32 - 1 then x.spaces.map (·.1) else if x.spaces.has ns then [ns] else []

/-- R331, R332: NVME_ADMIN_COMMAND: service core 0 has the admin queues from boot stage 4 on; the first command after a reset
finds the controller ready (DEDUCED, log 20). -/
def execNvmeAdminCommand (ctl : BitVec 3) (cmd : NvmeAdmin) (s : State) : Out :=
  let k := ctl.toNat
  if (s.ctl k).out || (s.ctl k).cfs || decide (s.boot < 4) then .next s else
  let s := s.modCtl k fun x => { x with enabled := true, ready := true }
  let x := s.ctl k
  let mod := fun (f : Nvme → Nvme) => Host.Outcome.next (s.modCtl k f)
  let ok := fun (x : Nvme) => x.answer 0 .ok
  let bad := mod fun x => x.answer 0 .other
  let attach := fun (ns : Word) (on : Bool) =>
    if x.spaces.has ns.toNat then
      mod fun x => ({ x with spaces := x.spaces.map fun e => if e.1 = ns.toNat then (e.1, (e.2.1, on)) else e } |> ok).notice
    else bad
  match cmd with
  | .identify cns ns buf => .next (s.answerIn k (buf.toNat % 2 ^ 43) (x.identify k cns ns.toNat))
  | .createCq c => mod fun x => ok { x with cqs := (x.cqs.filter (· != c.toNat)) ++ [c.toNat] }
  | .createSq c =>
    if c.toNat ∈ x.cqs then
      .next ((s.modCtl k fun x => ok { x with queues := (x.queues.filter (· != c.toNat)) ++ [c.toNat] }).promptCore c.toNat)
    else bad
  | .deleteSq c =>
    let gone := x.cmds.filter fun q => q.core == c.toNat && q.status.isNone
    .next (gone.foldl (fun s q => s.executed ctl q.cid .other) (s.modCtl k fun x => ok { x with queues := x.queues.filter (· != c.toNat) }))
  | .deleteCq c => if c.toNat ∈ x.queues then bad else mod fun x => ok { x with cqs := x.cqs.filter (· != c.toNat) }
  | .getFeatures fid => mod fun x => x.answer (x.feature fid.toNat) .ok
  | .setFeatures fid v =>
    if fid = 7 then mod fun x => x.answer (featureReset 7) .ok
    else mod fun x => ok { x with features := x.features.put fid.toNat v.toNat }
  | .getLogPage lid buf =>
    .next (s.answerIn k (buf.toNat % 2 ^ 43) ((List.range 512).map fun i => Config.nvmeData (k + 8 + 8 * lid.toNat) i))
  | .abort cid =>
    if x.cmds.any fun q => q.cid == cid && q.status.isNone then .next ((s.executed ctl cid .other).modCtl k ok)
    else mod fun x => x.answer 1 .ok
  | .nsCreate n =>
    match (List.range 64).find? fun i => !x.spaces.has (i + 1) with
    | some i =>
      if (x.spaces.map fun e => e.2.1).sum + n ≤ ctlBlocks then mod fun x => { x with spaces := x.spaces.put (i + 1) (n, false) }.answer (i + 1) .ok
      else bad
    | none => bad
  | .nsDelete ns =>
    let gone := x.named ns.toNat
    if gone.isEmpty then bad
    else
      .next ((gone.foldl (fun s n => s.wipeSpace k n) s).modCtl k fun x =>
        ({ x with spaces := x.spaces.filter fun e => !decide (e.1 ∈ gone) } |> ok).notice)
  | .nsAttach ns => attach ns true
  | .nsDetach ns => attach ns false
  | .formatNvm ns =>
    if (x.named ns.toNat).isEmpty then bad else .next (((x.named ns.toNat).foldl (fun s n => s.wipeSpace k n) s).modCtl k ok)
  | .asyncEvent => mod fun x => { x with async := x.async + 1 }

/-! ### Ethernet (R334, R420) -/

def State.port (s : State) (p : Nat) : Port := s.ports.get Port.reset p
def State.modPort (s : State) (p : Nat) (f : Port → Port) : State := { s with ports := s.ports.put p (f (s.port p)) }

/-- R334: the frame check sequence of IEEE 802.3, a CRC-32. -/
def crcStep (r : Word) : Nat → Word
  | 0 => r
  | n + 1 => crcStep (if r.getLsbD 0 then (r >>> 1) ^^^ 0xEDB88320 else r >>> 1) n
def crc32 (bs : List Byte) : Word := ~~~(bs.foldl (fun r b => crcStep (r ^^^ b.zeroExtend 32) 8) 0xFFFFFFFF)

/-- R334: the 5-tuple of a TCP or UDP frame: addresses, ports, protocol; none for other frames. DESIGN CHOICE: log 8. -/
def fiveTuple (f : List Byte) : Option (List Byte) :=
  (transportAt f).map fun t =>
    let n := netAt f
    let addrs := if frameWord f (n - 2) = 0x0800 then (f.drop (n + 12)).take 8 else (f.drop (n + 8)).take 32
    addrs ++ (f.drop t.1).take 4 ++ [if t.2 then 6 else 17]

/-- R334: the entry of the steering table that a frame selects. DESIGN CHOICE: log 8. -/
def steerIndex (f : List Byte) : Nat := match fiveTuple f with | some t => (Config.frameHash t).toNat | none => 0

/-- R420: a record of class 0x25 of a port, in die 0's log (DEDUCED, log 19). -/
def State.portRecord (s : State) (p cause detail : Nat) : State := s.record 0 (mkRec 1 0x25 cause 0 0 0 (unitOf 11 p) 0 0 detail)

/-- R334, R420: FRAME_RECEIVE: a frame with its check sequence; a bad one, or one outside IEEE 802.3's 64 bytes and R334's 9,018,
is counted, a good one is steered. DEDUCED: log 28. -/
def execFrameReceive (port : BitVec 3) (frame : List Byte) (s : State) : Out :=
  let p := port.toNat
  let n := frame.length - 4
  let body := frame.take n
  if !(s.port p).up then .next s
  else if frame.length < 64 ∨ 9018 < frame.length ∨ leNat (frame.drop n) ≠ (crc32 body).toNat then
    .next (s.modPort p fun x => { x with fcsErrors := x.fcsErrors + 1 })
  else
    let i := steerIndex body
    let c := (s.port p).steer.get 0 i
    if (s.cluster c).out || (s.die (c / 16)).fence.getLsbD 4 then
      .next (if i ∈ (s.port p).badSteer then s else (s.modPort p fun x => { x with badSteer := x.badSteer ++ [i] }).portRecord p 3 i)
    else .next ((s.modPort p fun x => { x with rx := x.rx.put c (x.rx.get [] c ++ [body]) }).promptAll)

/-- R334: the ones' complement sum of bytes, as the header checksums take it. -/
def onesSum : List Byte → Nat
  | a :: b :: bs => (256 * a.toNat + b.toNat) + onesSum bs
  | [a] => 256 * a.toNat
  | [] => 0
def foldSum (n : Nat) : Nat := let m := n % 65536 + n / 65536; let m := m % 65536 + m / 65536; 65535 - m

/-- Two bytes of a frame replaced, high byte first. -/
def setWord (f : List Byte) (i v : Nat) : List Byte := (f.set i (BitVec.ofNat 8 (v / 256))).set (i + 1) (BitVec.ofNat 8 v)

/-- R334: the IPv4 header checksum. DEDUCED: log 28. -/
def ipSummed (f : List Byte) : List Byte :=
  let n := netAt f
  if frameWord f (n - 2) ≠ 0x0800 then f else
  let f := setWord f (n + 10) 0
  setWord f (n + 10) (foldSum (onesSum ((f.drop n).take (4 * (frameByte f n % 16)))))

/-- R334: the TCP or UDP checksum over its pseudo header. DEDUCED: log 28. -/
def l4Summed (f : List Byte) : List Byte :=
  match transportAt f, fiveTuple f with
  | some (t, tcp), some tuple =>
    let at' := if tcp then t + 16 else t + 6
    let f := setWord f at' 0
    let addrs := tuple.take (tuple.length - 5)
    let len := f.length - t
    let v := foldSum (onesSum addrs + onesSum (f.drop t) + len + (if tcp then 6 else 17))
    setWord f at' (if v = 0 ∧ tcp = false then 65535 else v)
  | _, _ => f

/-- R334: the frame of segment k of a descriptor: lengths and sequence number, then the checksums asked for, the padding to IEEE
802.3's minimum and the check sequence. -/
def segmentFrame (d : TxDesc) (k : Nat) (chunk : List Byte) : List Byte :=
  let f := d.head ++ chunk
  let n := netAt f
  let f := if d.segment = 0 then f
    else if frameWord f (n - 2) = 0x0800 then setWord f (n + 2) (f.length - n) else setWord f (n + 4) (f.length - n - 40)
  let f := match transportAt f with
    | some (t, true) =>
      let q := (frameWord f (t + 4) * 65536 + frameWord f (t + 6) + k * d.segment) % 2 ^ 32
      if d.segment = 0 then f else setWord (setWord f (t + 4) (q / 65536)) (t + 6) (q % 65536)
    | _ => f
  let f := if d.ipSum then ipSummed f else f
  let f := if d.l4Sum then l4Summed f else f
  let f := f ++ List.replicate (60 - f.length) 0
  f ++ leBytes 4 (crc32 f).toNat

/-- R334: the segments of a payload. -/
def segmentsOf (d : TxDesc) (bs : List Byte) : List (List Byte) :=
  if d.segment = 0 then [bs] else (List.range (max 1 ((bs.length + d.segment - 1) / d.segment))).map fun i => (bs.drop (d.segment * i)).take d.segment

/-- R420: the caller that waits for a descriptor has its result. -/
def State.sent (s : State) (d : TxDesc) (r : Option Dword) : State :=
  match d.sock with
  | none => s
  | some (_, id) =>
    let give := fun (w : PeatWait) =>
      match w.on with
      | .frame k v => if k = id ∧ w.res = none then { w with res := some (r.getD (BitVec.ofNat 64 v)) } else w
      | _ => w
    ({ s with peat := { s.peat with waits := s.peat.waits.map give } } : State).promptAll

/-- R420: a stream socket is reset. -/
def State.resetSock (s : State) (n : Nat) : State :=
  match s.peat.fds.find n with
  | some (.sock t family 0 port owner _ rx) => { s with peat := { s.peat with fds := s.peat.fds.put n (.sock t family 0 port owner true rx) } }
  | _ => s

/-- R334, R374, R388, R420: FRAME_TRANSMIT: the payload, of 262,144 bytes at most, is fetched at the home L2, and its frames are sent;
with a byte that cannot be fetched none is. -/
def execFrameTransmit (port : BitVec 3) (d : TxDesc) (s : State) : Out :=
  let p := port.toNat
  let ev := Instr.frameTransmit port d
  let pas := d.parts.flatMap fun r => (List.range r.2).map fun i => r.1 + i
  if d.sock.isSome ∧ ev ∉ s.due then .next s
  else if !(s.port p).up then .next ((s.dropDue ev).sent d (some (errno .netdown)))
  else if (d.parts.map (·.2)).sum > 262144 then .next ((s.dropDue ev).sent d (some (errno .msgsize)))
  else if s.offModule pas then .next ((s.dropDue ev).sent d (some (errno .io)))
  else if pas.any fun a => s.lineBusy (a / 128) then .next s
  else
    let (s, bytes, bad) := (s.dropDue ev).fetchBytes pas
    if bad then
      let s := (s.portRecord p 2 0).sent d (some (errno .io))
      .next (match d.sock with | some n => s.resetSock n.1 | none => s)
    else
      let frames := (segmentsOf d bytes).zipIdx.map fun e => segmentFrame d e.2 e.1
      let fit := frames.filter fun f => decide (f.length ≤ 9018)
      .next ((s.modPort p fun x => { x with tx := x.tx ++ fit }).sent d none)

/-- R420: PORT_LINK_DOWN. -/
def execPortLinkDown (port : BitVec 3) (s : State) : Out :=
  .next (if (s.port port.toNat).up then (s.modPort port.toNat fun x => { x with up := false }).portRecord port.toNat 1 0 else s)

/-- R420: PORT_LINK_UP. -/
def execPortLinkUp (port : BitVec 3) (s : State) : Out := .next (s.modPort port.toNat fun x => { x with up := true })

/-! ### Lode (R352 to R355, R421, R422) -/

def State.link (s : State) (n : Nat) : Link := s.links.get Link.reset n
def State.modLink (s : State) (n : Nat) (f : Link → Link) : State := { s with links := s.links.put n (f (s.link n)) }

/-- R421: a record of class 0x26 of a link. -/
def State.lodeRecord (s : State) (n cause : Nat) : State := s.record (linkDie n) (mkRec 1 0x26 cause 0 0 0 (unitOf 12 n) 0 0 0)

/-- R421: a response; one with a status other than 0 is recorded. -/
def State.respond (s : State) (n tag status : Nat) (data : List Byte) : State :=
  let s := s.modLink n fun x => { x with responses := x.responses ++ [(tag, status, data)] }
  if status = 0 then s else s.rated (linkDie n) (0x26, 1, n) fun k => mkRec 1 0x26 1 0 0 0 (unitOf 12 n) 0 0 k

/-- R421: how a request is answered that is not performed, with the die that a closed boundary kept it from, or where its bytes
lie. -/
inductive LodeXl where
  | ok (e : CtbEntry) (pa : Nat)
  | reg (pa : Nat)
  | status (n : Nat) (far : Option Nat)

/-- R75, R351, R353, R356: a write that Lode may make at an offset of a register frame of die e: the notify doorbell with ntf, the
signing doorbell and staging under host-assisted signing, and the call-service windows where the host serves faults, calls or
files. DEDUCED: log 29. -/
def State.lodeReg (s : State) (n e off : Nat) : Bool :=
  let mode := (s.die e).fmode
  (off / 4 == 0x2000000 / 4 && (s.die (linkDie n)).lcfg.getLsbD 62)
    || ((off / 4 == 0x2000008 / 4 || (decide (0x4300000 ≤ off) && decide (off < 0x4300000 + 17088))) && mode.getLsbD 3)
    || (off / 4096 == 0x3000000 / 4096 && (mode.getLsbD 0 || mode.getLsbD 4 || mode.getLsbD 5))

/-- R354, R421: the translation and check of a request by the link's die. DEDUCED: log 29. -/
def State.lodeXlate (s : State) (n va : Nat) (want : Want) : LodeXl :=
  let d := linkDie n
  let asn := ((s.die d).lcfg.extractLsb' 0 16).toNat
  let denied := fun (k : Nat) => LodeXl.status (if k = 1 ∨ k = 4 then 2 else 1) none
  if !(s.die d).lcfg.getLsbD 63 then .status 5 none else
  match s.walk d asn va want true with
  | .scrub _ _ => .status 2 none
  | .closed e => .status (if s.samePart d e then 4 else 2) (some e)
  | .fault k _ => denied k
  | .ok e =>
    let pa := e.pa va
    if regFrame (paOff pa) then (if want.w && s.lodeReg n (paDie pa) (paOff pa) then .reg pa else .status 2 none)
    else
      match s.walk d asn va want false with
      | .ok e => .ok e pa
      | .scrub _ _ => .status 2 none
      | .closed e => .status (if s.samePart d e then 4 else 2) (some e)
      | .fault k _ => denied k

/-- R416, R421: a request that is not performed is answered; one that a closed boundary kept from its home is recorded there. -/
def State.refuseLode (s : State) (n tag status : Nat) (far : Option Nat) : State :=
  (match far with | some e => s.notWalked (linkDie n) e | none => s).respond n tag status []

/-- R354: a request lies within one line and has 1 to 128 bytes. DEDUCED: log 29. -/
def lodeShape (va n : Nat) : Bool := decide (1 ≤ n) && decide (va % 128 + n ≤ 128)

/-- R127, R354, R421: LODE_READ_REQUEST. -/
def execLodeReadRequest (link : BitVec 4) (tag : BitVec 13) (va : Dword) (n : Byte) (s : State) : Out :=
  let k := link.toNat
  if !(s.link k).up || !lodeShape va.toNat n.toNat then .next s else
  match s.lodeXlate k va.toNat Want.load with
  | .status st far => .next (s.refuseLode k tag.toNat st far)
  | .reg _ => .next (s.respond k tag.toNat 2 [])
  | .ok _ pa =>
    let s := s.homeSync (pa / 128) false []
    if (List.range n.toNat).any fun i => s.poisoned (pa + i) then .next (s.respond k tag.toNat 3 [])
    else .next (s.respond k tag.toNat 0 (s.readBytes pa n.toNat))

/-- R354: the bytes that a write request's mask names: bit i is byte i of its line. -/
def maskedBytes (line : Nat) (mask : BitVec 128) (data : List Byte) : List (Nat × Byte) :=
  (((List.range 128).filter fun i => mask.getLsbD i).zip data).map fun e => (128 * line + e.1, e.2)

/-- The byte of its line that a write request begins at. -/
def firstByte (mask : BitVec 128) : Nat := ((List.range 128).find? fun i => mask.getLsbD i).getD 0

/-- R75, R91, R127, R354, R355, R421: LODE_WRITE_REQUEST: a register, or bytes at their home; one whose line is in use there does
not come yet (`State.lodeHeld`). -/
def execLodeWriteRequest (link : BitVec 4) (tag : BitVec 13) (va : Dword) (mask : BitVec 128) (data : List Byte) (s : State) : Out :=
  let k := link.toNat
  let a := va.toNat / 128 * 128 + firstByte mask
  if !(s.link k).up || mask = 0 then .next s else
  match s.lodeXlate k a Want.store with
  | .status st far => .next (s.refuseLode k tag.toNat st far)
  | .ok e pa =>
    if s.lineBusy (pa / 128) then .next s
    else .next (((s.markWritten (16 * linkDie k) e a).homeWrite 0 (maskedBytes (pa / 128) mask data)).respond k tag.toNat 0 [])
  | .reg pa =>
    let ws := maskedBytes (pa / 128) mask data
    let whole := ws.zipIdx.all fun w => w.1.1 == pa + w.2
    let s := s.respond k tag.toNat 0 []
    if whole && decide (ws.length ≤ 8) then s.regStore .host pa ws.length (BitVec.ofNat 64 (leNat (ws.map (·.2)))) else .next s

/-- R354, R371, R421: LODE_RESPONSE_RECEIVED: its permit is free again, and the error record that it acknowledges has been taken; a
tag that is not outstanding is discarded with a record. -/
def execLodeResponseReceived (link : BitVec 4) (tag : BitVec 13) (s : State) : Out :=
  let k := link.toNat
  let n := tag.toNat
  if n ∉ (s.link k).outstanding then .next (s.lodeRecord k 3) else
  let t := s.modLink k fun x => { x with outstanding := x.outstanding.erase n, records := x.records.erase n }
  .next (match (s.link k).records.find n with
    | some r => t.pathTaken r.1 r.2 2
    | none => t).flushHost

/-- R354: LODE_FLIT_RETRY: a flit is sent again; nothing is performed. -/
def execLodeFlitRetry (link : BitVec 4) (s : State) : Out := .next (s.modLink link.toNat fun x => { x with retries := x.retries + 1 })

/-- R371, R422: a link goes down: its gen reads 0, and its outstanding transactions are over; the error records among them that it
has not acknowledged are sent again. -/
def State.loseLink (s : State) (n : Nat) : State :=
  let again := (s.link n).records
  let s := s.modLink n fun x => { x with up := false, outstanding := [], records := [] }
  let s := s.modDie (linkDie n) fun x => { x with lcfg := x.lcfg &&& ~~~(0x3000000000000000 : Dword), permits := x.permits.erase (4 + n) }
  again.foldl (fun s e => s.addDue (.errorRecordDelivered (BitVec.ofNat 6 e.2.1) (BitVec.ofNat 12 e.2.2) true)) s

/-- R422: a link goes down with a record. -/
def State.linkDown (s : State) (n cause : Nat) : State := (s.lodeRecord n cause).loseLink n

/-- R422: LODE_LINK_DOWN: after a failed link-level retry, cause 0x02, or a failed drain, cause 0x04. -/
def execLodeLinkDown (link : BitVec 4) (cause : Byte) (s : State) : Out :=
  .next (if (s.link link.toNat).up ∧ (cause = 2 ∨ cause = 4) then s.linkDown link.toNat cause.toNat else s)

/-- R352, R421, R422, R423: LINK_TRAINING: the link runs at the lower of the two offers; the third failure in a row keeps it down. -/
def execLinkTraining (link : BitVec 4) (peerGen : BitVec 2) (ok : Bool) (s : State) : Out :=
  let k := link.toNat
  let d := linkDie k
  let x := s.link k
  let gmax := ((s.die d).lcfg.extractLsb' 58 2).toNat
  if 14 ≤ k ∨ x.outstanding ≠ [] ∨ 3 ≤ x.fails ∨ (s.die d).fence.getLsbD 4 = true then .next s
  else if ok && peerGen != 0 then
    let gen := min (min gmax peerGen.toNat) 2
    let s := s.modLink k fun x => { x with up := true, fails := 0 }
    .next (s.modDie d fun x => { x with lcfg := (x.lcfg &&& ~~~(0x3000000000000000 : Dword)) ||| BitVec.ofNat 64 (gen * 2 ^ 60) }).linkUp
  else
    let s := (s.modLink k fun x => { x with up := false, fails := x.fails + 1 }).modDie d fun x => { x with lcfg := x.lcfg &&& ~~~(0x3000000000000000 : Dword) }
    .next (if x.fails = 2 then s.lodeRecord k 5 else s)

/-! ### Permits (R391, R392) -/

/-- R391: the die that audits a link direction, the key of its permits there, its unit and the total configured. -/
def permitDie : PermitLink → Nat
  | .boundary d _ => d.toNat
  | .lode n => linkDie n.toNat
def permitKey : PermitLink → Nat
  | .boundary _ k => k.toNat
  | .lode n => 4 + n.toNat
def permitUnit : PermitLink → Nat
  | .boundary d k => unitOf 9 (4 * d.toNat + k.toNat)
  | .lode n => unitOf 12 n.toNat
def permitTotal : PermitLink → Nat
  | .boundary _ _ => Config.boundaryPermits
  | .lode _ => 8192

/-- R391: the transactions that a link direction passes and that are outstanding. -/
def State.outstanding (s : State) : PermitLink → Nat
  | .boundary d k => s.crossing d.toNat k.toNat
  | .lode n => (s.link n.toNat).outstanding.length

/-- R392: the cycles between two audits of a link. -/
def Die.auditPeriod (x : Die) : Nat := 4096 * max 1 (x.auditctl.extractLsb' 32 16).toNat

/-- R391, R392, R416: PERMIT_AUDIT: a marker sets out, once in the period, and the parts of a boundary's two dies are compared.
DEDUCED: log 30. -/
def execPermitAudit (l : PermitLink) (s : State) : Out :=
  let d := permitDie l
  let x := s.die d
  if !x.auditctl.getLsbD 63 || decide (s.clock d < (x.audited.get (0, false) (permitKey l)).1 + x.auditPeriod) then .next s
  else
    let s := s.modDie d fun x => { x with audited := x.audited.put (permitKey l) (s.clock d, true) }
    .next (match l with
      | .boundary d k => s.checkBoundary d.toNat k.toNat
      | .lode _ => s)

/-- R391, R392: PERMIT_AUDIT_COMPARE: the marker has arrived; counts whose sum is not the total are a trap, and the drain begins.
DEDUCED: log 30. -/
def execPermitAuditCompare (l : PermitLink) (permits slots : Word) (s : State) : Out :=
  let d := permitDie l
  let x := s.die d
  let mark := x.audited.get (0, false) (permitKey l)
  let busy := ((x.permits.find (permitKey l)).map fun p => p.draining.isSome).getD false
  if !mark.2 || !x.auditctl.getLsbD 63 || busy then .next s else
  let s := s.modDie d fun x => { x with audited := x.audited.put (permitKey l) (mark.1, false) }
  if permits.toNat + slots.toNat == permitTotal l then .next s
  else
    let m := (x.auditctl.extractLsb' 0 16).toNat
    let s := s.modDie d fun x =>
      { x with auditctl := (x.auditctl &&& ~~~(0xFFFF : Dword)) ||| BitVec.ofNat 64 (min (m + 1) 0xFFFF)
               permits := x.permits.put (permitKey l) ⟨(permits.toNat, slots.toNat), some (s.clock d)⟩ }
    .next ((s.addDue (.permitDrainEnd l)).addDue (.permitDrainTimeout l))

/-- R391: the record of a lost-permit trap. DESIGN CHOICE: log 18. -/
def State.permitRecord (s : State) (l : PermitLink) (sev : Nat) (p : Permits) : State :=
  s.record (permitDie l) (mkRec sev 6 (Config.unstatedCause 6).toNat 0 0 0 (permitUnit l) 0 0 (p.counts.1 * 2 ^ 32 + p.counts.2))

/-- R391: PERMIT_DRAIN_END: nothing is outstanding: the permits are as configured, and sending resumes. DEDUCED: log 30. -/
def execPermitDrainEnd (l : PermitLink) (s : State) : Out :=
  let d := permitDie l
  if Instr.permitDrainEnd l ∉ s.due then .next s else
  match (s.die d).permits.find (permitKey l) with
  | none => .next (s.dropDue (.permitDrainEnd l))
  | some p =>
    let late := match p.draining with | some t => decide (t + 2 ^ 20 ≤ s.clock d) | none => true
    if late || s.outstanding l != 0 then .next s
    else
      let s := ((s.dropDue (.permitDrainEnd l)).dropDue (.permitDrainTimeout l)).modDie d fun x => { x with permits := x.permits.erase (permitKey l) }
      .next (s.permitRecord l 0 p)

/-- R373, R374: a die fences its neighbour in a direction: its record of a class, cause and detail, its fence bit, the replace
request. -/
def State.fenceWith (s : State) (d dir cls cause detail : Nat) : State :=
  match neighbour d dir with
  | none => s
  | some e =>
    if (s.die d).fence.getLsbD dir then s else
    let s := s.modDie d fun x => { x with fence := x.fence ||| BitVec.twoPow 64 dir }
    let s := s.record d (mkRec 3 cls cause 0x10 0 0 (unitOf 9 (4 * d + dir)) 0 0 detail)
    s.addDue (.dieFence (BitVec.ofNat 6 e))

/-- R374: the fence that a lost link or an unanswered request brings. DESIGN CHOICE: log 18. -/
def State.fenceNeighbour (s : State) (d dir : Nat) : State := s.fenceWith d dir 0x30 (Config.unstatedCause 0x30).toNat 0

/-- R365, R391, R422: PERMIT_DRAIN_TIMEOUT: a boundary is fenced, with a second record that names the first; a Lode link goes down. -/
def execPermitDrainTimeout (l : PermitLink) (s : State) : Out :=
  let d := permitDie l
  if Instr.permitDrainTimeout l ∉ s.due then .next s else
  match (s.die d).permits.find (permitKey l) with
  | none => .next (s.dropDue (.permitDrainTimeout l))
  | some p =>
    let late := match p.draining with | some t => decide (t + 2 ^ 20 ≤ s.clock d) | none => true
    if !late then .next s
    else
      let s := ((s.dropDue (.permitDrainEnd l)).dropDue (.permitDrainTimeout l)).permitRecord l 1 p
      let first := (s.die d).seq
      let s := s.modDie d fun x => { x with permits := x.permits.erase (permitKey l) }
      .next (match l with
        | .boundary _ k => s.fenceWith d k.toNat 6 (Config.unstatedCause 6).toNat first
        | .lode n => s.linkDown n.toNat 4)

/-! ### Die-to-die boundaries (R374, R408, R416) -/

/-- R374: BOUNDARY_LINK_LOSS: a die sees its boundary's link lost, and fences the neighbour. -/
def execBoundaryLinkLoss (die : BitVec 6) (dir : BitVec 2) (s : State) : Out := .next (s.fenceNeighbour die.toNat dir.toNat)

/-- R374: the messages on their way that ask for an answer, across a boundary of a die. -/
def State.asking (s : State) (d dir : Nat) : List Instr :=
  s.due.filter fun i => (s.flow i).any fun f => crosses d dir f.2.1 f.2.2 && match i with
    | .pushDelivery _ _ _ _ _ _ _ _ | .stealRequest _ _ _ | .placementReservation _ _ _ _ _ | .invalidationReceived _ _ _ | .recallReceived _ _ _ => true
    | _ => false

/-- R374: a request across a boundary of die d has gone unanswered for 2^20 cycles of its counter: a line that a cache of it has
asked for, a recall or an invalidation of its home, or a message that it has timed for so long. -/
def State.unanswered (s : State) (d dir : Nat) : Bool :=
  let late := fun (t : Nat) => decide (t + 2 ^ 20 ≤ s.clock d)
  let via := fun (e : Nat) => e != d && hopDir d e == dir
  (s.caches.any fun e => e.1 / 80 == d && e.2.miss.any fun m => via (lineDie m.1) && late m.2.since)
    || ((s.die d).txns.any fun t => late t.since && t.acks.any fun k => via (k / 80))
    || (s.asking d dir).any fun i => (s.die d).watch.any fun w => decide (w.1 = i) && late w.2

/-- R374: a die times the requests across its boundaries: those answered are timed no more, and new ones from now on. -/
def State.timeRequests (s : State) (d : Nat) : State :=
  let all := [0, 1, 2, 3].flatMap fun k => s.asking d k
  s.modDie d fun x =>
    let old := x.watch.filter fun w => decide (w.1 ∈ all)
    { x with watch := old ++ (all.filter fun i => old.all fun w => decide (w.1 ≠ i)).map fun i => (i, s.clock d) }

/-- R374: NEIGHBOUR_REQUEST_TIMEOUT: the die looks at its counter: it fences a neighbour that a request has waited on for its
time. -/
def execNeighbourRequestTimeout (die : BitVec 6) (dir : BitVec 2) (s : State) : Out :=
  let d := die.toNat
  .next (if s.unanswered d dir.toNat then s.fenceNeighbour d dir.toNat else s.timeRequests d)

/-- R337, R374, R389, R390, R416: a request on its way that a closed boundary stops is answered with an error. -/
def State.bounce (s : State) (i : Instr) : State :=
  let out : Out := match i with
    | .invalidationReceived k l q => execInvalidationReceived k l q s
    | .recallReceived k l own => execRecallReceived k l own s
    | .pushDelivery q op core line src t refuse data => execPushDelivery q op core line src t refuse data s
    | .stealRequest d g t => execStealRequest d g t s
    | .placementReservation p d g k st => execPlacementReservation p d g k st s
    | _ => .next s
  match out with
  | .next t => t
  | _ => s

/-- R416: CLOSED_BOUNDARY_FLIT: a flit arrives across a boundary that the die holds closed, and is discarded; the oldest request on
its way there is answered with its error. -/
def execClosedBoundaryFlit (die : BitVec 6) (dir : BitVec 2) (s : State) : Out :=
  let d := die.toNat
  let k := dir.toNat
  if !((neighbour d k).isSome && (s.die d).closed k) then .next s else
  let stopped := s.due.find? fun i => (s.flow i).any fun f => s.block f.2.1 f.2.2 == some (d, k, true)
  let t : State := match stopped with | some i => s.bounce i | none => s
  .next (if (t.die d).rates = (s.die d).rates then t.boundaryRecord d k 2 else t)

/-- R408: BOUNDARY_FLIT_RETRY: a damaged message flit is sent again. -/
def execBoundaryFlitRetry (die : BitVec 6) (dir : BitVec 2) (s : State) : Out :=
  .next (if (neighbour die.toNat dir.toNat).isSome then s.record die.toNat (mkRec 0 0x20 3 0 0 0 (unitOf 9 (4 * die.toNat + dir.toNat)) 0 0 0) else s)

end Sys2Proof.Machine
end

