-- ==== Sys2Proof/Machine/Boot.lean ====
section
/-!
DEFINITION. Module reset, loss of power and the boot stages (04 R89, 13 R331, R333, 14 R337, R346, R349, 20 R413, R415).
-/

namespace Sys2Proof.Machine

/-! ### Reset (R20, R89, R331) -/

/-- R89: memory after a module reset: HBM4 keeps its bytes, and the ownership table is as reset leaves it. -/
def State.keptMemory (s : State) : List Host.Cell := s.mem.filter fun e => !decide (paOff e.1 < 8 * dieFrames)

/-- R332: a controller after a module reset: its namespaces and what is durable stay. -/
def Nvme.afterReset (x : Nvme) : Nvme := { Nvme.reset with spaces := x.spaces, media := x.media }

/-- R333, R418: what the controllers' volatile caches held may be lost; files are left with their bytes. -/
def State.loseAll (s : State) : State := (List.range 8).foldl (fun s k => s.loseCache k) s

/-- R89, R331: the module at reset, with the memory, the flash and the files that it keeps; clocks start anew. -/
def State.restart (s : State) (mem : List Host.Cell) (poison : List Nat) : State :=
  let s := s.loseAll
  { State.reset with
    mem := mem, poison := poison
    dies := (List.range 64).map fun d => (d, { Die.reset d with clockBase := s.tick })
    nvme := s.nvme.map fun e => (e.1, e.2.afterReset)
    peat := { Peat.reset with files := s.peat.files }
    inputs := s.inputs, tick := s.tick, fresh := s.fresh }

/-- R89: MODULE_RESET. -/
def execModuleReset (s : State) : Out := .next (s.restart s.keptMemory s.poison)

/-- R333: MODULE_POWER_LOSS: memory is lost, and nothing runs until a module reset. -/
def execModulePowerLoss (s : State) : Out := .next { s.restart [] [] with due := [] }

/-! ### Boot (R331, R413, R415) -/

/-- R349, R413: which of two signatures failed. DEDUCED: log 32. -/
def sigDetail (rsaOk slhOk : Bool) : Nat := (if rsaOk then 0 else 1) + if slhOk then 0 else 2

/-- R331: where in die 0's HBM4 the boot ROM has a block of the boot area read to; the header is the first. DESIGN CHOICE: log 32. -/
def bootPlace (i : Nat) : Nat := Config.imageAddr 0 + 4096 * i

/-- R331: the boot ROM has a block of namespace 1 read. -/
def State.romRead (s : State) (lba place : Nat) : State :=
  let q : NvmeCmd :=
    { cid := s.fresh, core := romHost, op := .read, nsid := 1, lba := lba, n := 1, prps := [place], fua := false, clock := s.clock 0,
      status := none, job := none, covers := [] }
  (({ s with fresh := s.fresh + 1 } : State).modCtl 0 fun x => { x with cmds := x.cmds ++ [q] }).addDue (.nvmeRead 0 q.cid)

/-- R331: what the boot ROM still has to do with controller 0 before its images are in HBM4: its queue pairs of depth 16 and
Identify, the header, then the blocks that it names; none once they are there. Under host-assisted boot the host supplies the
images over Lode (R356). DEDUCED: log 32. -/
def State.romLoad (s : State) : Option State :=
  let x := s.ctl 0
  let mine := x.completions.filter fun q => q.1 == romHost
  if (s.die 0).fmode.getLsbD 2 then none
  else if !x.enabled then
    let s := (s.dataIn (Config.imageAddr 64) (x.identify 0 1 0)).modCtl 0 fun x =>
      { x with enabled := true, ready := true, cqs := x.cqs ++ [romHost], queues := x.queues ++ [romHost] }
    some (s.romRead Config.bootHeader (bootPlace 0))
  else if x.cmds.any fun q => q.core == romHost then some s
  else
    let blocks := Config.bootBlocks (s.readBytes (bootPlace 0) 4096)
    let todo := (blocks.drop (mine.length - 1)).take 15
    if todo.isEmpty then none
    else some (todo.zipIdx.foldl (fun s e => s.romRead e.1 (bootPlace (mine.length + e.2))) s)

/-- R331, R349, R415: BOOT_STAGE_1: the boot ROM of die 0 loads its distributor's firmware, then verifies its certificate and
the firmware. DEDUCED: log 32. -/
def execBootStage1 (rsaOk slhOk : Bool) (certOk : SigOk) (s : State) : Out :=
  let ev := Instr.bootStage1 true true ⟨true, true⟩
  if ev ∉ s.due then .next s else
  match s.romLoad with
  | some s => .next s
  | none =>
    let s := s.dropDue ev
    if !(certOk.rsa && certOk.slh) then .next (s.record 0 (mkRec 3 0x22 5 0 0 0 (unitOf 8 0) 0 0 (sigDetail certOk.rsa certOk.slh)))
    else if !(rsaOk && slhOk) then .next (s.record 0 (mkRec 3 0x22 4 8 0 0 (unitOf 7 0) 0 (Config.imageAddr 0) (sigDetail rsaOk slhOk)))
    else
      let s := s.modDie 0 fun x => { x with started := true }
      .next ((List.range 63).foldl (fun s d => s.addDue (.bootStage2 (BitVec.ofNat 6 (d + 1)) true true)) { s with boot := 1 })

/-- R331: the boot ROM clears CC.EN of controller 0, and CSTS.RDY reads 0. -/
def State.romDone (s : State) : State :=
  s.modCtl 0 fun x =>
    { x with enabled := false, ready := false, cqs := [], queues := [], completions := x.completions.filter fun q => q.1 != romHost }

/-- Another die is still in stage 2. -/
def State.inStage2 (s : State) : Bool := s.due.any fun e => match e with | .bootStage2 _ _ _ => true | _ => false

/-- R374, R415: a record of severity 3 of die 0 that names another die: that one is fenced. DESIGN CHOICE: log 18. -/
def State.recordOther (s : State) (r : ErrRec) (other : Nat) : State :=
  let had := decide (Instr.dieFence 0 ∈ s.due)
  let s := s.record 0 r
  (if had then s else s.dropDue (.dieFence 0)).addDue (.dieFence (BitVec.ofNat 6 other))

/-- R331, R413, R415: BOOT_STAGE_2: die 0's distributor verifies and releases another die's; before the stage ends the boot ROM
gives up controller 0. DEDUCED: log 32. -/
def execBootStage2 (die : BitVec 6) (rsaOk slhOk : Bool) (s : State) : Out :=
  let d := die.toNat
  let ev := Instr.bootStage2 die true true
  if ev ∉ s.due then .next s else
  let s := s.dropDue ev
  let s :=
    if rsaOk && slhOk then s.modDie d fun x => { x with started := true }
    else s.recordOther (mkRec 3 0x22 4 8 0 0 (unitOf 7 d) 0 (Config.imageAddr d) (sigDetail rsaOk slhOk)) d
  if s.inStage2 then .next s
  else
    let up := (List.range 64).filter fun d => (s.die d).started
    .next (up.foldl (fun s d => s.addDue (.bootStage3 (BitVec.ofNat 6 d) false)) { s.romDone with boot := 2 })

/-- R308, R331, R337, R346, R401: BOOT_STAGE_3: a die's tables and its power capacity are written, its boot scrub starts, and its
service cores start in M-mode (log 53, log 54). -/
def execBootStage3 (die : BitVec 6) (lockMap : Bool) (s : State) : Out :=
  let d := die.toNat
  let ev := Instr.bootStage3 die false
  if ev ∉ s.due then .next s else
  let s := (s.dropDue ev).zeroRange (d * 2 ^ 37 + 0x1000000) (d * 2 ^ 37 + 0x1000000 + 8 * 65536)
  let s := s.zeroRange (d * 2 ^ 37 + 0x7000000) (d * 2 ^ 37 + 0x7000000 + 32 * 1024)
  let scrub : Scrub :=
    { boot := true, tout := 0x8000, tin := 0x8000, dies := BitVec.twoPow 64 d, closed := true, cores := 0, halves := 0, list := 0, n := 1, freed := [] }
  let s := s.modDie d fun x =>
    { x with shares := [], scrub := some scrub, fwctl := if lockMap then x.fwctl ||| BitVec.twoPow 64 63 else x.fwctl }
  let s := ((s.addDue (.sluiceScrub die [])).addDue (.heartbeat die))
  let start := fun (s : State) (c : Nat) =>
    let s := s.modSvc c fun _ => { Svc.reset with running := true, pc := BitVec.ofNat 64 (Config.svcEntry c) }
    (s.addDue (s.hartEvent c)).addDue (.bootStage4 (BitVec.ofNat 10 c))
  .next ((clustersOf d).foldl start { s.setCap d (Config.powerCap d) with boot := max s.boot 3 })

/-- R310, R331: firmware hands a core to Peat in S-mode, with the exceptions and interrupts of S-mode delegated. DESIGN CHOICE:
log 17. -/
def Svc.enterPeat (x : Svc) (c now : Nat) : Svc :=
  { x with
    mode := .s, chargedAt := now, periodStart := now, pc := BitVec.ofNat 64 (Config.svcEntry (1024 + c))
    csrs := (x.csrs.set 0 0x302 0xB3FF).set 0 0x303 0x222 }

/-- R331, R332, R334: what service core 0 takes for Peat: the storage controllers' admin queues, and the Ethernet complex with its
steering tables, whose entries all name it for a start (DESIGN CHOICE, log 27). -/
def State.takeComplexes (s : State) : State :=
  let s := (List.range 8).foldl (fun s k => s.modCtl k fun x => { x with enabled := true, ready := true }) s
  { (List.range 8).foldl (fun s p => s.modPort p fun x => { x with steer := [], badSteer := [] }) s with boot := 4 }

/-- R331, R332: BOOT_STAGE_4: firmware enters Peat. Service core 0 takes the complexes; each core then makes its queues. -/
def execBootStage4 (cv : BitVec 10) (s : State) : Out :=
  let c := cv.toNat
  let ev := Instr.bootStage4 cv
  if ev ∉ s.due then .next s
  else if c ≠ 0 ∧ s.boot < 4 then .next s
  else
    let s := (s.dropDue ev).modSvc c fun x => x.enterPeat c (s.clock (c / 16))
    let s := if c = 0 then s.takeComplexes else s
    let s := (List.range 8).foldl (fun s k => s.modCtl k fun x =>
      { x with cqs := (x.cqs.filter (· != c)) ++ [c], queues := (x.queues.filter (· != c)) ++ [c] }) s
    .next (s.addDue (.budgetPeriod cv))

end Sys2Proof.Machine
end

