-- ==== Sys2Proof/Machine/Failures.lean ====
section
/-!
DEFINITION. The failure of a die, a distributor or a service core, the delivery of error records, and the patrol of memory
(17 R370 to R374, 18 R387, 19 R404 to R407, 20 R409).
-/

namespace Sys2Proof.Machine

/-! ### Fencing a die (R374) -/

/-- R374: the tenants that have a group, a gang (one whose ticket the die still holds among them), a queue slot, an owned frame or
a parked access on a die. -/
def State.tenantsOn (s : State) (d : Nat) : List Nat :=
  let groups := (s.groups.filter fun e => gidDie e.1 == d).map fun e => e.2.tenant.toNat
  let gangs := (s.grids.filter fun e => e.2.gangs.any fun x => x.2.places.any fun p => p.1 / 16 == d).map fun e => e.2.tenant.toNat
  let slots := (s.dist d).slots.filterMap fun e => ((s.dist d).binds.find e.2).map fun b => b.tenant.toNat
  let cells := (s.mem.filter fun e => paDie e.1 == d && decide (paOff e.1 < 8 * dieFrames)).map fun e => paOff e.1 / 8
  let owned := (cells.eraseDups.filter fun f => ownState (s.ownEntry (d * 2 ^ 37 + 65536 * f)) == 1).map fun f => ownOwner (s.ownEntry (d * 2 ^ 37 + 65536 * f))
  let parked := (s.die d).quag.map fun e => e.2.tenant.toNat
  let tickets := (s.dist d).tickets.filterMap fun e => if e.2.c < e.2.h ∨ e.2.front ≠ [] then (s.grid? e.1).map fun g => g.tenant.toNat else none
  (groups ++ gangs ++ slots ++ owned ++ parked ++ tickets).eraseDups

/-- R337, R374: grids with a gang whose dies no longer reach one another. -/
def State.cutGrids (s : State) : List Nat :=
  (s.grids.filter fun e => e.2.gangs.any fun x =>
    x.2.places.any fun p => x.2.places.any fun q => !s.reach (p.1 / 16) (q.1 / 16)).map (·.1)

/-- R374, R408, R410: the messages on their way to a fenced die are dropped, each with a record; one that carries a record has none.
The sender reads as of one accepted, and a send that was stalled behind them goes out. -/
def State.dropMessages (s : State) (d : Nat) : State :=
  let lost := s.chans.filter fun m => endDie m.2.1 == d && (recordOf m).isNone
  let last := fun (m : MsgEnd × MsgEnd × Msg) => decide ((s.chans.filter fun f => decide (f.1 = m.1)).getLast? = some m)
  lost.foldl (fun t m => (t.record (endDie m.1) (mkRec 1 0x20 2 0 0 0 (endUnit m.1) 0 0 m.2.2.hdr.toNat)).afterAccept m.1 (last m))
    { s with chans := s.chans.filter fun m => endDie m.2.1 != d }

/-- R374, R389, R390: each outstanding recall or invalidation whose cache is no longer reached is answered with an error. -/
def State.answerCut (s : State) : State :=
  s.due.foldl (fun s e => match e with
    | .invalidationReceived k l _ | .recallReceived k l _ => if s.reach (lineDie l) (k / 80) then s else s.bounce e
    | _ => s) s

/-- R407: a held event is taken. -/
def State.takeHeld (s : State) : HeldEv → State
  | .gangEnd grid gang => s.endGang grid gang true
  | .event e =>
    let s := s.addDue e
    let out :=
      match e with
      | .gridRetire g => execGridRetire g s
      | .haltComplete g k => execHaltComplete g k s
      | .preemption d g k b => execPreemption d g k b s
      | .gridAbort d g => execGridAbort d g s
      | .launchRecordAccept d src => execLaunchRecordAccept d src s
      | .stealRequest d g t => execStealRequest d g t s
      | .placementReservation p d g k st => execPlacementReservation p d g k st s
      | _ => .next s
    match out with
    | .next t => t
    | _ => s

/-- R374, R407: the events that a fenced die's distributor left held: the ends of gangs and grids come about. DEDUCED: log 18. -/
def State.freeHeld (s : State) (d : Nat) : State :=
  (s.dist d).held.foldl State.takeHeld (s.modDist d fun x => { x with held := [] })

/-- R373, R374, R390: DIE_FENCE. The fatal-to-tenant records are in the fenced die's own log, with unit kind 7 and its own index: the
spec does not say which die writes them (DESIGN CHOICE, log 18). -/
def execDieFence (die : BitVec 6) (s : State) : Out :=
  let d := die.toNat
  let ev := Instr.dieFence die
  if ev ∉ s.due then .next s
  else if (s.die d).fence.getLsbD 4 then .next (s.dropDue ev)
  else
    let s := (s.dropDue ev).modDie d fun x => { x with fence := x.fence ||| 0x1F }
    let s := [0, 1, 2, 3].foldl (fun s k => match neighbour d k with | some e => s.fenceNeighbour e (k ^^^ 1) | none => s) s
    let s := (s.dropMessages d).answerCut
    let s := (s.tenantsOn d).foldl (fun s t => s.record d (mkRec 2 0x30 (Config.unstatedCause 0x30).toNat 2 t 0 (unitOf 7 d) 0 0 0)) s
    let s := s.cutGrids.foldl (fun s g => s.addDue (.gridAbort die (BitVec.ofNat 32 g))) s
    let s := s.freeHeld d
    .next (match dieLink d with
      | some n => s.loseLink n
      | none => s)

/-! ### Delivery of error records (R370, R371) -/

/-- R366: the seq of the record in a slot of a die's log. -/
def State.slotSeq (s : State) (d slot : Nat) : Nat := s.deviceNat (logSlot d slot + 8) 8

/-- R370, R371: no record of the die with a lower seq still waits for the host path, or for its slot. -/
def State.hostFirst (s : State) (d slot : Nat) : Bool :=
  let n := s.slotSeq d slot
  s.due.all (fun e => match e with
    | .errorRecordDelivered k other true => k.toNat != d || decide (n ≤ s.slotSeq d other.toNat)
    | _ => true)
    && (s.die d).heldRecs.all fun h => decide (n ≤ h.r.seq) || decide ((s.die d).paths h.r < 2)

/-- R12, R370, R371, R423: ERROR_RECORD_DELIVERED: by message to a service core, or to the host over its link, with the whole slot,
which has taken it once it acknowledges; the records of a die leave on a path in the order of their seq. -/
def execErrorRecordDelivered (die : BitVec 6) (slot : BitVec 12) (toHost : Bool) (s : State) : Out :=
  let d := die.toNat
  let ev := Instr.errorRecordDelivered die slot toHost
  if ev ∉ s.due then .next s else
  let x := s.die d
  let s' := s.dropDue ev
  if toHost then
    let n := x.hlink
    if !(x.hen && decide (n ≤ 13) && s.samePart d (linkDie n)) then .next (s'.pathTaken d slot.toNat 2)
    else if !s.hostFirst d slot.toNat || !s.sends d (linkDie n) then .next s
    else .next ((s'.sendOn n (.record d slot.toNat n (s.deviceBytes (logSlot d slot.toNat) 64))).getD s)
  else
    match s.chans.find? fun e => recordOf e == some (d, slot.toNat) with
    | none => .next (s'.pathTaken d slot.toNat 1)
    | some e =>
      if s.rcvFull e.2.1 || s.passed e then .next s
      else
        let s' := { s' with chans := s'.chans.erase e }
        let s' := match e.2.1 with
          | .svc c => if s.msgDropped e.1 e.2.1 then s' else s'.modSvc c.toNat fun v => { v with rcv := v.rcv ++ [(e.1, e.2.2)] }
          | .dist _ => s'
        .next (s'.pathTaken d slot.toNat 1)

/-! ### Patrol (R387, R388) -/

/-- R387, R388: HBM_PATROL_READ: no error, a corrected one, or one that poisons the sector. -/
def execHbmPatrolRead (sector : BitVec 38) (err : BitVec 2) (s : State) : Out :=
  let pa := 32 * sector.toNat
  .next (if inHole pa || err = 0 then s
    else if err = 1 then s.record (paDie pa) (mkRec 0 4 1 (if pa = 0 then 0 else 8) 0 0 (hbmUnit pa) 0 pa 0)
    else s.makePoison sector.toNat)

/-! ### Service cores (R408, R409) -/

/-- R409: SERVICE_CORE_FAILURE: the cluster goes out of service. Its quag entries end as after a timeout, whose record is another's:
none is written (DESIGN CHOICE, log 41). -/
def execServiceCoreFailure (cv : BitVec 10) (s : State) : Out :=
  let c := cv.toNat
  let d := c / 16
  if (s.cluster c).out then .next s else
  let x := s.cluster c
  let s := x.enabled.foldl (fun s e => s.record d (mkRec 2 0x20 1 2 e.2.tenant.toNat 0 (unitOf 1 c) 0 0 e.1)) s
  let hit := (s.grids.filter fun e => e.2.gangs.any fun g => g.2.places.any fun p => p.1 == c).map (·.1)
  let s := hit.foldl (fun s g => s.addDue (.gridAbort (BitVec.ofNat 6 d) (BitVec.ofNat 32 g))) s
  let s := ((s.cluster c).handles.map (·.1)).foldl (fun s h => s.modCluster c fun x => x.retireHandle h (s.clock d)) s
  let parked := ((s.die d).quag.filter fun e => e.2.cluster == c && e.2.st == .parked).map (·.1)
  let s := parked.foldl (fun s e => s.answer d e fun s q m => s.abortOne q true m) s
  let s := s.modCluster c fun x => { x with out := true }
  .next (s.modDie d fun x => { x with rreq := x.rreq ||| BitVec.twoPow 64 63 ||| BitVec.twoPow 64 49 })

/-! ### Distributors (R404 to R407) -/

/-- R406: the neighbours of a die that may adopt it, lowest first: in its partition, not fenced and not adopting. -/
def State.adopters (s : State) (d : Nat) : List Nat :=
  ([2, 0, 1, 3].filterMap fun k => neighbour d k).filter fun e =>
    s.samePart d e && !(s.die e).fence.getLsbD 4 && (s.dist e).adopting.isEmpty

/-- R406: the adopter of a die: the lowest of them; where that one has itself failed, its own adopter, or else the lowest that runs
(DEDUCED, log 41). -/
def State.adopterOf (s : State) (d : Nat) : Option Nat :=
  let es := s.adopters d
  let runs := fun (e : Nat) => (s.dist e).alive
  match es.head? with
  | none => none
  | some e =>
    if runs e then some e
    else (((s.dist e).adopter.toList ++ s.adopters e).find? fun a => a != d && runs a).orElse fun _ => es.find? runs

/-- R406: some failed distributors go to the adopter of die d; without one their dies are fenced. -/
def State.seekAdopter (s : State) (d : Nat) (all : List Nat) : State :=
  all.foldl (fun s k => match s.adopterOf d with
    | some e => s.addDue (.distributorAdoption (BitVec.ofNat 6 e) (BitVec.ofNat 6 k))
    | none => s.addDue (.dieFence (BitVec.ofNat 6 k))) s

/-- R404, R406: DISTRIBUTOR_FAILURE: the core stops with its record; it and the dies that it had adopted go to its adopter. -/
def execDistributorFailure (die : BitVec 6) (s : State) : Out :=
  let d := die.toNat
  if !(s.dist d).alive then .next s else
  let orphans := (s.dist d).adopting
  let s := (s.record d (mkRec 1 0x14 1 2 0 0 (unitOf 7 d) 0 0 0)).modDist d fun x => { x with alive := false, adopting := [] }
  let s := orphans.foldl (fun s e => s.modDist e fun x => { x with adopter := none }) s
  .next (s.seekAdopter d (d :: orphans))

/-- R406: HEARTBEAT: a distributor that runs sends one every 2^20 cycles. -/
def execHeartbeat (die : BitVec 6) (s : State) : Out :=
  let d := die.toNat
  let ev := Instr.heartbeat die
  if ev ∉ s.due then .next s
  else if !(s.dist d).alive then .next (s.dropDue ev)
  else if s.clock d < (s.dist d).beat + 2 ^ 20 then .next s
  else
    let s := s.modDist d fun x => { x with beat := s.clock d }
    .next (match s.adopterOf d with
      | some e => (s.modDist e fun x => { x with seen := x.seen.put d (s.clock e) }).addDue (.heartbeatLost (BitVec.ofNat 6 e) die)
      | none => s)

/-- R404, R406: HEARTBEAT_LOST: four intervals of the adopter's counter without a heartbeat. -/
def execHeartbeatLost (adopter die : BitVec 6) (s : State) : Out :=
  let a := adopter.toNat
  let d := die.toNat
  let ev := Instr.heartbeatLost adopter die
  if ev ∉ s.due then .next s
  else if (s.dist d).adopter.isSome || s.deadDie d then .next (s.dropDue ev)
  else if s.clock a < (s.dist a).seen.get 0 d + 4 * 2 ^ 20 then .next s
  else .next (((s.dropDue ev).record a (mkRec 1 0x14 2 0x12 0 0 (unitOf 7 d) 0 0 0)).addDue (.distributorAdoption adopter die))

/-- R406: the pending-kick bits of queues whose head is not their tail. -/
def State.kickUnread (s : State) (d : Nat) : State :=
  (s.dist d).binds.foldl (fun s e =>
    match s.spanRead d e.2.asn e.2.base 8 with
    | .got b t => if e.2.head = some (leNat b) then t else t.modDist d fun x => { x with kick := x.kick ||| BitVec.twoPow 1024 e.1 }
    | _ => s.modDist d fun x => { x with kick := x.kick ||| BitVec.twoPow 1024 e.1 }) s

/-- R406: die a serves for die d from now on, and for those that d had adopted. -/
def State.adopt (s : State) (a d : Nat) : State :=
  let all := d :: (s.dist d).adopting
  let s := s.modDist d fun x => { x with alive := false, disabled := true, adopting := [] }
  let s := all.foldl (fun s e => s.modDist e fun x => { x with adopter := some a }) s
  s.modDist a fun x => { x with adopting := x.adopting ++ all }

/-- R404, R406, R407: DISTRIBUTOR_ADOPTION: the failed core is disabled, its state is rebuilt from the checkpoint and the journal, its
bound queues are served, and the held events are taken in order; a checkpoint that cannot be read fences the die. An adopter that has
failed meanwhile passes it on. -/
def execDistributorAdoption (adopter die : BitVec 6) (s : State) : Out :=
  let a := adopter.toNat
  let d := die.toNat
  let ev := Instr.distributorAdoption adopter die
  if ev ∉ s.due then .next s
  else if (s.dist d).adopter.isSome || s.deadDie d then .next (s.dropDue ev)
  else if !(s.dist a).alive then .next ((s.dropDue ev).seekAdopter a [d])
  else
    let s := s.dropDue ev
    match s.readCheckpoint d with
    | none => .next ((s.record a (mkRec 3 0x14 3 0x12 0 0 (unitOf 7 d) 0 0 0)).addDue (.dieFence die))
    | some k =>
      let s := (s.adopt a d).rebuild d (s.replay d 2048 k)
      .next (((s.kickUnread d).seekSlots d).freeHeld d)

end Sys2Proof.Machine
end

