-- ==== Sys2Proof/Machine/Vector.lean ====
section
/-!
DEFINITION. The integer, move, predicate and cross-lane vector instructions (09 R208 to R226).
-/

namespace Sys2Proof.Machine

/-- R209, R213: a computing integer instruction: `val` in each lane whose guard holds, S = 0, IO from the sources. -/
def vecInt (ok : Bool) (len : Nat) (gd : BitVec 3) (d : BitVec 7) (srcs : List (BitVec 7)) (val : Ctx → Nat → Word) (s : State) : Out :=
  issue ⟨ok, (d :: srcs).map vr, gd.toNat, none, len⟩ (fun c s =>
    let ls := c.lanes gd.toNat
    s.commitFlags c len (c.g.writeV d.toNat ls fun l => ⟨val c l, false⟩) (c.ioFlag ls (srcs.map (·.toNat)))) s

/-- R213. -/
def execVadd (gd : BitVec 3) (d a b : BitVec 7) (s : State) : Out := vecInt true 4 gd d [a, b] (fun c l => c.vd l a + c.vd l b) s
/-- R213. -/
def execVsub (gd : BitVec 3) (d a b : BitVec 7) (s : State) : Out := vecInt true 4 gd d [a, b] (fun c l => c.vd l a - c.vd l b) s
/-- R213. -/
def execVmul (gd : BitVec 3) (d a b : BitVec 7) (s : State) : Out := vecInt true 4 gd d [a, b] (fun c l => c.vd l a * c.vd l b) s
/-- R213. -/
def execVmulh (gd : BitVec 3) (d a b : BitVec 7) (s : State) : Out :=
  vecInt true 4 gd d [a, b] (fun c l => mulHigh true true (c.vd l a) (c.vd l b)) s
/-- R210, R213: VMAD also reads vd. -/
def execVmad (gd : BitVec 3) (d a b : BitVec 7) (s : State) : Out :=
  vecInt true 4 gd d [a, b, d] (fun c l => c.vd l a * c.vd l b + c.vd l d) s
/-- R213. -/
def execVmin (gd : BitVec 3) (d a b : BitVec 7) (s : State) : Out := vecInt true 4 gd d [a, b] (fun c l => minBv true (c.vd l a) (c.vd l b)) s
/-- R213. -/
def execVmax (gd : BitVec 3) (d a b : BitVec 7) (s : State) : Out := vecInt true 4 gd d [a, b] (fun c l => maxBv true (c.vd l a) (c.vd l b)) s
/-- R213: 0x8000_0000 stays. -/
def execVabs (gd : BitVec 3) (d a : BitVec 7) (s : State) : Out :=
  vecInt true 4 gd d [a] (fun c l => if (c.vd l a).msb then -(c.vd l a) else c.vd l a) s
/-- R213. -/
def execVand (gd : BitVec 3) (d a b : BitVec 7) (s : State) : Out := vecInt true 4 gd d [a, b] (fun c l => c.vd l a &&& c.vd l b) s
/-- R213. -/
def execVor (gd : BitVec 3) (d a b : BitVec 7) (s : State) : Out := vecInt true 4 gd d [a, b] (fun c l => c.vd l a ||| c.vd l b) s
/-- R213. -/
def execVxor (gd : BitVec 3) (d a b : BitVec 7) (s : State) : Out := vecInt true 4 gd d [a, b] (fun c l => c.vd l a ^^^ c.vd l b) s
/-- R213. -/
def execVnot (gd : BitVec 3) (d a : BitVec 7) (s : State) : Out := vecInt true 4 gd d [a] (fun c l => ~~~(c.vd l a)) s
/-- R213: the amount is vb[4:0]. -/
def execVshl (gd : BitVec 3) (d a b : BitVec 7) (s : State) : Out :=
  vecInt true 4 gd d [a, b] (fun c l => c.vd l a <<< ((c.vd l b).toNat % 32)) s
/-- R213. -/
def execVshr (gd : BitVec 3) (d a b : BitVec 7) (s : State) : Out :=
  vecInt true 4 gd d [a, b] (fun c l => c.vd l a >>> ((c.vd l b).toNat % 32)) s
/-- R213. -/
def execVsar (gd : BitVec 3) (d a b : BitVec 7) (s : State) : Out :=
  vecInt true 4 gd d [a, b] (fun c l => (c.vd l a).sshiftRight ((c.vd l b).toNat % 32)) s
/-- R213. -/
def execVrot (gd : BitVec 3) (d a b : BitVec 7) (s : State) : Out :=
  vecInt true 4 gd d [a, b] (fun c l => (c.vd l a).rotateLeft ((c.vd l b).toNat % 32)) s
/-- R213. -/
def execVpopc (gd : BitVec 3) (d a : BitVec 7) (s : State) : Out := vecInt true 4 gd d [a] (fun c l => BitVec.ofNat 32 (popc (c.vd l a))) s
/-- R213. -/
def execVclz (gd : BitVec 3) (d a : BitVec 7) (s : State) : Out := vecInt true 4 gd d [a] (fun c l => BitVec.ofNat 32 (clz (c.vd l a))) s
/-- R213. -/
def execVaddi (gd : BitVec 3) (d a i : BitVec 7) (s : State) : Out := vecInt true 4 gd d [a] (fun c l => c.vd l a + sextW i) s
/-- R211, R213: immediates 32 to 127 are unassigned. -/
def execVshli (gd : BitVec 3) (d a i : BitVec 7) (s : State) : Out :=
  vecInt (decide (i.toNat ≤ 31)) 4 gd d [a] (fun c l => c.vd l a <<< i.toNat) s
/-- R213. -/
def execVshri (gd : BitVec 3) (d a i : BitVec 7) (s : State) : Out :=
  vecInt (decide (i.toNat ≤ 31)) 4 gd d [a] (fun c l => c.vd l a >>> i.toNat) s
/-- R213. -/
def execVsari (gd : BitVec 3) (d a i : BitVec 7) (s : State) : Out :=
  vecInt (decide (i.toNat ≤ 31)) 4 gd d [a] (fun c l => (c.vd l a).sshiftRight i.toNat) s
/-- R213. -/
def execVmovi (gd : BitVec 3) (d i : BitVec 7) (s : State) : Out := vecInt true 4 gd d [] (fun _ _ => sextW i) s
/-- R213. -/
def execVaddl (gd : BitVec 3) (d a : BitVec 7) (x : Word) (s : State) : Out := vecInt true 8 gd d [a] (fun c l => c.vd l a + x) s
/-- R213. -/
def execVmull (gd : BitVec 3) (d a : BitVec 7) (x : Word) (s : State) : Out := vecInt true 8 gd d [a] (fun c l => c.vd l a * x) s
/-- R213. -/
def execVandl (gd : BitVec 3) (d a : BitVec 7) (x : Word) (s : State) : Out := vecInt true 8 gd d [a] (fun c l => c.vd l a &&& x) s
/-- R213. -/
def execVorl (gd : BitVec 3) (d a : BitVec 7) (x : Word) (s : State) : Out := vecInt true 8 gd d [a] (fun c l => c.vd l a ||| x) s
/-- R213. -/
def execVxorl (gd : BitVec 3) (d a : BitVec 7) (x : Word) (s : State) : Out := vecInt true 8 gd d [a] (fun c l => c.vd l a ^^^ x) s
/-- R213. -/
def execVmovl (gd : BitVec 3) (d : BitVec 7) (x : Word) (s : State) : Out := vecInt true 8 gd d [] (fun _ _ => x) s

/-- R219: the carry-less product of two words, 63 bits. -/
def clmul (a b : Word) : BitVec 64 :=
  (List.range 32).foldl (fun (acc : BitVec 64) j => if a.getLsbD j then acc ^^^ (b.zeroExtend 64 <<< j) else acc) 0
/-- R219. -/
def execVclmul (gd : BitVec 3) (d a b : BitVec 7) (s : State) : Out :=
  vecInt true 4 gd d [a, b] (fun c l => (clmul (c.vd l a) (c.vd l b)).extractLsb' 0 32) s
/-- R219. -/
def execVclmulh (gd : BitVec 3) (d a b : BitVec 7) (s : State) : Out :=
  vecInt true 4 gd d [a, b] (fun c l => (clmul (c.vd l a) (c.vd l b)).extractLsb' 32 32) s

/-! ### Requantisation (R220) -/

/-- R154: sat_int. -/
def satInt (n : Int) (w : Nat) : Int := max (-(2 ^ (w - 1))) (min n (2 ^ (w - 1) - 1))

/-- R220: n / 2^k rounded to nearest even (0), half away from zero (1), or down. -/
def divRound (mode : Nat) (n : Int) (k : Nat) : Int :=
  let q := n / 2 ^ k
  let r := n % 2 ^ k
  match mode with
  | 0 => if 2 * r < 2 ^ k ∨ (2 * r = 2 ^ k ∧ q % 2 = 0) then q else q + 1
  | 1 => if n < 0 then -((2 * n.natAbs + 2 ^ k) / (2 * 2 ^ k) : Nat) else ((2 * n.natAbs + 2 ^ k) / (2 * 2 ^ k) : Nat)
  | _ => q

/-- R220: a parameter word's rsvd field and rnd are legal. -/
def vreqLegal (w : Word) : Bool := (w.extractLsb' 16 16 == 0) && (w.extractLsb' 5 2 != 3)

/-- R220: the code of one lane. -/
def vreqValue (a b w : Word) : Word :=
  let q := divRound (w.extractLsb' 5 2).toNat (a.toInt * b.toInt) (31 + (w.extractLsb' 0 5).toNat)
  BitVec.ofInt 32 (satInt (q + (w.extractLsb' 8 8).toInt) (if w.getLsbD 7 then 4 else 8))

/-- R220: VREQ. -/
def execVreq (gd : BitVec 3) (d a b : BitVec 7) (s : State) : Out :=
  issue ⟨true, [vr d, vr a, vr b, vrUp b 1], gd.toNat, none, 4⟩ (fun c s =>
    let ls := c.lanes gd.toNat
    let p := fun l => (c.g.vreg l (b.toNat + 1)).data
    if ls.all fun l => vreqLegal (p l) then
      s.commitFlags c 4 (c.g.writeV d.toNat ls fun l => ⟨vreqValue (c.vd l a) (c.vd l b) (p l), false⟩)
        (c.ioFlag ls [a.toNat, b.toNat, b.toNat + 1])
    else s.trap c 0x03 0 c.iword.toNat) s

/-! ### Moves and selection (R214, R215) -/

/-- R135: a moving instruction: data and S move, no flag is set. -/
def vecMove (gd : BitVec 3) (d : BitVec 7) (srcs : List (BitVec 7)) (val : Ctx → Nat → VReg) (s : State) : Out :=
  issue ⟨true, (d :: srcs).map vr, gd.toNat, none, 4⟩ (fun c s =>
    s.commit c 4 (c.g.writeV d.toNat (c.lanes gd.toNat) (val c))) s

/-- R214. -/
def execVmov (gd : BitVec 3) (d a : BitVec 7) (s : State) : Out := vecMove gd d [a] (fun c l => c.v l a) s

/-- R214: g is the selecting predicate; there is no guard. -/
def execVsel (p : BitVec 3) (d a b : BitVec 7) (s : State) : Out :=
  vecMove 0 d [a, b] (fun c l => if (c.g.pred p.toNat).getLsbD l then c.v l a else c.v l b) s

/-- R215: VMOVX, from (dir 0) or to (dir 1) the register each lane's xk names. -/
def execVmovx (gd : BitVec 3) (d : BitVec 7) (dir : BitVec 1) (k : BitVec 2) (base : BitVec 7) (s : State) : Out :=
  issue ⟨true, [vr d, .x k.toNat base.toNat], gd.toNat, none, 4⟩ (fun c s =>
    let ls := c.lanes gd.toNat
    let e := fun l => (VRef.x k.toNat base.toNat).num c.g l
    s.commit c 4 (
      if dir = 0 then c.g.writeV d.toNat ls fun l => c.g.vreg l (e l)
      else ls.foldl (fun g l => g.setV l (e l) (c.v l d)) c.g)) s

/-! ### Compares and predicates (R216 to R218) -/

/-- R145, R216: an integer compare with the undecided rule. -/
def vcmpLane (cc : Nat) (a b : VReg) : Bool × Byte :=
  if a.data = b.data ∧ (a.s || b.s) = true then (cc == 1, flagCU) else (condHolds cc a.data b.data, 0)

/-- A compare into pd: `f` gives a lane's result and flags. -/
def comparePred (ok : Bool) (len : Nat) (gd p : BitVec 3) (srcs : List (BitVec 7)) (f : Ctx → Nat → Bool × Byte) (s : State) : Out :=
  issue ⟨ok, srcs.map vr, gd.toNat, none, len⟩ (fun c s =>
    let ls := c.lanes gd.toNat
    s.commitFlags c len (c.g.writeP p.toNat ls fun l => (f c l).1) (orFlags ls fun l => (f c l).2)) s

/-- R216. -/
def execVcmp (gd : BitVec 3) (cc : BitVec 4) (p : BitVec 3) (a b : BitVec 7) (s : State) : Out :=
  comparePred (decide (cc.toNat ≤ 9)) 4 gd p [a, b] (fun c l => vcmpLane cc.toNat (c.v l a) (c.v l b)) s
/-- R216. -/
def execVcmpl (gd : BitVec 3) (cc : BitVec 4) (p : BitVec 3) (a : BitVec 7) (x : Word) (s : State) : Out :=
  comparePred (decide (cc.toNat ≤ 9)) 8 gd p [a] (fun c l => vcmpLane cc.toNat (c.v l a) ⟨x, false⟩) s

/-- R217: the PLOG operations. -/
def plogOp (op : Nat) (a b : Mask) : Mask :=
  match op with
  | 0 => a &&& b
  | 1 => a ||| b
  | 2 => a ^^^ b
  | 3 => a &&& ~~~b
  | 4 => a ||| ~~~b
  | 5 => ~~~(a &&& b)
  | 6 => ~~~(a ||| b)
  | _ => ~~~(a ^^^ b)

/-- R217: PLOG. -/
def execPlog (gd : BitVec 3) (op : BitVec 4) (p a b : BitVec 3) (s : State) : Out :=
  issue ⟨decide (op.toNat ≤ 7), [], gd.toNat, none, 4⟩ (fun c s =>
    s.commit c 4 (c.g.setP p.toNat (c.guarded gd.toNat) (plogOp op.toNat (c.g.pred a.toNat) (c.g.pred b.toNat)))) s

/-- R218: PMOV. -/
def execPmov (gd : BitVec 3) (d : BitVec 7) (a : BitVec 3) (s : State) : Out :=
  issue ⟨true, [vr d], gd.toNat, none, 4⟩ (fun c s =>
    s.commit c 4 (c.g.writeV d.toNat (c.lanes gd.toNat) fun l =>
      ⟨if (c.g.pred a.toNat).getLsbD l then BitVec.allOnes 32 else 0, false⟩)) s

/-! ### Lanes that read other lanes (R221 to R226) -/

/-- R221, R377: a cross-lane instruction: `bad` gives a member a lane names that is not active; the lowest lane's fault is taken. -/
def crossLane (regs : List VRef) (gd : BitVec 3) (bad : Ctx → Nat → Option Nat) (eff : Ctx → Group) (s : State) : Out :=
  issue ⟨true, regs, gd.toNat, none, 4⟩ (fun c s =>
    match (c.lanes gd.toNat).findSome? fun l => (bad c l).map fun m => (l, m) with
    | some (l, m) => s.trap c 0x08 0 (l + 65536 * m)
    | none => s.commit c 4 (eff c)) s

/-- R222: VSHFL. -/
def execVshfl (gd : BitVec 3) (d a b : BitVec 7) (s : State) : Out :=
  crossLane [vr d, vr a, vr b] gd
    (fun c l => let src := (c.vd l b).toNat % 1024; if c.f.mask.getLsbD src then none else some src)
    (fun c => c.g.writeV d.toNat (c.lanes gd.toNat) fun l => c.v ((c.vd l b).toNat % 1024) a) s

/-- R223: VBCST from the leader, or from each row's lowest active lane. -/
def execVbcst (gd : BitVec 3) (d a : BitVec 7) (mode : BitVec 1) (s : State) : Out :=
  vecMove gd d [a] (fun c l =>
    let src := if mode = 0 then lowestLane c.f.mask
      else ((List.range 32).find? fun b => c.f.mask.getLsbD (32 * (l / 32) + b)).elim l fun b => 32 * (l / 32) + b
    c.v src a) s

/-- R224: the result of a vote over a member set, `ballot` for op 3. -/
def voteOp (op : Nat) (members : List Nat) (pa : Mask) (ballot : Word) : Word :=
  let yes := members.filter fun m => pa.getLsbD m
  match op with
  | 0 => if yes.length = members.length then 1 else 0
  | 1 => if yes.isEmpty then 0 else 1
  | 2 => if yes.isEmpty || yes.length == members.length then 1 else 0
  | _ => ballot

/-- R224: VVOTE: members are lanes of the lane's own row. Of several that are not active the lowest is reported (DESIGN CHOICE,
log 50). -/
def execVvote (gd : BitVec 3) (d : BitVec 7) (op : BitVec 2) (p : BitVec 3) (b : BitVec 7) (s : State) : Out :=
  let mem := fun (c : Ctx) (l : Nat) => ((List.range 32).filter fun i => (c.vd l b).getLsbD i).map fun i => 32 * (l / 32) + i
  crossLane [vr d, vr b] gd
    (fun c l => (mem c l).find? fun m => !c.f.mask.getLsbD m)
    (fun c => c.g.writeV d.toNat (c.lanes gd.toNat) fun l =>
      let pa := c.g.pred p.toNat
      ⟨voteOp op.toNat (mem c l) pa (c.vd l b &&& pa.extractLsb' (32 * (l / 32)) 32), false⟩) s

/-- R224: VVOTE.W: members are the active lanes of the named rows. Of several rows without one the lowest is reported (DESIGN
CHOICE, log 50). -/
def execVvoteW (gd : BitVec 3) (d : BitVec 7) (op : BitVec 2) (p : BitVec 3) (b : BitVec 7) (s : State) : Out :=
  let rows := fun (c : Ctx) (l : Nat) => (List.range 32).filter fun k => (c.vd l b).getLsbD k
  let mem := fun (c : Ctx) (l : Nat) => (rows c l).flatMap fun k => ((List.range 32).map fun i => 32 * k + i).filter fun m => c.f.mask.getLsbD m
  crossLane [vr d, vr b] gd
    (fun c l => (rows c l).find? fun k => c.f.mask.extractLsb' (32 * k) 32 == 0)
    (fun c => c.g.writeV d.toNat (c.lanes gd.toNat) fun l =>
      let pa := c.g.pred p.toNat
      ⟨voteOp op.toNat (mem c l) pa (BitVec.ofNat 32 ((mem c l).filter fun m => pa.getLsbD m).length), false⟩) s

/-- R225: VCOMP and VEXP: `src` lists (destination, source) lanes; the other active lanes are filled. -/
def compressOp (d a : BitVec 7) (keep : BitVec 1) (pairs : Ctx → List (Nat × Nat)) (s : State) : Out :=
  issue ⟨true, [vr d, vr a], 0, none, 4⟩ (fun c s =>
    let ps := pairs c
    s.commit c 4 (c.g.writeV d.toNat c.activeLanes fun l =>
      match ps.find? fun p => p.1 == l with
      | some p => c.v p.2 a
      | none => if keep = 1 then c.v l d else VReg.zero)) s

/-- R225. -/
def execVcomp (d a : BitVec 7) (keep : BitVec 1) (p : BitVec 3) (s : State) : Out :=
  compressOp d a keep (fun c => c.activeLanes.zip (c.activeLanes.filter fun l => (c.g.pred p.toNat).getLsbD l)) s
/-- R225. -/
def execVexp (d a : BitVec 7) (keep : BitVec 1) (p : BitVec 3) (s : State) : Out :=
  compressOp d a keep (fun c => (c.activeLanes.filter fun l => (c.g.pred p.toNat).getLsbD l).zip c.activeLanes) s

/-- R226: identities and operations of VSCAN. -/
def scanId : Nat → Word
  | 1 => 0x7FFFFFFF
  | 2 => 0x80000000
  | 3 => 0xFFFFFFFF
  | _ => 0
def scanOp (op : Nat) (a b : Word) : Word :=
  match op with
  | 0 => a + b
  | 1 => minBv true a b
  | 2 => maxBv true a b
  | 3 => a &&& b
  | 4 => a ||| b
  | _ => a ^^^ b

/-- R226: the prefixes of a list of lanes: each lane with its result. -/
def scanLanes (op : Nat) (excl : Bool) (val : Nat → Word) : Word → List Nat → List (Nat × Word)
  | _, [] => []
  | acc, l :: ls => (l, if excl then acc else scanOp op acc (val l)) :: scanLanes op excl val (scanOp op acc (val l)) ls

/-- R226: VSCAN. -/
def execVscan (gd : BitVec 3) (d a : BitVec 7) (excl : BitVec 1) (op : BitVec 3) (s : State) : Out :=
  issue ⟨decide (op.toNat ≤ 5), [vr d, vr a], gd.toNat, none, 4⟩ (fun c s =>
    let ls := c.lanes gd.toNat
    let rs := scanLanes op.toNat (excl == 1) (fun l => c.vd l a) (scanId op.toNat) ls
    s.commitFlags c 4 (rs.foldl (fun g r => g.setV r.1 d.toNat ⟨r.2, false⟩) c.g) (c.ioFlag ls [a.toNat])) s

end Sys2Proof.Machine
end

