-- ==== Sys2Proof/Machine/Dispatch.lean ====
section
/-! DEFINITION. One arm for each instruction and device step: a direct call of its meaning. -/

namespace Sys2Proof.Machine

def exec (i : Instr) (s : State) : Host.Outcome State Fault Refusal :=
  match i with
  | .nop => Sys2Proof.Machine.execNop s
  | .sadd d a b => Sys2Proof.Machine.execSadd d a b s
  | .ssub d a b => Sys2Proof.Machine.execSsub d a b s
  | .smul d a b => Sys2Proof.Machine.execSmul d a b s
  | .smulh d a b s1 => Sys2Proof.Machine.execSmulh d a b s1 s
  | .sand d a b => Sys2Proof.Machine.execSand d a b s
  | .sor d a b => Sys2Proof.Machine.execSor d a b s
  | .sxor d a b => Sys2Proof.Machine.execSxor d a b s
  | .sshl d a b => Sys2Proof.Machine.execSshl d a b s
  | .sshr d a b s1 => Sys2Proof.Machine.execSshr d a b s1 s
  | .smin d a b s1 => Sys2Proof.Machine.execSmin d a b s1 s
  | .smax d a b s1 => Sys2Proof.Machine.execSmax d a b s1 s
  | .scmp d a b c => Sys2Proof.Machine.execScmp d a b c s
  | .ssel d a b c => Sys2Proof.Machine.execSsel d a b c s
  | .sclz d a => Sys2Proof.Machine.execSclz d a s
  | .spop d a => Sys2Proof.Machine.execSpop d a s
  | .saddi d i1 => Sys2Proof.Machine.execSaddi d i1 s
  | .smovi d i1 => Sys2Proof.Machine.execSmovi d i1 s
  | .slui d i1 => Sys2Proof.Machine.execSlui d i1 s
  | .smovl d l => Sys2Proof.Machine.execSmovl d l s
  | .smovhl d l => Sys2Proof.Machine.execSmovhl d l s
  | .saddl d a l => Sys2Proof.Machine.execSaddl d a l s
  | .sld d a b o e z => Sys2Proof.Machine.execSld d a b o e z s
  | .sst d a b o z => Sys2Proof.Machine.execSst d a b o z s
  | .br o => Sys2Proof.Machine.execBr o s
  | .brc c o => Sys2Proof.Machine.execBrc c o s
  | .brv c o l => Sys2Proof.Machine.execBrv c o l s
  | .join => Sys2Proof.Machine.execJoin s
  | .call o => Sys2Proof.Machine.execCall o s
  | .ret a => Sys2Proof.Machine.execRet a s
  | .jmp a => Sys2Proof.Machine.execJmp a s
  | .yield => Sys2Proof.Machine.execYield s
  | .fmtset d a b => Sys2Proof.Machine.execFmtset d a b s
  | .fmtget d => Sys2Proof.Machine.execFmtget d s
  | .rdsrScalar d n => Sys2Proof.Machine.execRdsrScalar d n s
  | .rdsrLane g d n => Sys2Proof.Machine.execRdsrLane g d n s
  | .wrsr a n => Sys2Proof.Machine.execWrsr a n s
  | .idxset a k => Sys2Proof.Machine.execIdxset a k s
  | .launch g d a b => Sys2Proof.Machine.execLaunch g d a b s
  | .barGrp => Sys2Proof.Machine.execBarGrp s
  | .barGang => Sys2Proof.Machine.execBarGang s
  | .exit => Sys2Proof.Machine.execExit s
  | .sysc g a n => Sys2Proof.Machine.execSysc g a n s
  | .brk c => Sys2Proof.Machine.execBrk c s
  | .trapi d c => Sys2Proof.Machine.execTrapi d c s
  | .vadd g d a b => Sys2Proof.Machine.execVadd g d a b s
  | .vsub g d a b => Sys2Proof.Machine.execVsub g d a b s
  | .vmul g d a b => Sys2Proof.Machine.execVmul g d a b s
  | .vmulh g d a b => Sys2Proof.Machine.execVmulh g d a b s
  | .vmad g d a b => Sys2Proof.Machine.execVmad g d a b s
  | .vmin g d a b => Sys2Proof.Machine.execVmin g d a b s
  | .vmax g d a b => Sys2Proof.Machine.execVmax g d a b s
  | .vabs g d a => Sys2Proof.Machine.execVabs g d a s
  | .vand g d a b => Sys2Proof.Machine.execVand g d a b s
  | .vor g d a b => Sys2Proof.Machine.execVor g d a b s
  | .vxor g d a b => Sys2Proof.Machine.execVxor g d a b s
  | .vnot g d a => Sys2Proof.Machine.execVnot g d a s
  | .vshl g d a b => Sys2Proof.Machine.execVshl g d a b s
  | .vshr g d a b => Sys2Proof.Machine.execVshr g d a b s
  | .vsar g d a b => Sys2Proof.Machine.execVsar g d a b s
  | .vrot g d a b => Sys2Proof.Machine.execVrot g d a b s
  | .vpopc g d a => Sys2Proof.Machine.execVpopc g d a s
  | .vclz g d a => Sys2Proof.Machine.execVclz g d a s
  | .vcmp g c p a b => Sys2Proof.Machine.execVcmp g c p a b s
  | .vsel p d a b => Sys2Proof.Machine.execVsel p d a b s
  | .vmov g d a => Sys2Proof.Machine.execVmov g d a s
  | .vmovx g d r k b => Sys2Proof.Machine.execVmovx g d r k b s
  | .vclmul g d a b => Sys2Proof.Machine.execVclmul g d a b s
  | .vclmulh g d a b => Sys2Proof.Machine.execVclmulh g d a b s
  | .vreq g d a b => Sys2Proof.Machine.execVreq g d a b s
  | .vshfl g d a b => Sys2Proof.Machine.execVshfl g d a b s
  | .vbcst g d a m => Sys2Proof.Machine.execVbcst g d a m s
  | .vvote g d o p b => Sys2Proof.Machine.execVvote g d o p b s
  | .vvoteW g d o p b => Sys2Proof.Machine.execVvoteW g d o p b s
  | .vcomp d a k p => Sys2Proof.Machine.execVcomp d a k p s
  | .vexp d a k p => Sys2Proof.Machine.execVexp d a k p s
  | .vscan g d a e o => Sys2Proof.Machine.execVscan g d a e o s
  | .vaddi g d a i1 => Sys2Proof.Machine.execVaddi g d a i1 s
  | .vshli g d a i1 => Sys2Proof.Machine.execVshli g d a i1 s
  | .vshri g d a i1 => Sys2Proof.Machine.execVshri g d a i1 s
  | .vsari g d a i1 => Sys2Proof.Machine.execVsari g d a i1 s
  | .vmovi g d i1 => Sys2Proof.Machine.execVmovi g d i1 s
  | .vaddl g d a l => Sys2Proof.Machine.execVaddl g d a l s
  | .vmull g d a l => Sys2Proof.Machine.execVmull g d a l s
  | .vandl g d a l => Sys2Proof.Machine.execVandl g d a l s
  | .vorl g d a l => Sys2Proof.Machine.execVorl g d a l s
  | .vxorl g d a l => Sys2Proof.Machine.execVxorl g d a l s
  | .vmovl g d l => Sys2Proof.Machine.execVmovl g d l s
  | .vcmpl g c p a l => Sys2Proof.Machine.execVcmpl g c p a l s
  | .plog g o p a b => Sys2Proof.Machine.execPlog g o p a b s
  | .pmov g d p => Sys2Proof.Machine.execPmov g d p s
  | .fadd g d a b => Sys2Proof.Machine.execFadd g d a b s
  | .fsub g d a b => Sys2Proof.Machine.execFsub g d a b s
  | .fmul g d a b => Sys2Proof.Machine.execFmul g d a b s
  | .ffma g d a b => Sys2Proof.Machine.execFfma g d a b s
  | .fmin g d a b => Sys2Proof.Machine.execFmin g d a b s
  | .fmax g d a b => Sys2Proof.Machine.execFmax g d a b s
  | .fabs g d a => Sys2Proof.Machine.execFabs g d a s
  | .fneg g d a => Sys2Proof.Machine.execFneg g d a s
  | .fcmp g c p a b => Sys2Proof.Machine.execFcmp g c p a b s
  | .fcvt g d a i1 f c => Sys2Proof.Machine.execFcvt g d a i1 f c s
  | .fwiden g d a s1 h => Sys2Proof.Machine.execFwiden g d a s1 h s
  | .fscale g d a b => Sys2Proof.Machine.execFscale g d a b s
  | .frnd g d a i1 f c => Sys2Proof.Machine.execFrnd g d a i1 f c s
  | .fmxs g d a f c => Sys2Proof.Machine.execFmxs g d a f c s
  | .fclass g d a => Sys2Proof.Machine.execFclass g d a s
  | .fstkGet g d a => Sys2Proof.Machine.execFstkGet g d a s
  | .fstkSet g d a => Sys2Proof.Machine.execFstkSet g d a s
  | .frcp g d a => Sys2Proof.Machine.execFrcp g d a s
  | .frsq g d a => Sys2Proof.Machine.execFrsq g d a s
  | .fexp2 g d a => Sys2Proof.Machine.execFexp2 g d a s
  | .flog2 g d a => Sys2Proof.Machine.execFlog2 g d a s
  | .ftanh g d a => Sys2Proof.Machine.execFtanh g d a s
  | .faddl g d a l => Sys2Proof.Machine.execFaddl g d a l s
  | .fmull g d a l => Sys2Proof.Machine.execFmull g d a l s
  | .ffmal g d a b l => Sys2Proof.Machine.execFfmal g d a b l s
  | .fcmpl g c p a l => Sys2Proof.Machine.execFcmpl g c p a l s
  | .faddp g d a b => Sys2Proof.Machine.execFaddp g d a b s
  | .fsubp g d a b => Sys2Proof.Machine.execFsubp g d a b s
  | .fmulp g d a b => Sys2Proof.Machine.execFmulp g d a b s
  | .ffmap g d a b => Sys2Proof.Machine.execFfmap g d a b s
  | .fminp g d a b => Sys2Proof.Machine.execFminp g d a b s
  | .fmaxp g d a b => Sys2Proof.Machine.execFmaxp g d a b s
  | .ld g l v n u => Sys2Proof.Machine.execLd g l v n u s
  | .st g v n u => Sys2Proof.Machine.execSt g v n u s
  | .ldg g l v n u => Sys2Proof.Machine.execLdg g l v n u s
  | .stg g v n u => Sys2Proof.Machine.execStg g v n u s
  | .pst g v n u => Sys2Proof.Machine.execPst g v n u s
  | .ldx g l v n => Sys2Proof.Machine.execLdx g l v n s
  | .stx g v n => Sys2Proof.Machine.execStx g v n s
  | .ldmx g l v n u => Sys2Proof.Machine.execLdmx g l v n u s
  | .stmx g v n u => Sys2Proof.Machine.execStmx g v n u s
  | .lds g l v n u => Sys2Proof.Machine.execLds g l v n u s
  | .sts g v n u => Sys2Proof.Machine.execSts g v n u s
  | .ldacq g l v n s1 => Sys2Proof.Machine.execLdacq g l v n s1 s
  | .strel g v n s1 => Sys2Proof.Machine.execStrel g v n s1 s
  | .atom g l v r c o u => Sys2Proof.Machine.execAtom g l v r c o u s
  | .fatom g l v r c o u => Sys2Proof.Machine.execFatom g l v r c o u s
  | .atoms g l v r c o u => Sys2Proof.Machine.execAtoms g l v r c o u s
  | .fence s1 => Sys2Proof.Machine.execFence s1 s
  | .cpy a r => Sys2Proof.Machine.execCpy a r s
  | .bcommit d => Sys2Proof.Machine.execBcommit d s
  | .bwait a => Sys2Proof.Machine.execBwait a s
  | .pref d a b l => Sys2Proof.Machine.execPref d a b l s
  | .cinv d a b s1 => Sys2Proof.Machine.execCinv d a b s1 s
  | .cflush d a b s1 => Sys2Proof.Machine.execCflush d a b s1 s
  | .icinv a b s1 => Sys2Proof.Machine.execIcinv a b s1 s
  | .ipref a b l => Sys2Proof.Machine.execIpref a b l s
  | .ipin d a b => Sys2Proof.Machine.execIpin d a b s
  | .iunpin a b => Sys2Proof.Machine.execIunpin a b s
  | .pgset d a b j => Sys2Proof.Machine.execPgset d a b j s
  | .fupd d a b t o => Sys2Proof.Machine.execFupd d a b t o s
  | .mcfg a b t => Sys2Proof.Machine.execMcfg a b t s
  | .mzero a t => Sys2Proof.Machine.execMzero a t s
  | .mldw a => Sys2Proof.Machine.execMldw a s
  | .mloop a => Sys2Proof.Machine.execMloop a s
  | .mrd g l v n u => Sys2Proof.Machine.execMrd g l v n u s
  | .mrds g l v n => Sys2Proof.Machine.execMrds g l v n s
  | .mstat d t => Sys2Proof.Machine.execMstat d t s
  | .mresume t => Sys2Proof.Machine.execMresume t s
  | .mrel a t => Sys2Proof.Machine.execMrel a t s
  | .unassignedOpcode w => Sys2Proof.Machine.execUnassignedOpcode w s
  | .clauseBegin g f => Sys2Proof.Machine.execClauseBegin g f s
  | .clauseIssueChoice core => Sys2Proof.Machine.execClauseIssueChoice core s
  | .splitWaitRetry g f => Sys2Proof.Machine.execSplitWaitRetry g f s
  | .gangBarrierArrivalMessage grid gang die => Sys2Proof.Machine.execGangBarrierArrivalMessage grid gang die s
  | .gangBarrierReleaseMessage grid gang die => Sys2Proof.Machine.execGangBarrierReleaseMessage grid gang die s
  | .partialResumptionAllocated c h => Sys2Proof.Machine.execPartialResumptionAllocated c h s
  | .groupRetire g => Sys2Proof.Machine.execGroupRetire g s
  | .gridRetire grid => Sys2Proof.Machine.execGridRetire grid s
  | .loadDataReturn g op err => Sys2Proof.Machine.execLoadDataReturn g op err s
  | .storePerformed q => Sys2Proof.Machine.execStorePerformed q s
  | .pushDelivery q op core line src t refuse data => Sys2Proof.Machine.execPushDelivery q op core line src t refuse data s
  | .pushAnswered q op => Sys2Proof.Machine.execPushAnswered q op s
  | .pageWalk c asn vpn who => Sys2Proof.Machine.execPageWalk c asn vpn who s
  | .quagRoomFreed die => Sys2Proof.Machine.execQuagRoomFreed die s
  | .scrubWaitReread die entry => Sys2Proof.Machine.execScrubWaitReread die entry s
  | .parkingTimeout die entry => Sys2Proof.Machine.execParkingTimeout die entry s
  | .homeOwnershipRequest cache line => Sys2Proof.Machine.execHomeOwnershipRequest cache line s
  | .invalidationReceived cache line seq => Sys2Proof.Machine.execInvalidationReceived cache line seq s
  | .recallReceived cache line own => Sys2Proof.Machine.execRecallReceived cache line own s
  | .fillGrantReceived cache line m seq data => Sys2Proof.Machine.execFillGrantReceived cache line m seq data s
  | .farAtomicAtBank who => Sys2Proof.Machine.execFarAtomicAtBank who s
  | .ctbInvalidateDone c => Sys2Proof.Machine.execCtbInvalidateDone c s
  | .kstepGrant c half => Sys2Proof.Machine.execKstepGrant c half s
  | .kstepComplete c half checkErrors => Sys2Proof.Machine.execKstepComplete c half checkErrors s
  | .arrayModeSwitch c => Sys2Proof.Machine.execArrayModeSwitch c s
  | .copyComplete g op => Sys2Proof.Machine.execCopyComplete g op s
  | .fupdPerformed g op => Sys2Proof.Machine.execFupdPerformed g op s
  | .powerGrant die => Sys2Proof.Machine.execPowerGrant die s
  | .powerRelease die ticket => Sys2Proof.Machine.execPowerRelease die ticket s
  | .powerOverLimit10ms die => Sys2Proof.Machine.execPowerOverLimit10ms die s
  | .launchRecordAccept die src => Sys2Proof.Machine.execLaunchRecordAccept die src s
  | .ticketTake die grid => Sys2Proof.Machine.execTicketTake die grid s
  | .stealRequest die grid thief => Sys2Proof.Machine.execStealRequest die grid thief s
  | .stealReply die grid peer rank lo hi => Sys2Proof.Machine.execStealReply die grid peer rank lo hi s
  | .gangPlacement die grid gang => Sys2Proof.Machine.execGangPlacement die grid gang s
  | .placementReservation peer die grid gang stage => Sys2Proof.Machine.execPlacementReservation peer die grid gang stage s
  | .preemption die grid gang splitSave => Sys2Proof.Machine.execPreemption die grid gang splitSave s
  | .preemptWaitTimeout die q => Sys2Proof.Machine.execPreemptWaitTimeout die q s
  | .drainTimeout die grid gang => Sys2Proof.Machine.execDrainTimeout die grid gang s
  | .haltComplete grid gang => Sys2Proof.Machine.execHaltComplete grid gang s
  | .haltTimeout die grid gang => Sys2Proof.Machine.execHaltTimeout die grid gang s
  | .gangRestore ask pa => Sys2Proof.Machine.execGangRestore ask pa s
  | .gangRestorePlacement c payload => Sys2Proof.Machine.execGangRestorePlacement c payload s
  | .gridAbort die grid => Sys2Proof.Machine.execGridAbort die grid s
  | .heartbeat die => Sys2Proof.Machine.execHeartbeat die s
  | .heartbeatLost adopter die => Sys2Proof.Machine.execHeartbeatLost adopter die s
  | .distributorAdoption adopter die => Sys2Proof.Machine.execDistributorAdoption adopter die s
  | .tokenSign die rsaBad slhBad => Sys2Proof.Machine.execTokenSign die rsaBad slhBad s
  | .delegatedSignTimeout die => Sys2Proof.Machine.execDelegatedSignTimeout die s
  | .smsgsendStallTimeout c => Sys2Proof.Machine.execSmsgsendStallTimeout c s
  | .contextSaveComplete c => Sys2Proof.Machine.execContextSaveComplete c s
  | .contextRestoreComplete c => Sys2Proof.Machine.execContextRestoreComplete c s
  | .budgetPeriod c => Sys2Proof.Machine.execBudgetPeriod c s
  | .budgetExhausted c => Sys2Proof.Machine.execBudgetExhausted c s
  | .budgetInterruptUnserved c => Sys2Proof.Machine.execBudgetInterruptUnserved c s
  | .bootStage1 rsaOk slhOk certOk => Sys2Proof.Machine.execBootStage1 rsaOk slhOk certOk s
  | .bootStage2 die rsaOk slhOk => Sys2Proof.Machine.execBootStage2 die rsaOk slhOk s
  | .bootStage3 die lockMap => Sys2Proof.Machine.execBootStage3 die lockMap s
  | .bootStage4 c => Sys2Proof.Machine.execBootStage4 c s
  | .dieFence die => Sys2Proof.Machine.execDieFence die s
  | .errorRecordDelivered die slot toHost => Sys2Proof.Machine.execErrorRecordDelivered die slot toHost s
  | .messageArrival src dst => Sys2Proof.Machine.execMessageArrival src dst s
  | .icinvDone g f => Sys2Proof.Machine.execIcinvDone g f s
  | .instructionFetchFill g f => Sys2Proof.Machine.execInstructionFetchFill g f s
  | .engineOperationFailed g op cause addr => Sys2Proof.Machine.execEngineOperationFailed g op cause addr s
  | .serviceCoreAccess c a => Sys2Proof.Machine.execServiceCoreAccess c a s
  | .queueBinding die q => Sys2Proof.Machine.execQueueBinding die q s
  | .tenantSwitch die payload => Sys2Proof.Machine.execTenantSwitch die payload s
  | .sluiceScrub die stuck => Sys2Proof.Machine.execSluiceScrub die stuck s
  | .nvmeRead ctl cid => Sys2Proof.Machine.execNvmeRead ctl cid s
  | .nvmeWrite ctl cid => Sys2Proof.Machine.execNvmeWrite ctl cid s
  | .nvmeFlush ctl cid => Sys2Proof.Machine.execNvmeFlush ctl cid s
  | .nvmeWriteZeroes ctl cid => Sys2Proof.Machine.execNvmeWriteZeroes ctl cid s
  | .nvmeDatasetManagement ctl cid => Sys2Proof.Machine.execNvmeDatasetManagement ctl cid s
  | .nvmeCompletion ctl cid status => Sys2Proof.Machine.execNvmeCompletion ctl cid status s
  | .nvmeCommandTimeout ctl fatal => Sys2Proof.Machine.execNvmeCommandTimeout ctl fatal s
  | .nvmeControllerReset ctl => Sys2Proof.Machine.execNvmeControllerReset ctl s
  | .nvmeReadyTimeout ctl => Sys2Proof.Machine.execNvmeReadyTimeout ctl s
  | .frameTransmit port desc => Sys2Proof.Machine.execFrameTransmit port desc s
  | .permitDrainEnd l => Sys2Proof.Machine.execPermitDrainEnd l s
  | .permitDrainTimeout l => Sys2Proof.Machine.execPermitDrainTimeout l s
  | .linkTraining link peerGen ok => Sys2Proof.Machine.execLinkTraining link peerGen ok s
  | .powerReadingRecovered die => Sys2Proof.Machine.execPowerReadingRecovered die s
  | .powerOverLimit die => Sys2Proof.Machine.execPowerOverLimit die s
  | .hbmPatrolRead sector err => Sys2Proof.Machine.execHbmPatrolRead sector err s
  | .tileEntryEccError c tile row col => Sys2Proof.Machine.execTileEntryEccError c tile row col s
  | .queueNotify die value => Sys2Proof.Machine.execQueueNotify die value s
  | .signingDoorbell die value => Sys2Proof.Machine.execSigningDoorbell die value s
  | .attestationReport die nonce rsaBad slhBad => Sys2Proof.Machine.execAttestationReport die nonce rsaBad slhBad s
  | .sintake c => Sys2Proof.Machine.execSintake c s
  | .scres c v => Sys2Proof.Machine.execScres c v s
  | .slresumeStage c v => Sys2Proof.Machine.execSlresumeStage c v s
  | .slresumeRelease c v => Sys2Proof.Machine.execSlresumeRelease c v s
  | .sqsel c v => Sys2Proof.Machine.execSqsel c v s
  | .sqdata c v => Sys2Proof.Machine.execSqdata c v s
  | .sqansRetry c entry => Sys2Proof.Machine.execSqansRetry c entry s
  | .sqansEmulateLoad c entry => Sys2Proof.Machine.execSqansEmulateLoad c entry s
  | .sqansEmulateStore c entry => Sys2Proof.Machine.execSqansEmulateStore c entry s
  | .sqansAbort c entry => Sys2Proof.Machine.execSqansAbort c entry s
  | .sctbinvAllSpaces c => Sys2Proof.Machine.execSctbinvAllSpaces c s
  | .sctbinvPage c asn vpn => Sys2Proof.Machine.execSctbinvPage c asn vpn s
  | .sctbinvSpace c asn => Sys2Proof.Machine.execSctbinvSpace c asn s
  | .smsgdat c v => Sys2Proof.Machine.execSmsgdat c v s
  | .smsgsend c => Sys2Proof.Machine.execSmsgsend c s
  | .smsgrcv c => Sys2Proof.Machine.execSmsgrcv c s
  | .smsgrd c => Sys2Proof.Machine.execSmsgrd c s
  | .sring c v => Sys2Proof.Machine.execSring c v s
  | .smresume c v => Sys2Proof.Machine.execSmresume c v s
  | .sctxopSave c v => Sys2Proof.Machine.execSctxopSave c v s
  | .sctxopRestore c v => Sys2Proof.Machine.execSctxopRestore c v s
  | .registerWrite r a v => Sys2Proof.Machine.execRegisterWrite r a v s
  | .shareTableWrite die a t v => Sys2Proof.Machine.execShareTableWrite die a t v s
  | .tcfgWrite die a n v => Sys2Proof.Machine.execTcfgWrite die a n v s
  | .fwctlWrite die a v => Sys2Proof.Machine.execFwctlWrite die a v s
  | .mmodeWrite die a v => Sys2Proof.Machine.execMmodeWrite die a v s
  | .fmodeWrite die a v => Sys2Proof.Machine.execFmodeWrite die a v s
  | .lcfgWrite die a v => Sys2Proof.Machine.execLcfgWrite die a v s
  | .qtmoWrite die a v => Sys2Proof.Machine.execQtmoWrite die a v s
  | .fenceRegisterWrite die a v => Sys2Proof.Machine.execFenceRegisterWrite die a v s
  | .rreqWrite die a v => Sys2Proof.Machine.execRreqWrite die a v s
  | .callAlloc c h => Sys2Proof.Machine.execCallAlloc c h s
  | .callFree c h => Sys2Proof.Machine.execCallFree c h s
  | .callMmap c h => Sys2Proof.Machine.execCallMmap c h s
  | .callMunmap c h => Sys2Proof.Machine.execCallMunmap c h s
  | .callFaultreg c h => Sys2Proof.Machine.execCallFaultreg c h s
  | .callOpen c h => Sys2Proof.Machine.execCallOpen c h s
  | .callRead c h => Sys2Proof.Machine.execCallRead c h s
  | .callWrite c h => Sys2Proof.Machine.execCallWrite c h s
  | .callFsync c h => Sys2Proof.Machine.execCallFsync c h s
  | .callClose c h => Sys2Proof.Machine.execCallClose c h s
  | .callSocket c h => Sys2Proof.Machine.execCallSocket c h s
  | .callSend c h => Sys2Proof.Machine.execCallSend c h s
  | .callRecv c h => Sys2Proof.Machine.execCallRecv c h s
  | .callLaunchw c h => Sys2Proof.Machine.execCallLaunchw c h s
  | .callGridw c h => Sys2Proof.Machine.execCallGridw c h s
  | .callUnassigned c h => Sys2Proof.Machine.execCallUnassigned c h s
  | .faultAnswer c h => Sys2Proof.Machine.execFaultAnswer c h s
  | .yieldSlice c h => Sys2Proof.Machine.execYieldSlice c h s
  | .faultHandlerLaunch c h => Sys2Proof.Machine.execFaultHandlerLaunch c h s
  | .fenceI c => Sys2Proof.Machine.execFenceI c s
  | .moduleReset => Sys2Proof.Machine.execModuleReset s
  | .nvmeAdminCommand ctl cmd => Sys2Proof.Machine.execNvmeAdminCommand ctl cmd s
  | .frameReceive port frame => Sys2Proof.Machine.execFrameReceive port frame s
  | .portLinkDown port => Sys2Proof.Machine.execPortLinkDown port s
  | .lodeReadRequest link tag va n => Sys2Proof.Machine.execLodeReadRequest link tag va n s
  | .lodeWriteRequest link tag va mask data => Sys2Proof.Machine.execLodeWriteRequest link tag va mask data s
  | .lodeResponseReceived link tag => Sys2Proof.Machine.execLodeResponseReceived link tag s
  | .lodeFlitRetry link => Sys2Proof.Machine.execLodeFlitRetry link s
  | .lodeLinkDown link cause => Sys2Proof.Machine.execLodeLinkDown link cause s
  | .permitAudit l => Sys2Proof.Machine.execPermitAudit l s
  | .permitAuditCompare l permits slots => Sys2Proof.Machine.execPermitAuditCompare l permits slots s
  | .boundaryLinkLoss die dir => Sys2Proof.Machine.execBoundaryLinkLoss die dir s
  | .neighbourRequestTimeout die dir => Sys2Proof.Machine.execNeighbourRequestTimeout die dir s
  | .closedBoundaryFlit die dir => Sys2Proof.Machine.execClosedBoundaryFlit die dir s
  | .serviceCoreFailure c => Sys2Proof.Machine.execServiceCoreFailure c s
  | .distributorFailure die => Sys2Proof.Machine.execDistributorFailure die s
  | .portLinkUp port => Sys2Proof.Machine.execPortLinkUp port s
  | .modulePowerLoss => Sys2Proof.Machine.execModulePowerLoss s
  | .boundaryFlitRetry die dir => Sys2Proof.Machine.execBoundaryFlitRetry die dir s

end Sys2Proof.Machine
end

