-- ==== Sys2Proof/Machine/Step.lean ====
section
/-! DEFINITION. One step of the module: the chosen move runs, or nothing can happen and time passes. -/

namespace Sys2Proof.Machine

/-- One step: the instruction or event of the chosen move, unless a record it forms stalls it (R371), after which the step counter
moves on. -/
def step (s : State) : Host.Outcome State Fault Refusal :=
  match s.chosen with
  | none => .next s.leave
  | some m =>
    match exec m.instr (s.enter m) with
    | .next t => .next (s.afterMove m t).leave
    | .fault r => .fault r
    | .refused r => .refused r

/-- The state in which the very next step runs the instruction of these bits (DESIGN CHOICE, log 14). -/
def State.withFetchWord (s : State) (nbits w : Nat) : State := s.place (probeWords nbits w)

end Sys2Proof.Machine
end

