-- ==== Sys2Proof/Safety.lean ====
section
/-!
DEFINITION. What a safe run is, and the terms the claims about the model use: that an instruction issues, that its
fragment has done it, which registers a group has written, and what its scalar and vector results are.
-/

namespace Sys2Proof.Machine

/-! ### Safe runs -/

/-- A step that goes on. -/
def Goes (s : State) : Prop := ∃ t, step s = .next t

/-- A run of `n` steps none of which stops. -/
def RunsFor : Nat → State → Prop
  | 0, _ => True
  | n + 1, s => ∃ t, step s = .next t ∧ RunsFor n t

/-! ### An instruction that issues -/

/-- R164 to R169: the fragment of `c` issues and nothing keeps its instruction from its own effect: no open window of
the fragment has run out, each register of `regs` exists (R27) and is pending in no window (R165), predicate `guard`
holds in an active lane (R167), and the counter the instruction moves, if it moves one, is below its limit (R62). -/
structure Issues (s : State) (c : Ctx) (regs : List Nat) (guard : Nat) (ctr : Option Nat) : Prop where
  resident : s.ctx? = some c
  windows : ∀ w ∈ c.f.windows, w.left ≠ 0
  exist : ∀ r ∈ regs, r < c.g.regs
  settled : ∀ r ∈ regs, ∀ w ∈ c.f.windows, r ∉ w.regs
  guarded : c.guarded guard ≠ 0
  room : ∀ k, ctr = some k → s.counter c.gid c.g k < counterLimit k

/-- The lanes whose guard holds. -/
def Ctx.Lane (c : Ctx) (guard : Nat) (l : Nat) : Prop := (c.guarded guard).getLsbD l = true ∧ l < c.g.lanes

/-! ### What is left as it was -/

/-- What an instruction does not touch in its own fragment: its lanes, fmt, join entry and call. -/
def Frag.kept (f : Frag) : Mask × Word × Option Nat × Option CallWait := (f.mask, f.fmt, f.join, f.call)

/-- What an instruction does not touch in another fragment: everything but the count of its windows (R164). -/
def Frag.still (f : Frag) : Frag := { f with windows := f.windows.map fun w => { w with left := 0 } }

/-- The fragment of `c` has done its instruction and stands at `pc`, and the group is otherwise `g` with one more
instruction counted. Nothing else in the module has changed but the group's place in its core's turns: no byte of
memory, no other group, no cache, no scratchpad, no die and no event. -/
structure Done (s t : State) (c : Ctx) (pc : Dword) (g : Group) : Prop where
  rest : t = { s with groups := t.groups, cores := t.cores, fresh := t.fresh }
  memory : ∀ a, t.readByte a = s.readByte a
  groups : ∀ k, k ≠ c.gid → t.group? k = s.group? k
  cores : ∀ k, { t.core k with turn := none } = { s.core k with turn := none }
  group : ∃ frs, t.group? c.gid = some { g with frags := frs, instrs := g.instrs + 1 }
    ∧ (∀ k, k ≠ c.fid → (frs.find k).map Frag.still = (g.frags.find k).map Frag.still)
    ∧ (frs.find c.fid).map Frag.kept = (g.frags.find c.fid).map Frag.kept
    ∧ (frs.find c.fid).map (·.pc) = some pc

/-- R58: `g'` is `g` with scalar `d` written; a write to s0 is discarded and s0 reads 0. -/
structure WritesS (g g' : Group) (d : Nat) (val : Dword) : Prop where
  rest : g' = { g with s := g'.s }
  zero : g'.sreg 0 = 0
  written : d ≠ 0 → g'.sreg d = val
  others : ∀ r, r ≠ d → g'.sreg r = g.sreg r

/-- R54: `g'` is `g` with register `r` written in the lanes of `lanes` and no other register of any lane. -/
structure WritesV (g g' : Group) (r : Nat) (lanes : Nat → Prop) (val : Nat → VReg) : Prop where
  rest : g' = { g with v := g'.v }
  written : ∀ l, lanes l → g'.vreg l r = val l
  others : ∀ l k, l < 1024 → ¬(k = r ∧ lanes l) → g'.vreg l k = g.vreg l k

/-- R54: `g'` is `g` with predicate `p` written in the lanes of `lanes`; a write to p0 is discarded. -/
structure WritesP (g g' : Group) (p : Nat) (lanes : Nat → Prop) (val : Nat → Bool) : Prop where
  rest : g' = { g with p := g'.p }
  ones : ∀ l, l < 1024 → (g'.pred 0).getLsbD l = true
  written : p ≠ 0 → ∀ l, lanes l → (g'.pred p).getLsbD l = val l
  others : ∀ q l, l < 1024 → ¬(q = p ∧ lanes l) → (g'.pred q).getLsbD l = (g.pred q).getLsbD l

/-! ### Results -/

/-- The address `len` bytes after the issuing instruction. -/
def Ctx.after (c : Ctx) (len : Nat) : Dword := c.f.pc + BitVec.ofNat 64 len

/-- An instruction of `len` bytes whose effect is one scalar: whenever it issues it completes, writes `val` to scalar
`d`, and changes nothing else. -/
def ScalarResult (i : Instr) (len : Nat) (d : BitVec 6) (val : Ctx → Dword) : Prop :=
  ∀ s c, Issues s c [] 0 none →
    ∃ t g, exec i s = .next t ∧ Done s t c (c.after len) g ∧ WritesS c.g g d.toNat (val c)

/-- R61: the state after an instruction that set the flags `fl` and left the module as `u`: `u` itself, or, where the trap of one of
them is enabled, `u` with that trap taken at the instruction. -/
def Ctx.ends (c : Ctx) (fl : Byte) (u : State) : State :=
  if fl &&& c.te = 0 then u else u.takeException c.gid ⟨1, 0x0D, c.pc, 0, (fl &&& c.te).toNat⟩

/-- A vector instruction of `len` bytes: whenever it issues it completes, writes `val` to register `d` in each lane whose guard
holds, sets the flags `fl`, clears none, and changes nothing else, but for the trap of an enabled flag. -/
def VectorResult (i : Instr) (len : Nat) (guard : BitVec 3) (d : BitVec 7) (srcs : List (BitVec 7)) (val : Ctx → Nat → VReg)
    (fl : Ctx → Byte) : Prop :=
  ∀ s c, Issues s c ((d :: srcs).map (·.toNat)) guard.toNat none →
    ∃ t g, exec i s = .next (c.ends (fl c) t) ∧ Done s t c (c.after len) { g with flags := c.g.flags ||| fl c }
      ∧ WritesV c.g g d.toNat (c.Lane guard.toNat) (val c)

/-- R208, R209: a computing integer instruction: its result in each lane whose guard holds, S = 0, and IO from sources
whose S is 1 in such a lane. -/
def IntegerResult (i : Instr) (len : Nat) (guard : BitVec 3) (d : BitVec 7) (srcs : List (BitVec 7)) (val : Ctx → Nat → Word) : Prop :=
  VectorResult i len guard d srcs (fun c l => ⟨val c l, false⟩) fun c => c.ioFlag (c.lanes guard.toNat) (srcs.map (·.toNat))

/-- R134, R209: a computing floating-point instruction: each lane's code and flags, S = 0, and IO from the sources. -/
def FloatResult (i : Instr) (len : Nat) (guard : BitVec 3) (d : BitVec 7) (srcs : List (BitVec 7)) (val : Ctx → Nat → Nat × Byte) : Prop :=
  VectorResult i len guard d srcs (fun c l => ⟨BitVec.ofNat 32 (val c l).1, false⟩) fun c =>
    c.ioFlag (c.lanes guard.toNat) (srcs.map (·.toNat)) ||| orFlags (c.lanes guard.toNat) fun l => (val c l).2

/-- R135: a moving instruction: each lane's register, with its S, and the flags it sets. -/
def MoveResult (i : Instr) (guard : BitVec 3) (d : BitVec 7) (srcs : List (BitVec 7)) (val : Ctx → Nat → VReg × Byte) : Prop :=
  VectorResult i 4 guard d srcs (fun c l => (val c l).1) fun c => orFlags (c.lanes guard.toNat) fun l => (val c l).2

/-- A vector instruction that sets no flag at all. -/
def PureResult (i : Instr) (guard : BitVec 3) (d : BitVec 7) (srcs : List (BitVec 7)) (val : Ctx → Nat → VReg) : Prop :=
  ∀ s c, Issues s c ((d :: srcs).map (·.toNat)) guard.toNat none →
    ∃ t g, exec i s = .next t ∧ Done s t c (c.after 4) g ∧ WritesV c.g g d.toNat (c.Lane guard.toNat) (val c)

/-- A compare of `len` bytes into predicate `p`. -/
def PredicateResult (i : Instr) (len : Nat) (guard p : BitVec 3) (srcs : List (BitVec 7)) (val : Ctx → Nat → Bool)
    (fl : Ctx → Byte) : Prop :=
  ∀ s c, Issues s c (srcs.map (·.toNat)) guard.toNat none →
    ∃ t g, exec i s = .next (c.ends (fl c) t) ∧ Done s t c (c.after len) { g with flags := c.g.flags ||| fl c }
      ∧ WritesP c.g g p.toNat (c.Lane guard.toNat) (val c)

/-- R216: a compare whose lanes give a result and the flags of the undecided rule and of R145. -/
def CompareResult (i : Instr) (len : Nat) (guard p : BitVec 3) (srcs : List (BitVec 7)) (val : Ctx → Nat → Bool × Byte) : Prop :=
  PredicateResult i len guard p srcs (fun c l => (val c l).1) fun c => orFlags (c.lanes guard.toNat) fun l => (val c l).2

/-! ### Groups and fragments after an instruction -/

/-- Every byte of memory reads as before. -/
def SameMemory (s t : State) : Prop := ∀ a, t.readByte a = s.readByte a

/-- A group is resident with a fragment, and they are as `P` says. -/
def FragIs (t : State) (gid fid : Nat) (P : Group → Frag → Prop) : Prop :=
  ∃ g f, t.group? gid = some g ∧ g.frags.find fid = some f ∧ P g f

/-- Another fragment of the group is ready, so that no barrier of the group can release and no mismatch arise (R41, R201). -/
def AnotherReady (c : Ctx) : Prop := ∃ k f, k ≠ c.fid ∧ c.g.frags.find k = some f ∧ f.state = .ready

/-- R155: the fragment stands at the header `a`, before its clause. -/
def AtHeader (t : State) (c : Ctx) (a : Dword) : Prop :=
  FragIs t c.gid c.fid fun _ f => f.pc = a ∧ f.hdr = a ∧ f.inClause = false

/-- R38, R51: the fragment waits in op-wait for `h`, its instruction has not issued and its turn is over: nothing else in the
module changes. -/
def Waits (s t : State) (c : Ctx) (h : Hold) : Prop :=
  t = { s with groups := t.groups, cores := t.cores } ∧ (∀ k, k ≠ c.gid → t.group? k = s.group? k)
    ∧ (∀ k, { t.core k with turn := none } = { s.core k with turn := none })
    ∧ FragIs t c.gid c.fid fun g f => f = { c.f with state := .opWait, hold := h } ∧ g = { c.g with frags := g.frags }
        ∧ ∀ k, k ≠ c.fid → g.frags.find k = c.g.frags.find k

/-- The bytes, by address, that a lane's spans name, in order. -/
def LaneAcc.addresses (a : LaneAcc) : List Nat := a.spans.flatMap fun p => (List.range p.len).map (p.va + ·)

/-- R62, R164, R238: a load has issued: the group holds it as the youngest of its loads, its lanes name `bytes`, its data is due,
no register is written yet and no byte of memory changes. Where every lane has translated the fragment goes on with a
window of `la` instructions, and where not it waits at the instruction. -/
structure LoadIssued (s t : State) (c : Ctx) (kind : LoadKind) (rd : Nat) (acq rel : Option Nat) (la : Nat) (lanes : List Nat)
    (bytes : Nat → List Nat) : Prop where
  rest : t = { s with groups := t.groups, cores := t.cores, due := t.due, fresh := t.fresh }
  memory : SameMemory s t
  groups : ∀ k, k ≠ c.gid → t.group? k = s.group? k
  due : Instr.loadDataReturn (BitVec.ofNat 18 c.gid) c.g.nextOp .clean ∈ t.due
  group : FragIs t c.gid c.fid fun g f => ∃ o,
    g = { c.g with frags := g.frags, loads := c.g.loads ++ [o], nextOp := c.g.nextOp + 1, instrs := c.g.instrs + 1 }
    ∧ o.id = c.g.nextOp ∧ o.pc = c.f.pc ∧ o.kind = kind ∧ o.rd = rd ∧ o.acq = acq ∧ o.rel = rel ∧ o.fmt = c.f.fmt
    ∧ o.lanes.map (·.lane) = lanes ∧ (∀ a ∈ o.lanes, a.addresses = bytes a.lane ∧ a.st = .need)
    ∧ f.mask = c.f.mask ∧ f.fmt = c.f.fmt ∧ (∀ k, k ≠ c.fid → (g.frags.find k).map Frag.still = (c.g.frags.find k).map Frag.still)
    ∧ if o.opened = true then f.pc = c.after 4 ∧ ∃ w ∈ f.windows, w.op = c.g.nextOp ∧ w.left = la
      else f.pc = c.f.pc ∧ f.state = .opWait

/-- R62, R101: a store has issued: it is the youngest entry of its group's store queue with the writes of each lane, it is
due to be performed, and the fragment goes on; no byte of memory changes yet. -/
def StoreIssued (s t : State) (c : Ctx) (kind : StoreKind) (rel : Option Nat) (lanes : List (Nat × List ByteWrite)) (fl : Byte) : Prop :=
  ∃ e : StoreOp, e.id = c.g.nextOp ∧ e.pc = c.f.pc ∧ e.kind = kind ∧ e.rel = rel ∧ e.fmt = c.f.fmt ∧ e.performed = false
    ∧ e.lanes.map (fun l => (l.lane, l.writes)) = lanes
    ∧ Done ((s.modQueue c.g.sq fun q => { q with ents := q.ents ++ [e] }).addDue (.storePerformed c.g.sq)) t c (c.after 4)
        { c.g with nextOp := c.g.nextOp + 1, flags := c.g.flags ||| fl }

/-- R62, R252: an engine operation has issued: it is in the group, a member of the open batch, and `ev` is due. -/
def EngineIssued (s t : State) (c : Ctx) (kind : EngKind) (ticket : Option Nat) (ev : Instr) : Prop :=
  ∃ u, Done s u c (c.after 4)
      { c.g with engs := c.g.engs ++ [⟨c.g.nextOp, c.f.pc, kind, c.g.ob.toNat, ticket, [], none⟩], nextOp := c.g.nextOp + 1
                 batch := c.g.batch.set 0 c.g.ob.toNat (c.g.batch.get 0 c.g.ob.toNat + 1) }
    ∧ t = u.addDue ev

/-- R271, R279: a matrix operation has taken an entry at the end of its cluster's reservation table, and the arbiter is
set going. -/
def TableIssued (s t : State) (c : Ctx) (kind : ResKind) (tile : Nat) (tiles : Byte) (args : List Dword) (g : Group) : Prop :=
  ∃ u r, r.gid = c.gid ∧ r.id = c.g.nextOp ∧ r.pc = c.f.pc ∧ r.kind = kind ∧ r.tile = tile ∧ r.tiles = tiles ∧ r.args = args
    ∧ r.done = 0 ∧ r.st = .queued
    ∧ Done (s.modCluster (gidCluster c.gid) fun x => { x with table := x.table ++ [r] }) u c (c.after 4) g
    ∧ t = u.addDue (.kstepGrant (BitVec.ofNat 10 (gidCluster c.gid)) (s.halfOf (gidCluster c.gid) tile))

/-! ### Values, in the words of the tables -/

/-- R184, R216: the ten conditions on two integers, signed for lt to ge and unsigned for ltu to geu. -/
def condTable {n : Nat} (cc : Nat) (a b : BitVec n) : Bool :=
  match cc with
  | 0 => decide (a.toNat = b.toNat)
  | 1 => decide (a.toNat ≠ b.toNat)
  | 2 => decide (a.toInt < b.toInt)
  | 3 => decide (a.toInt ≤ b.toInt)
  | 4 => decide (b.toInt < a.toInt)
  | 5 => decide (b.toInt ≤ a.toInt)
  | 6 => decide (a.toNat < b.toNat)
  | 7 => decide (a.toNat ≤ b.toNat)
  | 8 => decide (b.toNat < a.toNat)
  | _ => decide (b.toNat ≤ a.toNat)

/-- R184, R213: the number of leading zero bits: those before the highest 1 bit. -/
def leadingZeros {n : Nat} (a : BitVec n) : Nat := ((List.range n).takeWhile fun i => !a.getLsbD (n - 1 - i)).length

/-- R184, R213: the number of 1 bits. -/
def oneBits {n : Nat} (a : BitVec n) : Nat := (List.range n).countP fun i => a.getLsbD i

end Sys2Proof.Machine
end

