-- ==== Sys2Proof/Certificates/Slice0/Obligations.lean ====
section
/-!
DEFINITION. The statements about the model, from the rules of the spec: what each instruction and each device step
does, what it leaves as it was, and what holds of the whole machine. `OBLIGATIONS.json` lists them.
-/

open Sys2Proof Sys2Proof.Machine

/-! ### Scalar arithmetic (08) -/

/-- R183, R184: the results of the scalar register instructions, for every assigned sub value. -/
def Obligations.ScalarArithmeticWritesItsResult : Prop :=
  (∀ d a b, ScalarResult (.sadd d a b) 4 d fun c => c.s a + c.s b)
  ∧ (∀ d a b, ScalarResult (.ssub d a b) 4 d fun c => c.s a - c.s b)
  ∧ (∀ d a b, ScalarResult (.smul d a b) 4 d fun c => c.s a * c.s b)
  ∧ (∀ d a b, ScalarResult (.smulh d a b 0) 4 d fun c => ((c.s a).signExtend 128 * (c.s b).signExtend 128).extractLsb' 64 64)
  ∧ (∀ d a b, ScalarResult (.smulh d a b 1) 4 d fun c => ((c.s a).zeroExtend 128 * (c.s b).zeroExtend 128).extractLsb' 64 64)
  ∧ (∀ d a b, ScalarResult (.smulh d a b 2) 4 d fun c => ((c.s a).signExtend 128 * (c.s b).zeroExtend 128).extractLsb' 64 64)
  ∧ (∀ d a b, ScalarResult (.sand d a b) 4 d fun c => c.s a &&& c.s b)
  ∧ (∀ d a b, ScalarResult (.sor d a b) 4 d fun c => c.s a ||| c.s b)
  ∧ (∀ d a b, ScalarResult (.sxor d a b) 4 d fun c => c.s a ^^^ c.s b)
  ∧ (∀ d a b, ScalarResult (.sshl d a b) 4 d fun c => c.s a <<< (c.s b).extractLsb' 0 6)
  ∧ (∀ d a b, ScalarResult (.sshr d a b 0) 4 d fun c => c.s a >>> (c.s b).extractLsb' 0 6)
  ∧ (∀ d a b, ScalarResult (.sshr d a b 1) 4 d fun c => (c.s a).sshiftRight' ((c.s b).extractLsb' 0 6))
  ∧ (∀ d a b, ScalarResult (.smin d a b 0) 4 d fun c => if (c.s a).toInt < (c.s b).toInt then c.s a else c.s b)
  ∧ (∀ d a b, ScalarResult (.smin d a b 1) 4 d fun c => if (c.s a).toNat < (c.s b).toNat then c.s a else c.s b)
  ∧ (∀ d a b, ScalarResult (.smax d a b 0) 4 d fun c => if (c.s a).toInt < (c.s b).toInt then c.s b else c.s a)
  ∧ (∀ d a b, ScalarResult (.smax d a b 1) 4 d fun c => if (c.s a).toNat < (c.s b).toNat then c.s b else c.s a)
  ∧ (∀ d a b (cc : BitVec 6), cc.toNat ≤ 9 → ScalarResult (.scmp d a b cc) 4 d fun c =>
      if condTable cc.toNat (c.s a) (c.s b) then 1 else 0)
  ∧ (∀ d a b k, ScalarResult (.ssel d a b k) 4 d fun c => if c.s k ≠ 0 then c.s a else c.s b)
  ∧ (∀ d a, ScalarResult (.sclz d a) 4 d fun c => BitVec.ofNat 64 (leadingZeros (c.s a)))
  ∧ (∀ d a, ScalarResult (.spop d a) 4 d fun c => BitVec.ofNat 64 (oneBits (c.s a)))

/-- R185, R186: SADDI, SMOVI and SLUI, the literal forms, and the values that their pairs build. -/
def Obligations.ScalarImmediatesAndLiterals : Prop :=
  ((∀ d i, ScalarResult (.saddi d i) 4 d fun c => c.s d + i.signExtend 64)
   ∧ (∀ d i, ScalarResult (.smovi d i) 4 d fun _ => i.signExtend 64)
   ∧ (∀ d i, ScalarResult (.slui d i) 4 d fun _ => i.signExtend 64 <<< 18)
   ∧ ∀ v : Int, -(2 ^ 35) - 2 ^ 17 ≤ v → v ≤ 2 ^ 35 - 2 ^ 18 + 2 ^ 17 - 1 →
       ∃ h l : BitVec 18, h.signExtend 64 <<< 18 + l.signExtend 64 = BitVec.ofInt 64 v)
  ∧ (∀ d l, ScalarResult (.smovl d l) 8 d fun _ => l.signExtend 64)
  ∧ (∀ d l, ScalarResult (.smovhl d l) 8 d fun c => l ++ (c.s d).extractLsb' 0 32)
  ∧ (∀ d a l, ScalarResult (.saddl d a l) 8 d fun c => c.s a + l.signExtend 64)
  ∧ ∀ v : Dword, ∃ lo hi : Word, hi ++ (lo.signExtend 64).extractLsb' 0 32 = v

/-! ### Vector integer instructions (09) -/

/-- R208, R209, R213: the results of the integer vector instructions. -/
def Obligations.IntegerVectorsWriteTheirResult : Prop :=
  (∀ g d a b, IntegerResult (.vadd g d a b) 4 g d [a, b] fun c l => c.vd l a + c.vd l b)
  ∧ (∀ g d a i, IntegerResult (.vaddi g d a i) 4 g d [a] fun c l => c.vd l a + i.signExtend 32)
  ∧ (∀ g d a x, IntegerResult (.vaddl g d a x) 8 g d [a] fun c l => c.vd l a + x)
  ∧ (∀ g d a b, IntegerResult (.vsub g d a b) 4 g d [a, b] fun c l => c.vd l a - c.vd l b)
  ∧ (∀ g d a b, IntegerResult (.vmul g d a b) 4 g d [a, b] fun c l => c.vd l a * c.vd l b)
  ∧ (∀ g d a x, IntegerResult (.vmull g d a x) 8 g d [a] fun c l => c.vd l a * x)
  ∧ (∀ g d a b, IntegerResult (.vmulh g d a b) 4 g d [a, b] fun c l =>
      ((c.vd l a).signExtend 64 * (c.vd l b).signExtend 64).extractLsb' 32 32)
  ∧ (∀ g d a b, IntegerResult (.vmad g d a b) 4 g d [a, b, d] fun c l => c.vd l a * c.vd l b + c.vd l d)
  ∧ (∀ g d a b, IntegerResult (.vmin g d a b) 4 g d [a, b] fun c l =>
      if (c.vd l a).toInt < (c.vd l b).toInt then c.vd l a else c.vd l b)
  ∧ (∀ g d a b, IntegerResult (.vmax g d a b) 4 g d [a, b] fun c l =>
      if (c.vd l a).toInt < (c.vd l b).toInt then c.vd l b else c.vd l a)
  ∧ (∀ g d a, IntegerResult (.vabs g d a) 4 g d [a] fun c l => BitVec.ofInt 32 |(c.vd l a).toInt|)
  ∧ (∀ g d a b, IntegerResult (.vand g d a b) 4 g d [a, b] fun c l => c.vd l a &&& c.vd l b)
  ∧ (∀ g d a x, IntegerResult (.vandl g d a x) 8 g d [a] fun c l => c.vd l a &&& x)
  ∧ (∀ g d a b, IntegerResult (.vor g d a b) 4 g d [a, b] fun c l => c.vd l a ||| c.vd l b)
  ∧ (∀ g d a x, IntegerResult (.vorl g d a x) 8 g d [a] fun c l => c.vd l a ||| x)
  ∧ (∀ g d a b, IntegerResult (.vxor g d a b) 4 g d [a, b] fun c l => c.vd l a ^^^ c.vd l b)
  ∧ (∀ g d a x, IntegerResult (.vxorl g d a x) 8 g d [a] fun c l => c.vd l a ^^^ x)
  ∧ (∀ g d a, IntegerResult (.vnot g d a) 4 g d [a] fun c l => ~~~c.vd l a)
  ∧ (∀ g d a b, IntegerResult (.vshl g d a b) 4 g d [a, b] fun c l => c.vd l a <<< (c.vd l b).extractLsb' 0 5)
  ∧ (∀ g d a (i : BitVec 7), i.toNat ≤ 31 → IntegerResult (.vshli g d a i) 4 g d [a] fun c l => c.vd l a <<< i)
  ∧ (∀ g d a b, IntegerResult (.vshr g d a b) 4 g d [a, b] fun c l => c.vd l a >>> (c.vd l b).extractLsb' 0 5)
  ∧ (∀ g d a (i : BitVec 7), i.toNat ≤ 31 → IntegerResult (.vshri g d a i) 4 g d [a] fun c l => c.vd l a >>> i)
  ∧ (∀ g d a b, IntegerResult (.vsar g d a b) 4 g d [a, b] fun c l => (c.vd l a).sshiftRight' ((c.vd l b).extractLsb' 0 5))
  ∧ (∀ g d a (i : BitVec 7), i.toNat ≤ 31 → IntegerResult (.vsari g d a i) 4 g d [a] fun c l => (c.vd l a).sshiftRight' i)
  ∧ (∀ g d a b, IntegerResult (.vrot g d a b) 4 g d [a, b] fun c l => (c.vd l a).rotateLeft ((c.vd l b).extractLsb' 0 5).toNat)
  ∧ (∀ g d a, IntegerResult (.vpopc g d a) 4 g d [a] fun c l => BitVec.ofNat 32 (oneBits (c.vd l a)))
  ∧ (∀ g d a, IntegerResult (.vclz g d a) 4 g d [a] fun c l => BitVec.ofNat 32 (leadingZeros (c.vd l a)))
  ∧ (∀ g d i, IntegerResult (.vmovi g d i) 4 g d [] fun _ _ => i.signExtend 32)
  ∧ (∀ g d x, IntegerResult (.vmovl g d x) 8 g d [] fun _ _ => x)

/-- R219: bit i of the carry-less product of two words. -/
def Sys2Proof.Machine.carrylessBit (a b : Word) (i : Nat) : Bool :=
  (List.range 32).foldl (fun x j => x ^^ (a.getLsbD j && (decide (j ≤ i) && b.getLsbD (i - j)))) false

/-- R219: VCLMUL and VCLMULH, bit by bit. -/
def Obligations.CarrylessProductsAreTheirBits : Prop :=
  (∀ g d a b, IntegerResult (.vclmul g d a b) 4 g d [a, b] fun c l =>
      BitVec.ofFnLE fun i : Fin 32 => carrylessBit (c.vd l a) (c.vd l b) i)
  ∧ (∀ g d a b, IntegerResult (.vclmulh g d a b) 4 g d [a, b] fun c l =>
      BitVec.ofFnLE fun i : Fin 32 => decide (i.val < 31) && carrylessBit (c.vd l a) (c.vd l b) (32 + i))

/-- R220: the integer nearest y = n / 2^k by the parameter word's rounding: ties to even (0), half away from zero (1), or
the floor. -/
def Sys2Proof.Machine.RequantRounds (rnd : Nat) (n : Int) (k : Nat) (q : Int) : Prop :=
  match rnd with
  | 0 => 2 * |q * 2 ^ k - n| < 2 ^ k ∨ (2 * |q * 2 ^ k - n| = 2 ^ k ∧ q % 2 = 0)
  | 1 => q = n.sign * ((2 * |n| + 2 ^ k) / (2 * 2 ^ k))
  | _ => q * 2 ^ k ≤ n ∧ n < (q + 1) * 2 ^ k

/-- R220: VREQ: with legal parameter words it writes, in each lane whose guard holds, the rounded and clipped code; with a reserved
value in one of those lanes it writes nothing and raises the illegal-instruction trap. -/
def Obligations.VreqRequantises : Prop :=
  ∀ g d a b s c, Issues s c [d.toNat, a.toNat, b.toNat, b.toNat + 1] g.toNat none →
    let w := fun l => (c.g.vreg l (b.toNat + 1)).data
    let fl := c.ioFlag (c.lanes g.toNat) [a.toNat, b.toNat, b.toNat + 1]
    ((∀ l, c.Lane g.toNat l → (w l).extractLsb' 16 16 = 0 ∧ (w l).extractLsb' 5 2 ≠ 3) →
      ∃ t h, ∃ val : Nat → Word, exec (.vreq g d a b) s = .next (c.ends fl t) ∧ Done s t c (c.after 4) { h with flags := c.g.flags ||| fl }
        ∧ WritesV c.g h d.toNat (c.Lane g.toNat) (fun l => ⟨val l, false⟩)
        ∧ ∀ l, c.Lane g.toNat l → ∃ q : Int,
            RequantRounds ((w l).extractLsb' 5 2).toNat ((c.vd l a).toInt * (c.vd l b).toInt) (31 + ((w l).extractLsb' 0 5).toNat) q
            ∧ (val l).toInt = (if (w l).getLsbD 7 then max (-8) (min 7 (q + ((w l).extractLsb' 8 8).toInt))
                else max (-128) (min 127 (q + ((w l).extractLsb' 8 8).toInt))))
    ∧ ((∃ l, c.Lane g.toNat l ∧ ((w l).extractLsb' 16 16 ≠ 0 ∨ (w l).extractLsb' 5 2 = 3)) →
        exec (.vreq g d a b) s = .next (s.trap c 0x03 0 c.iword.toNat))

/-! ### Moves, predicates and lanes that read other lanes (09) -/

/-- R214: VMOV and VSEL. -/
def Obligations.MovesCopyDataAndSticky : Prop :=
  (∀ g d a, PureResult (.vmov g d a) g d [a] fun c l => c.v l a)
  ∧ (∀ p d a b, PureResult (.vsel p d a b) 0 d [a, b] fun c l =>
      if (c.g.pred p.toNat).getLsbD l then c.v l a else c.v l b)
  ∧ (∀ d a b, PureResult (.vsel 0 d a b) 0 d [a, b] fun c l => c.v l a)

/-- R216, R217, R218: the compares with the undecided rule, PLOG and PMOV. -/
def Obligations.ComparesAndPredicates : Prop :=
  (∀ g (cc : BitVec 4) p a b, cc.toNat ≤ 9 → CompareResult (.vcmp g cc p a b) 4 g p [a, b] fun c l =>
      if c.vd l a = c.vd l b ∧ ((c.v l a).s = true ∨ (c.v l b).s = true) then (decide (cc = 1), 0x40)
      else (condTable cc.toNat (c.vd l a) (c.vd l b), 0))
  ∧ (∀ g (cc : BitVec 4) p a x, cc.toNat ≤ 9 → CompareResult (.vcmpl g cc p a x) 8 g p [a] fun c l =>
      if c.vd l a = x ∧ (c.v l a).s = true then (decide (cc = 1), 0x40) else (condTable cc.toNat (c.vd l a) x, 0))
  ∧ (∀ g (cc : BitVec 4) p a b, cc.toNat ≤ 6 → CompareResult (.fcmp g cc p a b) 4 g p [a, b] fun c l =>
      fcmpHolds cc.toNat (ofFp32 (c.vd l a)) (ofFp32 (c.vd l b)) ((c.v l a).s || (c.v l b).s))
  ∧ (∀ g (cc : BitVec 4) p a x, cc.toNat ≤ 6 → CompareResult (.fcmpl g cc p a x) 8 g p [a] fun c l =>
      fcmpHolds cc.toNat (ofFp32 (c.vd l a)) (ofFp32 x) (c.v l a).s)
  ∧ (∀ g (op : BitVec 4) p a b, op.toNat ≤ 7 → PredicateResult (.plog g op p a b) 4 g p [] (fun c l =>
      let x := (c.g.pred a.toNat).getLsbD l
      let y := (c.g.pred b.toNat).getLsbD l
      [x && y, x || y, x ^^ y, x && !y, x || !y, !(x && y), !(x || y), !(x ^^ y)].getD op.toNat false) fun _ => 0)
  ∧ (∀ g d p, PureResult (.pmov g d p) g d [] fun c l =>
      ⟨if (c.g.pred p.toNat).getLsbD l then 0xFFFFFFFF else 0, false⟩)

/-- R57, R215, R221 to R223, R377: VMOVX from and to the register that each lane's index names, or its fault where an index fails the check;
VSHFL, or its fault where it names a lane that is not active, and VBCST. -/
def Obligations.LanesReadOtherRegistersAndLanes : Prop :=
  (∀ g d (k : BitVec 2) (base : BitVec 7) s c, Issues s c [d.toNat] g.toNat none →
     (let e := fun l => (c.g.xreg l k.toNat).toNat + base.toNat
      c.g.idxEn k.toNat = true → (∀ l ∈ c.activeLanes, c.g.idxLo k.toNat ≤ e l ∧ e l ≤ c.g.idxHi k.toNat ∧ e l < c.g.regs
         ∧ ∀ w ∈ c.f.windows, e l ∉ w.regs) →
       (∃ t h, exec (.vmovx g d 0 k base) s = .next t ∧ Done s t c (c.after 4) h
           ∧ WritesV c.g h d.toNat (c.Lane g.toNat) fun l => c.g.vreg l (e l))
       ∧ ∃ t h, exec (.vmovx g d 1 k base) s = .next t ∧ Done s t c (c.after 4) h ∧ h = { c.g with v := h.v }
           ∧ (∀ l, c.Lane g.toNat l → h.vreg l (e l) = c.g.vreg l d.toNat)
           ∧ ∀ l r, l < 1024 → ¬(c.Lane g.toNat l ∧ r = e l) → h.vreg l r = c.g.vreg l r))
  ∧ (∀ g (d : BitVec 7) dir (k : BitVec 2) (base : BitVec 7) s c l, s.ctx? = some c → c.f.windows = [] → d.toNat < c.g.regs →
     let e := fun l => (c.g.xreg l k.toNat).toNat + base.toNat
     let legal := fun l => c.g.idxEn k.toNat = true ∧ c.g.idxLo k.toNat ≤ e l ∧ e l ≤ c.g.idxHi k.toNat ∧ e l < c.g.regs
     l ∈ c.activeLanes → ¬legal l → (∀ m ∈ c.activeLanes, m < l → legal m) →
       exec (.vmovx g d dir k base) s = .next (s.trap c 0x05 0 (l + 65536 * e l)))
  ∧ (∀ g d a b s c, Issues s c [d.toNat, a.toNat, b.toNat] g.toNat none →
    (∀ l, c.Lane g.toNat l → c.f.mask.getLsbD ((c.vd l b).extractLsb' 0 10).toNat = true) →
    ∃ t h, exec (.vshfl g d a b) s = .next t ∧ Done s t c (c.after 4) h
      ∧ WritesV c.g h d.toNat (c.Lane g.toNat) fun l => c.v ((c.vd l b).extractLsb' 0 10).toNat a)
  ∧ (∀ g d a b s c, Issues s c [d.toNat, a.toNat, b.toNat] g.toNat none →
    let src := fun l => ((c.vd l b).extractLsb' 0 10).toNat
    ∀ l ∈ c.lanes g.toNat, c.f.mask.getLsbD (src l) = false → (∀ m ∈ c.lanes g.toNat, m < l → c.f.mask.getLsbD (src m) = true) →
      exec (.vshfl g d a b) s = .next (s.trap c 0x08 0 (l + 65536 * src l)))
  ∧ (∀ g d a, PureResult (.vbcst g d a 0) g d [a] fun c _ => c.v (lowestLane c.f.mask) a)
  ∧ (∀ g d a s c, Issues s c [d.toNat, a.toNat] g.toNat none →
    (∀ l, c.active.getLsbD l = true → c.f.mask.getLsbD l = true) →
    ∃ t h, ∃ val : Nat → VReg, exec (.vbcst g d a 1) s = .next t ∧ Done s t c (c.after 4) h ∧ WritesV c.g h d.toNat (c.Lane g.toNat) val
      ∧ ∀ l, c.Lane g.toNat l → ∃ src, src / 32 = l / 32 ∧ c.f.mask.getLsbD src = true
          ∧ (∀ m, m / 32 = l / 32 → c.f.mask.getLsbD m = true → src ≤ m) ∧ val l = c.v src a)

/-- R224: the members of a vote of lane l. -/
def Sys2Proof.Machine.voteMembers (c : Ctx) (rows : Bool) (b : BitVec 7) (l : Nat) : List Nat :=
  (List.range 1024).filter fun m =>
    if rows then (c.vd l b).getLsbD (m / 32) && c.f.mask.getLsbD m else m / 32 == l / 32 && (c.vd l b).getLsbD (m % 32)

/-- R224: the vote of a member set. -/
def Sys2Proof.Machine.VoteResult (op : Nat) (rows : Bool) (pa : Mask) (ms : List Nat) (r : Word) : Prop :=
  match op with
  | 0 => r = if ∀ m ∈ ms, pa.getLsbD m = true then 1 else 0
  | 1 => r = if ∃ m ∈ ms, pa.getLsbD m = true then 1 else 0
  | 2 => r = if (∀ m ∈ ms, pa.getLsbD m = true) ∨ ∀ m ∈ ms, pa.getLsbD m = false then 1 else 0
  | _ => if rows = true then r = BitVec.ofNat 32 (ms.countP fun m => pa.getLsbD m)
      else ∀ i, i < 32 → (r.getLsbD i = true ↔ ∃ m ∈ ms, m % 32 = i ∧ pa.getLsbD m = true)

/-- R221, R224, R377: the votes, when every lane or row that a lane names is active, and the member-mask fault where one is not.
The model's choice: of several bad members that a lane names the lowest is reported (log 50). -/
def Obligations.VotesOverTheirMembers : Prop :=
  (∀ g d (op : BitVec 2) p b s c, Issues s c [d.toNat, b.toNat] g.toNat none →
    (∀ l, c.Lane g.toNat l → ∀ m ∈ voteMembers c false b l, c.f.mask.getLsbD m = true) →
    ∃ t h, ∃ val : Nat → Word, exec (.vvote g d op p b) s = .next t ∧ Done s t c (c.after 4) h
      ∧ WritesV c.g h d.toNat (c.Lane g.toNat) (fun l => ⟨val l, false⟩)
      ∧ ∀ l, c.Lane g.toNat l → VoteResult op.toNat false (c.g.pred p.toNat) (voteMembers c false b l) (val l))
  ∧ (∀ g d (op : BitVec 2) p b s c, Issues s c [d.toNat, b.toNat] g.toNat none →
    (∀ l, c.Lane g.toNat l → ∀ k, k < 32 → (c.vd l b).getLsbD k = true → ∃ m, m / 32 = k ∧ c.f.mask.getLsbD m = true) →
    ∃ t h, ∃ val : Nat → Word, exec (.vvoteW g d op p b) s = .next t ∧ Done s t c (c.after 4) h
      ∧ WritesV c.g h d.toNat (c.Lane g.toNat) (fun l => ⟨val l, false⟩)
      ∧ ∀ l, c.Lane g.toNat l → VoteResult op.toNat true (c.g.pred p.toNat) (voteMembers c true b l) (val l))
  ∧ (∀ g d (op : BitVec 2) p b s c, Issues s c [d.toNat, b.toNat] g.toNat none →
    let bad := fun l m => m ∈ voteMembers c false b l ∧ c.f.mask.getLsbD m = false
    ∀ l ∈ c.lanes g.toNat, ∀ m, bad l m → (∀ k < m, ¬bad l k) → (∀ k ∈ c.lanes g.toNat, k < l → ∀ n, ¬bad k n) →
      exec (.vvote g d op p b) s = .next (s.trap c 0x08 0 (l + 65536 * m)))
  ∧ ∀ g d (op : BitVec 2) p b s c, Issues s c [d.toNat, b.toNat] g.toNat none →
    let bad := fun l r => r < 32 ∧ (c.vd l b).getLsbD r = true ∧ ∀ m, m / 32 = r → c.f.mask.getLsbD m = false
    ∀ l ∈ c.lanes g.toNat, ∀ r, bad l r → (∀ k < r, ¬bad l k) → (∀ k ∈ c.lanes g.toNat, k < l → ∀ n, ¬bad k n) →
      exec (.vvoteW g d op p b) s = .next (s.trap c 0x08 0 (l + 65536 * r))

/-- R225, R226: VCOMP and VEXP move lane a_j of the active lanes and lane s_j of those where pc holds, the other lanes filled; VSCAN. -/
def Obligations.CompressExpandAndScan : Prop :=
  (∀ d a (keep : BitVec 1) (p : BitVec 3) s c, Issues s c [d.toNat, a.toNat] 0 none →
     let as := c.activeLanes
     let ss := as.filter fun l => (c.g.pred p.toNat).getLsbD l
     let fill := fun l => if keep = 1 then c.v l d else ⟨0, false⟩
     (∃ t h, ∃ val : Nat → VReg, exec (.vcomp d a keep p) s = .next t ∧ Done s t c (c.after 4) h ∧ WritesV c.g h d.toNat (· ∈ as) val
       ∧ ∀ j l : Nat, as[j]? = some l → val l = (ss[j]?.map fun m => c.v m a).getD (fill l))
     ∧ ∃ t h, ∃ val : Nat → VReg, exec (.vexp d a keep p) s = .next t ∧ Done s t c (c.after 4) h ∧ WritesV c.g h d.toNat (· ∈ as) val
       ∧ (∀ j l m : Nat, ss[j]? = some l → as[j]? = some m → val l = c.v m a)
       ∧ ∀ l, l ∈ as → l ∉ ss → val l = fill l)
  ∧ (∀ g d a (e : BitVec 1) (op : BitVec 3) s c, op.toNat ≤ 5 → Issues s c [d.toNat, a.toNat] g.toNat none →
     let fl := c.ioFlag (c.lanes g.toNat) [a.toNat]
     ∃ t h, ∃ val : Nat → Word, exec (.vscan g d a e op) s = .next (c.ends fl t)
       ∧ Done s t c (c.after 4) { h with flags := c.g.flags ||| fl }
       ∧ WritesV c.g h d.toNat (c.Lane g.toNat) (fun l => ⟨val l, false⟩)
       ∧ ∀ l, c.Lane g.toNat l →
           val l = ((c.lanes g.toNat).filter fun m => decide (m < l) || (e == 0 && m == l)).foldl
             (fun x m => scanOp op.toNat x (c.vd m a)) (scanId op.toNat))

/-! ### Floating point (06, 09) -/

/-- R134, R209, R225 to R228: the arithmetic and the functions of FP32 and of BF16 pairs, each rounded once.
The model's choice: how FEXP2, FLOG2 and FTANH are computed (log 13), and the flag of FMA with a quiet NaN (log 6). -/
def Obligations.FloatArithmeticRoundsOnce : Prop :=
  ((∀ g d a b, FloatResult (.fadd g d a b) 4 g d [a, b] fun c l => roundArith fp32 c.rm (fadd c.rm (c.fv l a) (c.fv l b)) false)
   ∧ (∀ g d a b, FloatResult (.fsub g d a b) 4 g d [a, b] fun c l => roundArith fp32 c.rm (fadd c.rm (c.fv l a) (c.fv l b).neg) false)
   ∧ (∀ g d a b, FloatResult (.fmul g d a b) 4 g d [a, b] fun c l => roundArith fp32 c.rm (fmul (c.fv l a) (c.fv l b)) false)
   ∧ (∀ g d a b, FloatResult (.ffma g d a b) 4 g d [a, b, d] fun c l =>
       roundArith fp32 c.rm (ffma c.rm (c.fv l a) (c.fv l b) (c.fv l d)) false)
   ∧ (∀ g d a x, FloatResult (.faddl g d a x) 8 g d [a] fun c l => roundArith fp32 c.rm (fadd c.rm (c.fv l a) (ofFp32 x)) false)
   ∧ (∀ g d a x, FloatResult (.fmull g d a x) 8 g d [a] fun c l => roundArith fp32 c.rm (fmul (c.fv l a) (ofFp32 x)) false)
   ∧ (∀ g d a b x, FloatResult (.ffmal g d a b x) 8 g d [a, b] fun c l =>
       roundArith fp32 c.rm (ffma c.rm (c.fv l a) (c.fv l b) (ofFp32 x)) false)
   ∧ (∀ g d a b, FloatResult (.faddp g d a b) 4 g d [a, b] fun c l =>
       let r := fun h => roundArith bf16 c.rm (fadd c.rm (c.hv l a h) (c.hv l b h)) false
       ((r false).1 + 65536 * (r true).1, (r false).2 ||| (r true).2))
   ∧ (∀ g d a b, FloatResult (.fsubp g d a b) 4 g d [a, b] fun c l =>
       let r := fun h => roundArith bf16 c.rm (fadd c.rm (c.hv l a h) (c.hv l b h).neg) false
       ((r false).1 + 65536 * (r true).1, (r false).2 ||| (r true).2))
   ∧ (∀ g d a b, FloatResult (.fmulp g d a b) 4 g d [a, b] fun c l =>
       let r := fun h => roundArith bf16 c.rm (fmul (c.hv l a h) (c.hv l b h)) false
       ((r false).1 + 65536 * (r true).1, (r false).2 ||| (r true).2))
   ∧ (∀ g d a b, FloatResult (.ffmap g d a b) 4 g d [a, b, d] fun c l =>
       let r := fun h => roundArith bf16 c.rm (ffma c.rm (c.hv l a h) (c.hv l b h) (c.hv l d h)) false
       ((r false).1 + 65536 * (r true).1, (r false).2 ||| (r true).2)))
  ∧ (let fn := fun (f : FVal → FRes) (c : Ctx) (l : Nat) (a : BitVec 7) =>
     roundArith fp32 c.rm ((f (c.fv l a)).1, (f (c.fv l a)).2.2) (f (c.fv l a)).2.1
   (∀ g d a, FloatResult (.frcp g d a) 4 g d [a] fun c l => fn frcp c l a)
   ∧ (∀ g d a, FloatResult (.frsq g d a) 4 g d [a] fun c l => fn frsq c l a)
   ∧ (∀ g d a, FloatResult (.fexp2 g d a) 4 g d [a] fun c l => fn fexp2 c l a)
   ∧ (∀ g d a, FloatResult (.flog2 g d a) 4 g d [a] fun c l => fn flog2 c l a)
   ∧ (∀ g d a, FloatResult (.ftanh g d a) 4 g d [a] fun c l => fn ftanh c l a)
   ∧ (∀ g d a s c, Issues s c [d.toNat, a.toNat] g.toNat none →
       (∀ l, c.Lane g.toNat l → c.v l a = ⟨0x3F800000, false⟩) →
       ∃ t h, exec (.frcp g d a) s = .next t ∧ Done s t c (c.after 4) h
         ∧ WritesV c.g h d.toNat (c.Lane g.toNat) fun _ => ⟨0x3F800000, false⟩))

/-- R146, R229, R230, R233, R234, R236, R237: the instructions that move a value, and those that read or write its S; a class mask has
one bit of [9:0] set and none above it. -/
def Obligations.FloatMovesAndClasses : Prop :=
  ((∀ g d a b, MoveResult (.fmin g d a b) g d [a, b] fun c l => minmaxLane false (c.v l a) (c.v l b))
   ∧ (∀ g d a b, MoveResult (.fmax g d a b) g d [a, b] fun c l => minmaxLane true (c.v l a) (c.v l b))
   ∧ (∀ g d a b, MoveResult (.fminp g d a b) g d [a, b] fun c l => minmaxPacked false (c.v l a) (c.v l b))
   ∧ (∀ g d a b, MoveResult (.fmaxp g d a b) g d [a, b] fun c l => minmaxPacked true (c.v l a) (c.v l b))
   ∧ (∀ g d a, MoveResult (.fabs g d a) g d [a] fun c l => (⟨c.vd l a &&& ~~~0x80000000, (c.v l a).s⟩, 0))
   ∧ (∀ g d a, MoveResult (.fneg g d a) g d [a] fun c l => (⟨c.vd l a ^^^ 0x80000000, (c.v l a).s⟩, 0))
   ∧ (∀ g d a, MoveResult (.fwiden g d a 0 0) g d [a] fun c l =>
       (⟨toFp32 (bf16.decode ((c.vd l a).extractLsb' 0 16).toNat), (c.v l a).s⟩, 0))
   ∧ (∀ g d a, MoveResult (.fwiden g d a 0 1) g d [a] fun c l =>
       (⟨toFp32 (bf16.decode ((c.vd l a).extractLsb' 16 16).toNat), (c.v l a).s⟩, 0))
   ∧ (∀ g d a, MoveResult (.fwiden g d a 1 0) g d [a] fun c l =>
       (⟨toFp32 ((floatFmt 2).decode ((c.vd l a).extractLsb' 0 16).toNat), (c.v l a).s⟩, 0))
   ∧ (∀ g d a, MoveResult (.fwiden g d a 1 1) g d [a] fun c l =>
       (⟨toFp32 ((floatFmt 2).decode ((c.vd l a).extractLsb' 16 16).toNat), (c.v l a).s⟩, 0))
   ∧ (∀ g d a b, MoveResult (.fscale g d a b) g d [a, b] fun c l => fscaleLane (c.vd l a) (c.v l a).s (c.vd l b).toInt)
   ∧ (∀ g d a, MoveResult (.fclass g d a) g d [a] fun c l => (⟨classMask (c.vd l a) ||| (if (c.v l a).s then 0x400 else 0), false⟩, 0))
   ∧ (∀ g d a, MoveResult (.fstkGet g d a) g d [a] fun c l => (⟨if (c.v l a).s then 1 else 0, false⟩, 0))
   ∧ (∀ g d a, MoveResult (.fstkSet g d a) g d [a] fun c l => (⟨(c.v l d).data, (c.vd l a).getLsbD 0⟩, 0)))
  ∧ (∀ w : Word, ∃ i, i < 10 ∧ classMask w = BitVec.twoPow 32 i
     ∧ (i = 3 ↔ w = 0x80000000) ∧ (i = 4 ↔ w = 0) ∧ (i = 0 ↔ w = 0xFF800000) ∧ (i = 7 ↔ w = 0x7F800000))

/-- R231, R232, R235: FCVT, FRND and FMXS to the format that fs selects, or the fragment's FC where dflt is 1; and some values: 0.2 narrows
to E3M2 as 0.203125, inexact, and is then rounded to 0.1875 with NX and UF; a row of ones has the E4M3 scale 119, and one of infinities
255. -/
def Obligations.ConversionsToTheSelectedFormat : Prop :=
  (∀ g d a (i dflt : BitVec 1) (code : BitVec 4) s c, Issues s c [d.toNat, a.toNat] g.toNat none → (dflt = 0 ∨ code = 0) →
    (let f := if dflt = 1 then c.fc else code.toNat
     f ≠ 0 → f < 12 → (i = 1 → f < 8) →
      ∃ t h, exec (.fcvt g d a i dflt code) s = .next t ∧ Done s t c (c.after 4) h
        ∧ WritesV c.g h d.toNat (c.Lane g.toNat) fun l => fcvtLane i f (c.v l a)))
  ∧ (∀ g d a (i dflt : BitVec 1) (code : BitVec 4) s c, Issues s c [d.toNat, a.toNat] g.toNat none → (dflt = 0 ∨ code = 0) →
    (let f := if dflt = 1 then c.fc else code.toNat
     let r := fun l => frndLane i f c.rm c.sat (c.v l a)
     let fl := orFlags (c.lanes g.toNat) fun l => (r l).2
     f < 12 →
      ∃ t h, exec (.frnd g d a i dflt code) s = .next (c.ends fl t) ∧ Done s t c (c.after 4) { h with flags := c.g.flags ||| fl }
        ∧ WritesV c.g h d.toNat (c.Lane g.toNat) fun l => (r l).1))
  ∧ (∀ g d a (dflt : BitVec 1) (code : BitVec 4) s c, Issues s c [d.toNat, a.toNat] g.toNat none → (dflt = 0 ∨ code = 0) →
    (let f := if dflt = 1 then c.fc else code.toNat
     3 ≤ f → f ≤ 7 →
      ∃ t h, exec (.fmxs g d a dflt code) s = .next t ∧ Done s t c (c.after 4) h
        ∧ WritesV c.g h d.toNat (c.Lane g.toNat) fun l => ⟨BitVec.ofNat 32 (c.rowScale a f (l / 32)), false⟩))
  ∧ (∀ g d a s c, Issues s c [d.toNat, a.toNat] g.toNat none → (∀ l, c.Lane g.toNat l → c.v l a = ⟨0x3E4CCCCD, false⟩) →
      ∃ t h, exec (.fcvt g d a 0 0 6) s = .next t ∧ Done s t c (c.after 4) h
        ∧ WritesV c.g h d.toNat (c.Lane g.toNat) fun _ => ⟨0x3E500000, true⟩)
  ∧ (∀ g d a s c, Issues s c [d.toNat, a.toNat] g.toNat none → (∀ l, c.Lane g.toNat l → c.v l a = ⟨13, false⟩) →
      ∃ t h, exec (.fcvt g d a 1 0 6) s = .next t ∧ Done s t c (c.after 4) h
        ∧ WritesV c.g h d.toNat (c.Lane g.toNat) fun _ => ⟨0x41500000, false⟩)
  ∧ (∀ g d a s c, Issues s c [d.toNat, a.toNat] g.toNat none → (∃ l, c.Lane g.toNat l) → c.rm = 0 → c.sat = false →
      (∀ l, c.Lane g.toNat l → c.v l a = ⟨0x3E500000, true⟩) →
      ∃ t h, exec (.frnd g d a 0 0 6) s = .next (c.ends 0x03 t) ∧ Done s t c (c.after 4) { h with flags := c.g.flags ||| 0x03 }
        ∧ WritesV c.g h d.toNat (c.Lane g.toNat) fun _ => ⟨0x3E400000, false⟩)
  ∧ ∀ g d a s c, Issues s c [d.toNat, a.toNat] g.toNat none →
      ((∀ l, c.active.getLsbD l = true → c.vd l a = 0x3F800000) →
        ∃ t h, exec (.fmxs g d a 0 3) s = .next t ∧ Done s t c (c.after 4) h
          ∧ WritesV c.g h d.toNat (c.Lane g.toNat) fun _ => ⟨119, false⟩)
      ∧ ((∀ l, c.active.getLsbD l = true → c.vd l a = 0x7F800000) →
        ∃ t h, exec (.fmxs g d a 0 3) s = .next t ∧ Done s t c (c.after 4) h
          ∧ WritesV c.g h d.toNat (c.Lane g.toNat) fun _ => ⟨255, false⟩)

/-! ### Branches, fragments and barriers (02, 08) -/

/-- R33, R36, R162, R163, R190, R191, R193, R195: NOP and the branches of the whole fragment, with the targets they compute; BRV, whose
lanes go on together, take a fragment entry and a join entry, wait for one, or overflow. -/
def Obligations.BranchesMoveAndSplitFragments : Prop :=
  ((∀ s c, Issues s c [] 0 none → ∃ t, exec .nop s = .next t ∧ Done s t c (c.after 4) c.g)
   ∧ (∀ o s c, Issues s c [] 0 none → ∃ t, exec (.br o) s = .next t
       ∧ Done s t c (c.f.pc + 4 * o.signExtend 64) c.g ∧ AtHeader t c (c.f.pc + 4 * o.signExtend 64))
   ∧ (∀ (k : BitVec 3) o s c, k ≠ 0 → Issues s c [] 0 none →
       let a := if c.g.sreg (55 + k.toNat) ≠ 0 then c.f.pc + 4 * o.signExtend 64 else c.after 4
       ∃ t, exec (.brc k o) s = .next t ∧ Done s t c a c.g ∧ AtHeader t c a)
   ∧ (∀ o s c, Issues s c [] 0 none → ∃ t g, exec (.call o) s = .next t
       ∧ Done s t c (c.f.pc + 4 * o.signExtend 64) g ∧ WritesS c.g g 63 (c.after 4) ∧ AtHeader t c (c.f.pc + 4 * o.signExtend 64))
   ∧ (∀ a s c, Issues s c [] 0 none → (c.s a).extractLsb' 0 2 = 0 →
       (∃ t, exec (.ret a) s = .next t ∧ Done s t c (c.s a) c.g ∧ AtHeader t c (c.s a))
       ∧ ∃ t, exec (.jmp a) s = .next t ∧ Done s t c (c.s a) c.g ∧ AtHeader t c (c.s a))
   ∧ (∀ s c, Issues s c [] 0 none → ∃ t, exec .yield s = .next t ∧ Done s t c (c.after 4) c.g ∧ AtHeader t c (c.after 4)
       ∧ FragIs t c.gid c.fid fun _ f => f.stamp = s.fresh ∧ f.run = 0 ∧ t.fresh = s.fresh + 1))
  ∧ (∀ (p : BitVec 3) o l s c, Issues s c [] 0 none →
     let taken := fun i => c.f.mask.getLsbD i && (c.g.pred p.toNat).getLsbD i
     let nf := c.g.frags.length
     let nj := c.g.joins.length
     ((∀ i, c.f.mask.getLsbD i = true → taken i = true) →
       ∃ t, exec (.brv p o l) s = .next t ∧ Done s t c (c.f.pc + 4 * o.signExtend 64) c.g)
     ∧ (c.f.mask ≠ 0 → (∀ i, taken i = false) → ∃ t, exec (.brv p o l) s = .next t ∧ Done s t c (c.after 8) c.g)
     ∧ ((∃ i, taken i = true) → (∃ i, c.f.mask.getLsbD i = true ∧ taken i = false) →
         (32 ≤ nf ∨ 31 ≤ nj → exec (.brv p o l) s = .next (s.trap c 0x06 0 (nf + 1 + 256 * (nj + 1))))
         ∧ ∀ fid j, c.g.frags.firstFree 32 = some fid → c.g.joins.firstFree 31 = some j → nf < 32 → nj < 31 →
           (s.poolUsed (gidCore c.gid) + 2 ≤ 128 → ∃ t, exec (.brv p o l) s = .next t ∧ SameMemory s t
               ∧ FragIs t c.gid c.fid (fun g f => (∀ i, f.mask.getLsbD i = taken i) ∧ f.pc = c.f.pc + 4 * o.signExtend 64
                   ∧ f.join = some j ∧ f.fmt = c.f.fmt
                   ∧ g.joins.find j = some ⟨c.f.pc + 4 * l.signExtend 64, c.f.fmt, c.f.join, 2⟩ ∧ g.v = c.g.v ∧ g.s = c.g.s ∧ g.p = c.g.p)
               ∧ FragIs t c.gid fid fun _ f => (∀ i, f.mask.getLsbD i = (c.f.mask.getLsbD i && !taken i)) ∧ f.pc = c.after 8
                   ∧ f.join = some j ∧ f.fmt = c.f.fmt)
           ∧ (128 < s.poolUsed (gidCore c.gid) + 2 → ∃ t, exec (.brv p o l) s = .next t ∧ SameMemory s t
               ∧ FragIs t c.gid c.fid (fun _ f => f = { c.f with state := .splitWait })
               ∧ Instr.splitWaitRetry (BitVec.ofNat 18 c.gid) (BitVec.ofNat 5 c.fid) ∈ t.due)))
  ∧ ∀ (gv : Gid) (fv : BitVec 5) (s : State) g f, s.group? gv.toNat = some g → g.frags.find fv.toNat = some f → f.state = .splitWait →
    (s.poolUsed (gidCore gv.toNat) + 2 ≤ 128 → ∃ t, exec (.splitWaitRetry gv fv) s = .next t ∧ SameMemory s t
      ∧ FragIs t gv.toNat fv.toNat fun x y => y = { f with state := .ready } ∧ x = { g with frags := x.frags })
    ∧ (128 < s.poolUsed (gidCore gv.toNat) + 2 → ∃ t, exec (.splitWaitRetry gv fv) s = .next t ∧ SameMemory s t ∧ t.groups = s.groups)

/-- R34, R35, R192: JOIN. Without a join entry it is a branch to the fall-through successor; while siblings have yet to
arrive the fragment waits; the last arrival fuses all that have arrived, at the reconvergence address with the saved fmt. -/
def Obligations.JoinsFuseTheArrivedFragments : Prop :=
  (∀ s c, Issues s c [] 0 none → c.f.join = none →
    ∃ t, exec .join s = .next t ∧ Done s t c (c.after 4) c.g ∧ AtHeader t c (c.after 4))
  ∧ (∀ s c j e, Issues s c [] 0 none → c.f.join = some j → c.g.joins.find j = some e → 2 ≤ e.pending → AnotherReady c →
    ∃ t, exec .join s = .next t ∧ SameMemory s t ∧ FragIs t c.gid c.fid fun g f => f.state = .joinWait ∧ f.mask = c.f.mask
      ∧ f.pc = c.after 4 ∧ g.joins.find j = some { e with pending := e.pending - 1 } ∧ g.v = c.g.v ∧ g.s = c.g.s ∧ g.p = c.g.p)
  ∧ ∀ s c j e, Issues s c [] 0 none → c.f.join = some j → c.g.joins.find j = some e → e.pending = 1 →
    ∃ t k, exec .join s = .next t ∧ SameMemory s t ∧ FragIs t c.gid k fun g f => f.state = .ready ∧ f.pc = e.rcv ∧ f.fmt = e.savedFmt
      ∧ f.join = e.parent ∧ g.joins.find j = none ∧ g.v = c.g.v ∧ g.s = c.g.s ∧ g.p = c.g.p
      ∧ (∀ i, c.f.mask.getLsbD i = true → f.mask.getLsbD i = true)
      ∧ (∀ x y i, x ≠ c.fid → c.g.frags.find x = some y → y.join = some j → y.state = .joinWait → y.mask.getLsbD i = true →
          f.mask.getLsbD i = true)
      ∧ ∀ i, f.mask.getLsbD i = true → c.f.mask.getLsbD i = true ∨ ∃ y ∈ c.g.frags, y.2.join = some j ∧ y.2.state = .joinWait ∧
          y.2.mask.getLsbD i = true

/-- R31, R41, R44, R200, R204: the barriers hold a fragment until the rest of the group has arrived and then release it with an acquire;
EXIT removes the fragment, and the last one sets the group's retirement going once lc and ec are 0. -/
def Obligations.BarriersHoldAndExitRemoves : Prop :=
  (∀ s c, Issues s c [] 0 none → AnotherReady c →
    (∃ t, exec .barGrp s = .next t ∧ SameMemory s t ∧ FragIs t c.gid c.fid fun g f => f.state = .barWait ∧ f.pc = c.after 4
      ∧ f.mask = c.f.mask ∧ f.fmt = c.f.fmt ∧ g.v = c.g.v ∧ g.s = c.g.s ∧ g.p = c.g.p)
    ∧ ∃ t, exec .barGang s = .next t ∧ SameMemory s t ∧ FragIs t c.gid c.fid fun g f => f.state = .gangBarWait ∧ f.pc = c.after 4
      ∧ f.mask = c.f.mask ∧ f.fmt = c.f.fmt ∧ g.v = c.g.v ∧ g.s = c.g.s ∧ g.p = c.g.p)
  ∧ (∀ s c, Issues s c [] 0 none → c.g.frags = [(c.fid, c.f)] → c.g.halt = none → s.drained c.g c.g.nextOp = true →
    ∃ t, exec .barGrp s = .next t ∧ SameMemory s t ∧ t.caches = (s.acquire (gidCore c.gid)).caches
      ∧ FragIs t c.gid c.fid fun _ f => f.state = .ready ∧ f.pc = c.after 4 ∧ f.mask = c.f.mask ∧ f.fmt = c.f.fmt)
  ∧ (∀ s c, Issues s c [] 0 none → c.f.join = none → AnotherReady c →
    ∃ t g, exec .exit s = .next t ∧ SameMemory s t ∧ t.group? c.gid = some g ∧ g.frags.find c.fid = none
      ∧ (∀ k, k ≠ c.fid → (g.frags.find k).map Frag.kept = (c.g.frags.find k).map Frag.kept)
      ∧ g.v = c.g.v ∧ g.s = c.g.s ∧ g.p = c.g.p ∧ g.loads = c.g.loads ∧ g.engs = c.g.engs)
  ∧ ∀ s c, Issues s c [] 0 none → c.f.join = none → c.g.frags = [(c.fid, c.f)] → c.g.lc = 0 → s.ec c.gid c.g = 0 →
    ∃ t g, exec .exit s = .next t ∧ SameMemory s t ∧ t.group? c.gid = some g ∧ g.frags = []
      ∧ Instr.groupRetire (BitVec.ofNat 18 c.gid) ∈ t.due

/-! ### fmt, special registers and index descriptors (03, 08) -/

/-- R59: a value of fmt without a reserved code in RM, FA, FB or FC and with its rsvd bits 0. -/
def Sys2Proof.Machine.FmtAssigned (w : Word) : Prop :=
  (w.extractLsb' 0 3).toNat ≤ 4 ∧ (w.extractLsb' 4 4).toNat ≤ 11 ∧ (w.extractLsb' 8 4).toNat ≤ 11
    ∧ (w.extractLsb' 12 4).toNat ≤ 11 ∧ w.extractLsb' 24 8 = 0

/-- R59, R61, R196, R198: FMTSET, FMTGET and WRSR: what they write, and the illegal-encoding fault of a forbidden value. -/
def Obligations.FmtAndFlagsAreWrittenWhole : Prop :=
  (∀ d a b s c, Issues s c [] 0 none →
    let m := (c.s b).extractLsb' 0 32
    let new := (c.f.fmt &&& ~~~m) ||| ((c.s a).extractLsb' 0 32 &&& m)
    (FmtAssigned new → ∃ t g h, exec (.fmtset d a b) s = .next t ∧ Done s t c (c.after 4) h ∧ WritesS g h d.toNat (c.f.fmt.zeroExtend 64)
      ∧ g = { c.g with frags := g.frags } ∧ g.frags.find c.fid = some { c.f with fmt := new }
      ∧ ∀ k, k ≠ c.fid → g.frags.find k = c.g.frags.find k)
    ∧ (¬FmtAssigned new → exec (.fmtset d a b) s = .next (s.trap c 0x02 0 new.toNat)))
  ∧ (∀ d, ScalarResult (.fmtget d) 4 d fun c => c.f.fmt.zeroExtend 64)
  ∧ (∀ a s c, Issues s c [] 0 none →
    ((c.s a).extractLsb' 32 32 = 0 ∧ FmtAssigned ((c.s a).extractLsb' 0 32) →
      ∃ t g, exec (.wrsr a 0x0A) s = .next t ∧ Done s t c (c.after 4) g ∧ g = { c.g with frags := g.frags }
        ∧ g.frags.find c.fid = some { c.f with fmt := (c.s a).extractLsb' 0 32 } ∧ ∀ k, k ≠ c.fid → g.frags.find k = c.g.frags.find k)
    ∧ (¬((c.s a).extractLsb' 32 32 = 0 ∧ FmtAssigned ((c.s a).extractLsb' 0 32)) →
      exec (.wrsr a 0x0A) s = .next (s.trap c 0x02 0 (c.s a).toNat)))
  ∧ ∀ a s c, Issues s c [] 0 none →
    ((c.s a).extractLsb' 8 56 = 0 →
      ∃ t, exec (.wrsr a 0x0B) s = .next t ∧ Done s t c (c.after 4) { c.g with flags := (c.s a).extractLsb' 0 8 })
    ∧ ((c.s a).extractLsb' 8 56 ≠ 0 → exec (.wrsr a 0x0B) s = .next (s.trap c 0x02 0 (c.s a).toNat))

/-- R56, R64, R197, R199: RDSR in both forms, with the registers of the group, and IDXSET. -/
def Obligations.SpecialRegistersReadAndIndexSet : Prop :=
  (∀ d (n : BitVec 6) s c, 2 ≤ n.toNat → n.toNat ≤ 0x12 → Issues s c [] 0 none →
    ∃ t g, exec (.rdsrScalar d n) s = .next t ∧ Done s t c (c.after 4) g ∧ WritesS c.g g d.toNat (specialReg s c n.toNat))
  ∧ (∀ s c, specialReg s c 0x02 = c.g.index.zeroExtend 64 ∧ specialReg s c 0x03 = c.g.gang.zeroExtend 64
      ∧ specialReg s c 0x04 = c.g.grid.zeroExtend 64 ∧ specialReg s c 0x05 = BitVec.ofNat 64 (c.gid / 4096)
      ∧ specialReg s c 0x06 = BitVec.ofNat 64 (c.gid / 256 % 16) ∧ specialReg s c 0x07 = BitVec.ofNat 64 (c.gid / 64 % 4)
      ∧ specialReg s c 0x08 = c.g.depth.zeroExtend 64 ∧ specialReg s c 0x0A = c.f.fmt.zeroExtend 64
      ∧ specialReg s c 0x0B = c.g.flags.zeroExtend 64 ∧ specialReg s c 0x0C = BitVec.ofNat 64 (c.g.ob.toNat * 2 ^ 16 + c.g.cb.toNat)
      ∧ specialReg s c 0x0D = c.g.tenant.zeroExtend 64 ∧ specialReg s c 0x0F = BitVec.ofNat 64 c.gid
      ∧ specialReg s c 0x10 = BitVec.ofNat 64 c.g.lanes ∧ specialReg s c 0x11 = BitVec.ofNat 64 c.g.regs
      ∧ specialReg s c 0x12 = BitVec.ofNat 64 (s.ec c.gid c.g * 2 ^ 16 + s.sc c.g * 2 ^ 8 + c.g.lc))
  ∧ (∀ g d, PureResult (.rdsrLane g d 0) g d [] fun _ l => ⟨BitVec.ofNat 32 l, false⟩)
  ∧ (∀ g d, PureResult (.rdsrLane g d 1) g d [] fun _ l => ⟨BitVec.ofNat 32 (l / 32), false⟩)
  ∧ ∀ a (k : BitVec 2) s c, Issues s c [] 0 none →
    ∃ t g, exec (.idxset a k) s = .next t ∧ Done s t c (c.after 4) g ∧ g = { c.g with idx := g.idx }
      ∧ g.idxEn k.toNat = (c.s a).getLsbD 15 ∧ g.idxHi k.toNat = ((c.s a).extractLsb' 8 7).toNat
      ∧ g.idxLo k.toNat = ((c.s a).extractLsb' 0 7).toNat ∧ ∀ j, j ≠ k.toNat → g.idx.get 0 j = c.g.idx.get 0 j

/-! ### Calls, traps and exceptions (08, 18) -/

/-- R103, R202, R205, R206: SYSC, TRAPI and LAUNCH. SYSC and TRAPI are releases, and wait until every older access of the group is
performed; then the fragment waits, with a record of its own in its cluster. LAUNCH then waits for the reading of its record.
The model's choice: that a LAUNCH too waits until every older access is performed, and takes its place in the issue order then (log 59). -/
def Obligations.CallsAndLaunchesHoldTheFragment : Prop :=
  (∀ g a n s c, Issues s c [a.toNat, a.toNat + 1, a.toNat + 2, a.toNat + 3, a.toNat + 4, a.toNat + 5] g.toNat none →
    (s.drained c.g c.upto = true → ∃ t h r, exec (.sysc g a n) s = .next t ∧ SameMemory s t
      ∧ FragIs t c.gid c.fid (fun x f => f.state = .callWait ∧ f.pc = c.f.pc ∧ f.mask = c.f.mask
          ∧ f.call = some ⟨1, a.toNat, n.toNat, c.guarded g.toNat, some h⟩ ∧ x.v = c.g.v ∧ x.s = c.g.s ∧ x.p = c.g.p ∧ x.flags = c.g.flags)
      ∧ (t.cluster (gidCluster c.gid)).handles.find h = some r ∧ r.kind = 1 ∧ r.gid = c.gid ∧ r.frag = c.fid
      ∧ r.callers = c.guarded g.toNat)
    ∧ (s.drained c.g c.upto = false → ∃ t, exec (.sysc g a n) s = .next t ∧ Waits s t c (.drain c.upto)))
  ∧ (∀ d n s c, Issues s c [] 0 none →
    (s.drained c.g c.upto = true → ∃ t h r, exec (.trapi d n) s = .next t ∧ SameMemory s t
      ∧ FragIs t c.gid c.fid (fun x f => f.state = .callWait ∧ f.pc = c.f.pc ∧ f.mask = c.f.mask
          ∧ f.call = some ⟨2, d.toNat, n.toNat, c.f.mask, some h⟩ ∧ x.v = c.g.v ∧ x.s = c.g.s ∧ x.p = c.g.p ∧ x.flags = c.g.flags)
      ∧ (t.cluster (gidCluster c.gid)).handles.find h = some r ∧ r.kind = 2 ∧ r.gid = c.gid ∧ r.frag = c.fid)
    ∧ (s.drained c.g c.upto = false → ∃ t, exec (.trapi d n) s = .next t ∧ Waits s t c (.drain c.upto)))
  ∧ ∀ g d a b s c, Issues s c [d.toNat, a.toNat, b.toNat] g.toNat none →
    (c.g.depth.toNat ≠ 10 → s.drained c.g c.upto = true → ∃ t, exec (.launch g d a b) s = .next t ∧ SameMemory s t
      ∧ FragIs t c.gid c.fid (fun x f => f.state = .opWait ∧ f.pc = c.f.pc ∧ f.mask = c.f.mask
          ∧ f.hold = .launch d.toNat (c.guarded g.toNat)
              ((c.vd (lowestLane c.f.mask) b).toNat * 2 ^ 32 + (c.vd (lowestLane c.f.mask) a).toNat) [] c.g.ob.toNat c.g.nextOp
          ∧ x.nextOp = c.g.nextOp + 1
          ∧ x.v = c.g.v ∧ x.s = c.g.s ∧ x.p = c.g.p ∧ x.flags = c.g.flags)
      ∧ Instr.launchRecordAccept (BitVec.ofNat 6 (gidDie c.gid)) (.group (BitVec.ofNat 18 c.gid) (BitVec.ofNat 5 c.fid)) ∈ t.due)
    ∧ (c.g.depth.toNat ≠ 10 → s.drained c.g c.upto = false → ∃ t, exec (.launch g d a b) s = .next t ∧ Waits s t c (.drain c.upto))
    ∧ (c.g.depth.toNat = 10 → exec (.launch g d a b) s = .next (s.trap c 0x07 0 10))

/-- R371: a record that die d forms is new: none of its records has been written for a move that was stalled and is still to run. -/
def Sys2Proof.Machine.FormsNew (s : State) (d : Nat) : Prop := (s.die d).credits = []

/-- R61, R207, R365, R366, R371, R372, R375, R378: taking an exception: one error record of severity 1 in the die's log, the halt of the
group with the fault's class, cause and address, a kind 4 record for the service core, and nothing else of the group; a group that is
already halted keeps its halt's class and cause, and where that halt has posted no kind 4 record it posts one now. BRK halts after
itself, and an enabled arithmetic trap comes after the instruction's effect.
The model's choice: where the record is held, what is held with it, and that the whole group stalls meanwhile (log 33). -/
def Obligations.ExceptionsRecordAndHalt : Prop :=
  (∀ (s : State) (gid : Nat) (g : Group) (e : Exc), s.group? gid = some g → e.cause < 256 → FormsNew s (gidDie gid) →
     let d := gidDie gid
     let t := s.takeException gid e
     let r := { mkRec 1 e.cls e.cause (6 + if e.addr = 0 then 0 else 8) g.tenant.toNat gid (unitOf 0 (gidCore gid)) e.pc e.addr e.detail with
       seq := (s.die d).seq + 1, clock := s.clock d % 2 ^ 64 }
     let slot := logSlot d ((s.die d).seq + 1)
     (t.die d).seq = (s.die d).seq + 1
     ∧ (∀ k, k ≠ gid → t.group? k = s.group? k)
     ∧ ((s.die d).undelivered.has (((s.die d).seq + 1) % 4096) = false →
         (g.halt = none → t.group? gid = some { g with halt := some ⟨e.cls, e.cause, BitVec.ofNat 64 e.pc, false, true⟩ })
         ∧ (∀ h, g.halt = some h → t.group? gid = some { g with halt := some { h with posted := true } })
         ∧ ((∀ h, g.halt = some h → h.posted = false) →
             ∃ h x, (t.cluster (gidCluster gid)).handles.find h = some x ∧ x.kind = 4 ∧ x.gid = gid)
         ∧ ∀ a, t.readByte a = if slot ≤ a ∧ a < slot + 64 then (r.bytes d ++ leBytes 8 r.seq).getD (a - slot) 0 else s.readByte a)
     ∧ ((s.die d).undelivered.has (((s.die d).seq + 1) % 4096) = true →
         (t.die d).heldRecs = (s.die d).heldRecs ++ [⟨r, some (gid, 256 * e.cls + e.cause, e.pc), none⟩]
         ∧ t.group? gid = some { g with stalled := true } ∧ SameMemory s t))
  ∧ (∀ n s c, Issues s c [] 0 none → ∃ t, Done s t c (c.after 4) c.g
    ∧ exec (.brk n) s = .next (t.takeException c.gid ⟨1, 0x0C, c.pc, 0, n.toNat⟩))
  ∧ (∀ g d a b s c, Issues s c [d.toNat, a.toNat, b.toNat] g.toNat none →
    let fl := c.ioFlag (c.lanes g.toNat) [a.toNat, b.toNat]
    fl &&& c.te ≠ 0 → ∃ t h, Done s t c (c.after 4) { h with flags := c.g.flags ||| fl }
      ∧ WritesV c.g h d.toNat (c.Lane g.toNat) (fun l => ⟨c.vd l a + c.vd l b, false⟩)
      ∧ exec (.vadd g d a b) s = .next (t.takeException c.gid ⟨1, 0x0D, c.pc, 0, (fl &&& c.te).toNat⟩))
  ∧ ∀ g d a b s c, Issues s c [d.toNat, a.toNat, b.toNat] g.toNat none →
    let val := fun l => roundArith fp32 c.rm (fmul (c.fv l a) (c.fv l b)) false
    let fl := c.ioFlag (c.lanes g.toNat) [a.toNat, b.toNat] ||| orFlags (c.lanes g.toNat) fun l => (val l).2
    fl &&& c.te ≠ 0 → ∃ t h, Done s t c (c.after 4) { h with flags := c.g.flags ||| fl }
      ∧ WritesV c.g h d.toNat (c.Lane g.toNat) (fun l => ⟨BitVec.ofNat 32 (val l).1, false⟩)
      ∧ exec (.fmul g d a b) s = .next (t.takeException c.gid ⟨1, 0x0D, c.pc, 0, (fl &&& c.te).toNat⟩)

/-! ### Loads, stores and atomics (08, 10) -/

/-- R238: an access of the lanes `ls` at `ea`: where every lane is aligned `P` holds, and where one is not the lowest such
lane's address is reported and nothing else happens. -/
def Sys2Proof.Machine.AlignedOr (i : Instr) (s : State) (c : Ctx) (ls : List Nat) (ea : Nat → Nat) (al : Nat) (P : Prop) : Prop :=
  ((∀ l ∈ ls, ea l % al = 0) → P)
  ∧ ∀ l ∈ ls, ea l % al ≠ 0 → (∀ m ∈ ls, m < l → ea m % al = 0) → exec i s = .next (s.trap c 0x0A (ea l) 0)

/-- R72: offsets within the grant give `P`; else the lowest offset beyond it is reported. -/
def Sys2Proof.Machine.BoundedOr (i : Instr) (s : State) (c : Ctx) (ls : List Nat) (off : Nat → Nat) (size : Nat) (P : Prop) : Prop :=
  let n := (s.grantOf c.gid c.g).2
  ((∀ l ∈ ls, off l + size ≤ n) → P)
  ∧ ((∃ l ∈ ls, n < off l + size) → ∃ l ∈ ls, n < off l + size ∧ (∀ m ∈ ls, n < off m + size → max (off l) n ≤ max (off m) n)
      ∧ exec i s = .next (s.trap c 0x0B (max (off l) n) n))

/-- R239: the width in bits of an access type. -/
def Sys2Proof.Machine.accessBits (u : BitVec 4) : Nat := [32, 8, 16, 32, 8, 16, 32, 32, 16, 16, 8, 8, 6, 6, 4, 2].getD u.toNat 0

/-- R249: the width in bits of a scratchpad type. -/
def Sys2Proof.Machine.padBits (u : BitVec 4) : Nat := [32, 8, 16, 8, 16, 16, 16, 32].getD (u.toNat % 8) 0

/-- R127: the width in bits of an MX element. -/
def Sys2Proof.Machine.mxBits (u : BitVec 4) : Nat := [8, 8, 6, 6, 4].getD (u.toNat - 3) 0

/-- R132, R240: the bytes that hold element l of a stream at `a` of `w`-bit elements. -/
def Sys2Proof.Machine.elemBytes (a w l : Nat) : List Nat :=
  (List.range ((w * l + w - 1) / 8 + 1 - w * l / 8)).map (a + w * l / 8 + ·)

/-- R188, R189: SLD and SST: their address, their bytes and the alignment fault. -/
def Obligations.ScalarLoadsAndStoresIssue : Prop :=
  (∀ d a b (o : BitVec 3) (e : BitVec 1) (z : BitVec 2) s c, o.toNat ≤ 5 → ¬(z = 3 ∧ e = 1) → Issues s c [] 0 (some 0) →
    let ea := (c.s a + c.s b).toNat
    AlignedOr (.sld d a b o e z) s c [0] (fun _ => ea) (2 ^ z.toNat) (∃ t, exec (.sld d a b o e z) s = .next t
      ∧ LoadIssued s t c (.scalar z.toNat (e == 1)) d.toNat (if o = 0 then none else some o.toNat) none 0 [0]
          fun _ => (List.range (2 ^ z.toNat)).map (ea + ·)))
  ∧ ∀ d a b (o : BitVec 3) (z : BitVec 2) s c, o.toNat ≤ 5 → Issues s c [] 0 (some 1) →
    let ea := (c.s a + c.s b).toNat
    AlignedOr (.sst d a b o z) s c [0] (fun _ => ea) (2 ^ z.toNat) (∃ t, exec (.sst d a b o z) s = .next t
      ∧ StoreIssued s t c .plain (if o = 0 then none else some o.toNat)
          [(0, (List.range (2 ^ z.toNat)).map fun i => ⟨ea + i, 0xFF, (c.s d).extractLsb' (8 * i) 8⟩)] 0)

/-- R238 to R244, R249: the loads of a vector register: the bytes that each lane whose guard holds reads.
The model's choice: LDMX reads no element of a lane that takes no part (log 50). -/
def Obligations.VectorLoadsNameTheirBytes : Prop :=
  (∀ g la v n u s c, Issues s c [v.toNat] g.toNat (some 0) →
    let w := accessBits u
    let a := (c.s n).toNat
    AlignedOr (.ld g la v n u) s c (c.lanes g.toNat) (fun l => (a + w * l / 8) % 2 ^ 64) (max 1 (w / 8)) (∃ t, exec (.ld g la v n u) s = .next t
      ∧ LoadIssued s t c (.typed u.toNat) v.toNat none none la.toNat (c.lanes g.toNat) fun l => elemBytes a w l))
  ∧ (∀ g la v n (sc : BitVec 3) s c, 1 ≤ sc.toNat → sc.toNat ≤ 5 → Issues s c [v.toNat] g.toNat (some 0) →
    let a := (c.s n).toNat
    AlignedOr (.ldacq g la v n sc) s c (c.lanes g.toNat) (fun l => (a + 4 * l) % 2 ^ 64) 4 (∃ t, exec (.ldacq g la v n sc) s = .next t
      ∧ LoadIssued s t c (.typed 0) v.toNat (some sc.toNat) none la.toNat (c.lanes g.toNat) fun l => elemBytes a 32 l))
  ∧ (∀ g la v n (u : BitVec 4) s c, u.toNat ≤ 11 → Issues s c [v.toNat, v.toNat + 1] g.toNat (some 0) →
    let w := accessBits u / 8
    let ea := fun l => (c.s n + (c.g.vreg l (v.toNat + 1)).data.signExtend 64).toNat
    AlignedOr (.ldg g la v n u) s c (c.lanes g.toNat) ea w (∃ t, exec (.ldg g la v n u) s = .next t
      ∧ LoadIssued s t c (.typed u.toNat) v.toNat none none la.toNat (c.lanes g.toNat) fun l => (List.range w).map (ea l + ·)))
  ∧ (∀ g la v n s c, Issues s c [v.toNat] g.toNat (some 0) →
    let a := (c.s n).toNat
    AlignedOr (.ldx g la v n) s c (c.lanes g.toNat) (fun l => (a + 132 * (l / 32) + 4 * (l % 32)) % 2 ^ 64) 4 (∃ t, exec (.ldx g la v n) s = .next t
      ∧ LoadIssued s t c .spill v.toNat none none la.toNat (c.lanes g.toNat) fun l =>
          (List.range 4).map ((a + 132 * (l / 32) + 4 * (l % 32)) % 2 ^ 64 + ·) ++ (List.range 4).map ((a + 132 * (l / 32) + 128) % 2 ^ 64 + ·)))
  ∧ (∀ g la v (n : BitVec 6) (u : BitVec 4) s c, 3 ≤ u.toNat → u.toNat ≤ 7 → n.toNat ≤ 62 → Issues s c [v.toNat] g.toNat (some 0) →
    let w := mxBits u
    ∃ t, exec (.ldmx g la v n u) s = .next t ∧ LoadIssued s t c (.mx u.toNat) v.toNat none none la.toNat (c.lanes g.toNat) fun l =>
      elemBytes (((c.s n).toNat + 4 * w * (l / 32)) % 2 ^ 64) w (l % 32) ++ [((c.g.sreg (n.toNat + 1)).toNat + l / 32) % 2 ^ 64])
  ∧ ∀ g la v n (u : BitVec 4) s c, Issues s c (if u.getLsbD 3 then [v.toNat, v.toNat + 1] else [v.toNat]) g.toNat (some 0) →
    let w := padBits u / 8
    let off := fun l => if u.getLsbD 3 then (c.s n + (c.g.vreg l (v.toNat + 1)).data.zeroExtend 64).toNat else (c.s n).toNat + w * l
    AlignedOr (.lds g la v n u) s c (c.lanes g.toNat) off w <|
      (∀ l ∈ c.lanes g.toNat, off l % w = 0) → BoundedOr (.lds g la v n u) s c (c.lanes g.toNat) off w (∃ t, exec (.lds g la v n u) s = .next t
        ∧ LoadIssued s t c (.scratch (u.toNat % 8)) v.toNat none none la.toNat (c.lanes g.toNat) fun l => (List.range w).map (off l + ·))

/-- R240: the bits that the writes of one element of a stream at `a` leave, from the bytes `old`. -/
def Sys2Proof.Machine.bitAfter (a w l v : Nat) (old : Nat → Byte) (k : Nat) : Bool :=
  (((elemWrites a w l v).filter fun e => e.addr == a + k / 8).foldl (fun b e => e.on b) (old (a + k / 8))).getLsbD (k % 8)

/-- R132, R239 to R246, R249, R256, R257: the stores of a vector register, the pushes and the cache maintenance: the writes of each
lane whose guard holds, and the flags; a packed element writes its own bits and no other. -/
def Obligations.VectorStoresNameTheirWrites : Prop :=
  (∀ (a l v k : Nat) (u : BitVec 4) (old : Nat → Byte), let w := accessBits u
     bitAfter a w l v old k = if w * l ≤ k ∧ k < w * l + w then v.testBit (k - w * l) else (old (a + k / 8)).getLsbD (k % 8))
  ∧ (∀ g v n u s c, Issues s c [v.toNat] g.toNat (some 1) →
    let w := accessBits u
    let a := (c.s n).toNat
    let fl := c.storeFlags u.toNat (c.lanes g.toNat) v
    AlignedOr (.st g v n u) s c (c.lanes g.toNat) (fun l => (a + w * l / 8) % 2 ^ 64) (max 1 (w / 8)) (∃ t, exec (.st g v n u) s = .next (c.ends fl t)
      ∧ StoreIssued s t c .plain none ((c.lanes g.toNat).map fun l => (l, elemWrites a w l (storeElem u.toNat c.rm c.sat (c.v l v)).1)) fl))
  ∧ (∀ g v n (sc : BitVec 3) s c, 1 ≤ sc.toNat → sc.toNat ≤ 5 → Issues s c [v.toNat] g.toNat (some 1) →
    let a := (c.s n).toNat
    let fl := c.sdFlag (c.lanes g.toNat) v.toNat
    AlignedOr (.strel g v n sc) s c (c.lanes g.toNat) (fun l => (a + 4 * l) % 2 ^ 64) 4 (∃ t, exec (.strel g v n sc) s = .next (c.ends fl t)
      ∧ StoreIssued s t c .plain (some sc.toNat) ((c.lanes g.toNat).map fun l => (l, elemWrites a 32 l (c.vd l v).toNat)) fl))
  ∧ (∀ g v (n : BitVec 6) (u : BitVec 4) s c, u.toNat ≤ 11 → n.toNat ≤ 61 → Issues s c [v.toNat] g.toNat (some 1) →
    let w := accessBits u
    let a := (c.s n).toNat
    let fl := c.storeFlags u.toNat (c.lanes g.toNat) v
    AlignedOr (.pst g v n u) s c (c.lanes g.toNat) (fun l => (a + w * l / 8) % 2 ^ 64) (max 1 (w / 8)) (∃ t ts, exec (.pst g v n u) s = .next (c.ends fl t)
      ∧ StoreIssued s t c (if ts = [] then .plain else .push ts) none
          ((c.lanes g.toNat).map fun l => (l, elemWrites a w l (storeElem u.toNat c.rm c.sat (c.v l v)).1)) fl
      ∧ ts.Nodup ∧ ∀ k, k ∈ ts ↔ ∃ j < 8,
          let set := (c.g.sreg (n.toNat + 2) ++ c.g.sreg (n.toNat + 1) : BitVec 128).extractLsb' (16 * j) 16
          set.getLsbD 15 = true ∧ k / 4 = (set.extractLsb' 4 10).toNat ∧ set.getLsbD (k % 4) = true))
  ∧ (∀ g v n (u : BitVec 4) s c, u.toNat ≤ 11 → Issues s c [v.toNat, v.toNat + 1] g.toNat (some 1) →
    let w := accessBits u / 8
    let ea := fun l => (c.s n + (c.g.vreg l (v.toNat + 1)).data.signExtend 64).toNat
    let fl := c.storeFlags u.toNat (c.lanes g.toNat) v
    AlignedOr (.stg g v n u) s c (c.lanes g.toNat) ea w (∃ t, exec (.stg g v n u) s = .next (c.ends fl t)
      ∧ StoreIssued s t c .plain none ((c.lanes g.toNat).map fun l => (l, byteWrites (ea l) (leBytes w (storeElem u.toNat c.rm c.sat (c.v l v)).1))) fl))
  ∧ (∀ g v n s c, Issues s c [v.toNat] g.toNat (some 1) →
    let a := (c.s n).toNat
    AlignedOr (.stx g v n) s c (c.lanes g.toNat) (fun l => (a + 132 * (l / 32) + 4 * (l % 32)) % 2 ^ 64) 4 (∃ t, exec (.stx g v n) s = .next t
      ∧ StoreIssued s t c .plain none ((c.lanes g.toNat).map fun l =>
          (l, byteWrites ((a + 132 * (l / 32) + 4 * (l % 32)) % 2 ^ 64) (leBytes 4 (c.vd l v).toNat)
            ++ [⟨(a + 132 * (l / 32) + 128) % 2 ^ 64 + l % 32 / 8, BitVec.twoPow 8 (l % 8), if (c.v l v).s then BitVec.twoPow 8 (l % 8) else 0⟩])) 0))
  ∧ (∀ g v (n : BitVec 6) (u : BitVec 4) s c, 3 ≤ u.toNat → u.toNat ≤ 7 → n.toNat ≤ 62 → Issues s c [v.toNat] g.toNat (some 1) →
    let w := mxBits u
    let rows := ((c.lanes g.toNat).map fun l => l / 32).dedup
    let fl := rows.foldl (fun f r => f ||| (c.mxBlock v u.toNat r).2.2) 0
    ∃ t, exec (.stmx g v n u) s = .next (c.ends fl t) ∧ StoreIssued s t c .plain none (rows.map fun r => (32 * r,
        ((List.range 32).flatMap fun i => elemWrites (((c.s n).toNat + 4 * w * r) % 2 ^ 64) w i ((c.mxBlock v u.toNat r).2.1.getD i 0))
          ++ byteWrites (((c.g.sreg (n.toNat + 1)).toNat + r) % 2 ^ 64) [BitVec.ofNat 8 (c.mxBlock v u.toNat r).1])) fl)
  ∧ (∀ (g : BitVec 3) (v : BitVec 7) (n : BitVec 6) (u : BitVec 4) s c,
    Issues s c (if u.getLsbD 3 then [v.toNat, v.toNat + 1] else [v.toNat]) g.toNat (some 1) →
    let sub := [0, 1, 2, 4, 5, 8, 9, 7].getD (u.toNat % 8) 0
    let w := padBits u / 8
    let off := fun l => if u.getLsbD 3 then (c.s n + (c.g.vreg l (v.toNat + 1)).data.zeroExtend 64).toNat else (c.s n).toNat + w * l
    let fl := c.storeFlags sub (c.lanes g.toNat) v
    AlignedOr (.sts g v n u) s c (c.lanes g.toNat) off w
      ((∀ l ∈ c.lanes g.toNat, off l % w = 0) → BoundedOr (.sts g v n u) s c (c.lanes g.toNat) off w (∃ t, exec (.sts g v n u) s = .next (c.ends fl t)
        ∧ StoreIssued s t c .scratch none ((c.lanes g.toNat).map fun l => (l, byteWrites (off l) (leBytes w (storeElem sub c.rm c.sat (c.v l v)).1))) fl)))
  ∧ (∀ d a b (sc : BitVec 3) s c, 1 ≤ sc.toNat → sc.toNat ≤ 5 → Issues s c [] 0 (some 1) →
    (∃ t, exec (.cinv d a b sc) s = .next t
        ∧ StoreIssued s t c (.maint false sc.toNat (c.s a).toNat ((c.s b).extractLsb' 0 32).toNat) none [] 0)
    ∧ ∃ t, exec (.cflush d a b sc) s = .next t
        ∧ StoreIssued s t c (.maint true sc.toNat (c.s a).toNat ((c.s b).extractLsb' 0 32).toNat) none [] 0)

/-- R247: the control fields of an atomic hold assigned values; `far` for FATOM. -/
def Sys2Proof.Machine.AtomAssigned (far : Bool) (la : BitVec 4) (nr : BitVec 1) (sc : BitVec 3) (o : BitVec 2) (op : BitVec 4) : Prop :=
  sc.toNat ≤ 5 ∧ (sc = 0 ↔ o = 0) ∧ op.toNat ≤ (if far then 12 else 9) ∧ (nr = 0 → op ≠ 11)
    ∧ (nr = 1 → o ≠ 1 ∧ o ≠ 3 ∧ op ≠ 8 ∧ op ≠ 9 ∧ op ≠ 12 ∧ la = 0)

/-- R247: the issue of an atomic `i` at the lanes' addresses `ea`, which its alignment has passed: a load where it returns, a
store-queue entry with the operands where it does not. -/
def Sys2Proof.Machine.AtomIssued (i : Instr) (s : State) (c : Ctx) (unit : AtomUnit) (ls : List Nat) (la : BitVec 4) (v : BitVec 7)
    (nr : BitVec 1) (sc : BitVec 3) (o : BitVec 2) (op : BitVec 4) (ea : Nat → Nat) (size : Nat) : Prop :=
  (nr = 0 → ∃ t, exec i s = .next t ∧ LoadIssued s t c (.atomic unit op.toNat) v.toNat (if o = 1 ∨ o = 3 then some sc.toNat else none)
      (if o = 2 ∨ o = 3 then some sc.toNat else none) la.toNat ls fun l => (List.range size).map (ea l + ·))
  ∧ (nr = 1 → ∃ t, exec i s = .next (c.ends (c.ioFlag ls [v.toNat]) t)
      ∧ StoreIssued s t c (.atomic unit op.toNat) (if o = 2 then some sc.toNat else none)
          (ls.map fun l => (l, (List.range size).map fun i => ⟨ea l + i, 0, 0⟩)) (c.ioFlag ls [v.toNat]))

/-- R247: ATOM, FATOM and ATOMS, with and without a result. -/
def Obligations.AtomicsIssueAtTheirLocations : Prop :=
  (∀ g la v (nr : BitVec 1) (sc : BitVec 3) (o : BitVec 2) (op : BitVec 4) s c, AtomAssigned false la nr sc o op →
    Issues s c ([v.toNat, v.toNat + 1, v.toNat + 2] ++ if op = 9 then [v.toNat + 3] else []) g.toNat (some (if nr = 1 then 1 else 0)) →
    let ea := fun l => ((c.g.vreg l (v.toNat + 2)).data ++ (c.g.vreg l (v.toNat + 1)).data : BitVec 64).toNat
    AlignedOr (.atom g la v nr sc o op) s c (c.lanes g.toNat) ea 4
      (AtomIssued (.atom g la v nr sc o op) s c .near (c.lanes g.toNat) la v nr sc o op ea 4))
  ∧ (∀ g la v (nr : BitVec 1) (sc : BitVec 3) (o : BitVec 2) (op : BitVec 4) s c, AtomAssigned true la nr sc o op →
    Issues s c ([v.toNat, v.toNat + 1, v.toNat + 2] ++ if op = 9 then [v.toNat + 3] else []) g.toNat (some (if nr = 1 then 1 else 0)) →
    let ea := fun l => ((c.g.vreg l (v.toNat + 2)).data ++ (c.g.vreg l (v.toNat + 1)).data : BitVec 64).toNat
    let size := if op = 11 ∨ op = 12 then 16 else 4
    AlignedOr (.fatom g la v nr sc o op) s c (c.lanes g.toNat) ea size
      (AtomIssued (.fatom g la v nr sc o op) s c .far (c.lanes g.toNat) la v nr sc o op ea size))
  ∧ ∀ g la v (nr : BitVec 1) (sc : BitVec 3) (o : BitVec 2) (op : BitVec 4) s c, AtomAssigned false la nr sc o op →
    Issues s c ([v.toNat, v.toNat + 1] ++ if op = 9 then [v.toNat + 3] else []) g.toNat (some (if nr = 1 then 1 else 0)) →
    let ea := fun l => (c.g.vreg l (v.toNat + 1)).data.toNat
    AlignedOr (.atoms g la v nr sc o op) s c (c.lanes g.toNat) ea 4 <|
      (∀ l ∈ c.lanes g.toNat, ea l % 4 = 0) → BoundedOr (.atoms g la v nr sc o op) s c (c.lanes g.toNat) ea 4
        (AtomIssued (.atoms g la v nr sc o op) s c .scratch (c.lanes g.toNat) la v nr sc o op ea 4)

/-! ### Fences, batches, copies and maintenance (10) -/

/-- R251: the copy that six scalars from sa describe. -/
def Sys2Proof.Machine.copyOf (c : Ctx) (a : BitVec 6) (dir : BitVec 2) : CopyDesc :=
  let r := fun k => c.g.sreg (a.toNat + k)
  ⟨dir.toNat, (r 0).toNat, (r 1).toNat, (r 2).toNat % 2 ^ 32, (r 2).toNat / 2 ^ 32, (r 3).toNat % 2 ^ 32,
    ((r 4).extractLsb' 0 32).toInt, ((r 4).extractLsb' 32 32).toInt, ((r 5).extractLsb' 0 32).toInt, ((r 5).extractLsb' 32 32).toInt⟩

/-- R251 to R253, R308: CPY and FUPD join the open batch; a copy of more than 1 MiB asks for power first.
The model's choice: an alignment fault of FUPD reports sa, whichever operand is at fault (log 50). -/
def Obligations.EngineOperationsJoinTheOpenBatch : Prop :=
  (∀ (a : BitVec 6) r s c, a.toNat ≤ 58 → Issues s c [] 0 (some 2) →
    let d := copyOf c a r
    (∀ x ∈ d.padRows, x + d.e0 ≤ (s.grantOf c.gid c.g).2) →
    (d.e0 * d.e1 * d.e2 ≤ 2 ^ 20 → ∃ t, exec (.cpy a r) s = .next t
      ∧ EngineIssued s t c (.copy d) none (.copyComplete (BitVec.ofNat 18 c.gid) c.g.nextOp))
    ∧ (2 ^ 20 < d.e0 * d.e1 * d.e2 → ∃ t w, (w = 4 ∨ w = 8) ∧ exec (.cpy a r) s = .next t
      ∧ EngineIssued (s.askPower (gidDie c.gid) w).2 t c (.copy d) (some (s.die (gidDie c.gid)).power.next)
          (.copyComplete (BitVec.ofNat 18 c.gid) c.g.nextOp)))
  ∧ (∀ (a : BitVec 6) r s c, a.toNat ≤ 58 → Issues s c [] 0 (some 2) →
    let d := copyOf c a r
    (∃ x ∈ d.padRows, (s.grantOf c.gid c.g).2 < x + d.e0) →
      ∃ lo, exec (.cpy a r) s = .next (s.trap c 0x0B lo (s.grantOf c.gid c.g).2) ∧ (s.grantOf c.gid c.g).2 ≤ lo)
  ∧ ∀ d a b (ty : BitVec 2) (o : BitVec 4) s c, ty.toNat ≤ 1 → o.toNat ≤ 6 → (ty = 1 → o.toNat < 3 ∨ o = 6) → Issues s c [] 0 (some 2) →
    let n := (c.s d).toNat
    let dst := (c.s a).toNat
    let src := (c.s b).toNat
    (4 ≤ n → n ≤ 128 → n % 4 = 0 → dst % 4 = 0 → src % 4 = 0 → dst % 128 + n ≤ 128 → src + n ≤ (s.grantOf c.gid c.g).2 →
      ∃ t, exec (.fupd d a b ty o) s = .next t
        ∧ EngineIssued s t c (.fupd o.toNat ty.toNat dst src n c.rm) none (.fupdPerformed (BitVec.ofNat 18 c.gid) c.g.nextOp))
    ∧ (n < 4 ∨ 128 < n ∨ n % 4 ≠ 0 ∨ dst % 4 ≠ 0 ∨ src % 4 ≠ 0 ∨ 128 < dst % 128 + n →
      exec (.fupd d a b ty o) s = .next (s.trap c 0x0A dst 0))
    ∧ (4 ≤ n → n ≤ 128 → n % 4 = 0 → dst % 4 = 0 → src % 4 = 0 → dst % 128 + n ≤ 128 → (s.grantOf c.gid c.g).2 < src + n →
      exec (.fupd d a b ty o) s = .next (s.trap c 0x0B (max src (s.grantOf c.gid c.g).2) (s.grantOf c.gid c.g).2))

/-- R98, R103, R246, R250, R254 to R256, R258, R259: FENCE, BCOMMIT and BWAIT, and where each waits; prefetches, the maintenance of
instruction caches, pins and PGSET.
The model's choice: whether a prefetch fills a line is free (log 12), and an ICINV waits until every older access of the group is performed
(log 45). -/
def Obligations.FencesBatchesPrefetchesAndPins : Prop :=
  ((∀ (sc : BitVec 3) s c, 1 ≤ sc.toNat → sc.toNat ≤ 5 → Issues s c [] 0 none →
     (s.drained c.g c.upto = true → ∃ u, exec (.fence sc) s = .next (u.acquire (gidCore c.gid)) ∧ Done s u c (c.after 4) c.g)
     ∧ (s.drained c.g c.upto = false → ∃ t, exec (.fence sc) s = .next t ∧ Waits s t c (.fence c.upto)))
   ∧ (∀ d s c, Issues s c [] 0 none → c.f.state = .ready →
     (c.g.lag < 15 → ∃ t, exec (.bcommit d) s = .next t ∧ SameMemory s t ∧ FragIs t c.gid c.fid fun g f =>
       f.pc = c.after 4 ∧ f.mask = c.f.mask ∧ f.fmt = c.f.fmt ∧ g.ob = c.g.ob + 1 ∧ (d ≠ 0 → g.sreg d.toNat = c.g.ob.zeroExtend 64)
       ∧ (∀ r, r ≠ d.toNat → g.sreg r = c.g.sreg r) ∧ g.v = c.g.v ∧ g.p = c.g.p ∧ g.flags = c.g.flags ∧ g.loads = c.g.loads
       ∧ g.engs = c.g.engs ∧ g.batch = c.g.batch ∧ (c.g.lag = 0 → c.g.batch.get 0 c.g.ob.toNat = 0 → g.cb = c.g.ob))
     ∧ (15 ≤ c.g.lag → ∃ t, exec (.bcommit d) s = .next t ∧ Waits s t c .lag))
   ∧ ∀ a s c, Issues s c [] 0 none → (∀ m, c.f.hold ≠ .batch m) →
     let v := (c.s a).extractLsb' 0 16
     let n := if 0 < (c.g.ob - v).toNat ∧ (c.g.ob - v).toNat < 0x8000 then v else c.g.ob - 1
     ((c.g.cb - n).toNat < 0x8000 → ∃ u, exec (.bwait a) s = .next (u.acquire (gidCore c.gid)) ∧ Done s u c (c.after 4) c.g)
     ∧ (0x8000 ≤ (c.g.cb - n).toNat → ∃ t, exec (.bwait a) s = .next t ∧ Waits s t c (.batch n.toNat)))
  ∧ (∀ d a b s c, Issues s c [] 0 none → ∃ t u, exec (.pref d a b 1) s = .next t ∧ Done u t c (c.after 4) c.g
      ∧ u = { s with dies := u.dies, fresh := u.fresh })
  ∧ (∀ d a b s c, Issues s c [] 0 none → ∃ t u, exec (.pref d a b 0) s = .next t ∧ Done u t c (c.after 4) c.g ∧ u.groups = s.groups
      ∧ u.queues = s.queues ∧ ((∀ e ∈ (s.cache (cacheOfCore (gidCore c.gid))).lines, e.2.st ≠ .m) → SameMemory s u))
  ∧ (∀ a b (sc : BitVec 3) s c, 1 ≤ sc.toNat → sc.toNat ≤ 5 → Issues s c [] 0 none →
    (s.drained c.g c.upto = true → ∃ t, exec (.icinv a b sc) s = .next t ∧ SameMemory s t
      ∧ Instr.icinvDone (BitVec.ofNat 18 c.gid) (BitVec.ofNat 5 c.fid) ∈ t.due
      ∧ FragIs t c.gid c.fid fun g f => f.state = .opWait ∧ f.pc = c.f.pc ∧ f.mask = c.f.mask ∧ g.s = c.g.s ∧ g.v = c.g.v
          ∧ f.hold = .icinv (c.s a).toNat ((c.s b).extractLsb' 0 32).toNat sc.toNat)
    ∧ (s.drained c.g c.upto = false → ∃ t, exec (.icinv a b sc) s = .next t ∧ Waits s t c (.drain c.upto)))
  ∧ (∀ a b s c, Issues s c [] 0 none → ∃ t u, exec (.ipref a b 1) s = .next t ∧ Done u t c (c.after 4) c.g
      ∧ u = { s with dies := u.dies, fresh := u.fresh })
  ∧ (∀ a b s c, Issues s c [] 0 none → ∃ t u, exec (.ipref a b 0) s = .next t ∧ Done u t c (c.after 4) c.g
      ∧ u.groups = s.groups ∧ u.queues = s.queues ∧ (∀ k, (u.core k).pins = (s.core k).pins)
      ∧ ((∀ line, s.mCache line = none) → SameMemory s u))
  ∧ (∀ d a b s c, Issues s c [] 0 none → ∃ t, exec (.ipin d a b) s = .next t ∧ SameMemory s t
      ∧ Instr.instructionFetchFill (BitVec.ofNat 18 c.gid) (BitVec.ofNat 5 c.fid) ∈ t.due
      ∧ FragIs t c.gid c.fid fun g f => f.state = .opWait ∧ f.pc = c.f.pc ∧ f.mask = c.f.mask ∧ g.s = c.g.s ∧ g.v = c.g.v
          ∧ f.hold = .ipin d.toNat (c.s a).toNat ((c.s b).extractLsb' 0 32).toNat)
  ∧ (∀ a b s c, Issues s c [] 0 none → ∃ t u, exec (.iunpin a b) s = .next t ∧ Done u t c (c.after 4) c.g ∧ u = { s with cores := u.cores }
      ∧ ((c.s b).extractLsb' 0 32 = 0 → (u.core (gidCore c.gid)).pins = [])
      ∧ ((c.s b).extractLsb' 0 32 ≠ 0 → ∀ l, l ∈ (u.core (gidCore c.gid)).pins ↔ l ∈ (s.core (gidCore c.gid)).pins
          ∧ ∀ e ∈ s.maintLines (gidCluster c.gid) c.g.asn (c.s a).toNat ((c.s b).extractLsb' 0 32).toNat, e.1 ≠ l))
  ∧ ∀ d a b (j : BitVec 2), ScalarResult (.pgset d a b j) 4 d fun c =>
      let set : Dword := (if (c.s b).extractLsb' 0 4 ≠ 0 then 0x8000 else 0) + 16 * ((c.s a) &&& 0x3FF) + (c.s b &&& 0xF)
      (c.s d &&& ~~~((0xFFFF : Dword) <<< (16 * j.toNat))) ||| (set <<< (16 * j.toNat))

/-! ### The matrix engine's instructions (11) -/

/-- R269, R395: tile t is of the gang, its half works, and the reservation table of the cluster has a free entry for it. -/
def Sys2Proof.Machine.TileFree (s : State) (c : Ctx) (t : Nat) : Prop :=
  (s.tmask c.g).getLsbD t = true ∧ s.disabledHalf (gidCluster c.gid) t = false ∧ s.tableRoom (gidCluster c.gid) t = true

/-- R273, R279 to R283, R393, R395: MCFG, MZERO, MLDW and MLOOP take an entry at the end of the table; they wait for one, and name what is
wrong with a tile, a descriptor or a half, or the first byte beyond the grant.
The model's choice: the order of the descriptor's conditions, and tile 0 where sa is above 57 (log 43). -/
def Obligations.MatrixOperationsTakeTheirEntry : Prop :=
  (∀ a b (t : BitVec 3) s c, Issues s c [] 0 (some 2) →
    let next := { c.g with nextOp := c.g.nextOp + 1 }
    (TileFree s c t.toNat → (∃ x, exec (.mcfg a b t) s = .next x ∧ TableIssued s x c .mcfg t.toNat (BitVec.twoPow 8 t.toNat) [c.s a, c.s b] next)
      ∧ ∃ x, exec (.mzero a t) s = .next x ∧ TableIssued s x c .mzero t.toNat (BitVec.twoPow 8 t.toNat) [c.s a] next)
    ∧ ((s.tmask c.g).getLsbD t.toNat = false → exec (.mcfg a b t) s = .next (s.matrixTrap c 1 t.toNat 15)
      ∧ exec (.mzero a t) s = .next (s.matrixTrap c 1 t.toNat 15))
    ∧ ((s.tmask c.g).getLsbD t.toNat = true → s.disabledHalf (gidCluster c.gid) t.toNat = false → s.tableRoom (gidCluster c.gid) t.toNat = false →
      (∃ x, exec (.mcfg a b t) s = .next x ∧ Waits s x c .unit) ∧ ∃ x, exec (.mzero a t) s = .next x ∧ Waits s x c .unit)
    ∧ ((s.tmask c.g).getLsbD t.toNat = true → s.disabledHalf (gidCluster c.gid) t.toNat = true →
      exec (.mcfg a b t) s = .next (s.matrixTrap c 6 t.toNat 0) ∧ exec (.mzero a t) s = .next (s.matrixTrap c 6 t.toNat 0)))
  ∧ (∀ (a : BitVec 6) s c, 57 < a.toNat → Issues s c [] 0 (some 2) →
    exec (.mldw a) s = .next (s.matrixTrap c 1 0 15) ∧ exec (.mloop a) s = .next (s.matrixTrap c 1 0 15))
  ∧ ∀ (a : BitVec 6) s c, a.toNat ≤ 57 → Issues s c [] 0 (some 2) →
    let raw := (List.range 7).map fun i => c.g.sreg (a.toNat + i)
    let args := resolveDfl raw c.f.fmt
    let d := loopDesc args
    let n := (s.grantOf c.gid c.g).2
    (loopFault raw d (s.tmask c.g) (s.split (gidCluster c.gid)) = none → TileFree s c d.tile →
      (d.beyond 1 n = none → ∃ x, exec (.mldw a) s = .next x
        ∧ TableIssued s x c .mldw d.tile (tileSet d.tiles) args { c.g with nextOp := c.g.nextOp + 1 })
      ∧ (d.beyond d.steps n = none → ∃ x, exec (.mloop a) s = .next x
        ∧ TableIssued s x c .mloop d.tile (tileSet d.tiles) args
            { c.g with nextOp := c.g.nextOp + 1, batch := c.g.batch.set 0 c.g.ob.toNat (c.g.batch.get 0 c.g.ob.toNat + 1) })
      ∧ (∀ x, d.beyond d.steps n = some x → exec (.mloop a) s = .next (s.trap c 0x0B x n))
      ∧ ∀ x, d.beyond 1 n = some x → exec (.mldw a) s = .next (s.trap c 0x0B x n))
    ∧ (loopFault raw d (s.tmask c.g) (s.split (gidCluster c.gid)) = none → s.disabledHalf (gidCluster c.gid) d.tile = true →
      exec (.mldw a) s = .next (s.matrixTrap c 6 d.tile 0) ∧ exec (.mloop a) s = .next (s.matrixTrap c 6 d.tile 0))
    ∧ (loopFault raw d (s.tmask c.g) (s.split (gidCluster c.gid)) = none → s.disabledHalf (gidCluster c.gid) d.tile = false →
      s.tableRoom (gidCluster c.gid) d.tile = false →
      (d.beyond 1 n = none → ∃ x, exec (.mldw a) s = .next x ∧ Waits s x c .unit)
      ∧ (d.beyond d.steps n = none → ∃ x, exec (.mloop a) s = .next x ∧ Waits s x c .unit))
    ∧ ∀ r, loopFault raw d (s.tmask c.g) (s.split (gidCluster c.gid)) = some r →
      exec (.mldw a) s = .next (s.matrixTrap c 1 d.tile r) ∧ exec (.mloop a) s = .next (s.matrixTrap c 1 d.tile r)

/-- The loops of a table on tile t. -/
def Sys2Proof.Machine.onTile (t : Nat) (r : ResOp) : Bool := r.kind == .mloop && r.tiles.getLsbD t

/-- R284 to R288: MRD, MRDS, MSTAT, MRESUME and MREL. -/
def Obligations.MatrixReadoutStatusAndRelease : Prop :=
  (∀ g la v n (u : BitVec 4) s c, u.toNat ≤ 1 → Issues s c [v.toNat] g.toNat (some 0) →
    let t := ((c.s n).extractLsb' 0 3).toNat
    (c.s n &&& ~~~0x7F7F07 = 0 → (s.tmask c.g).getLsbD t = true → ∃ x, exec (.mrd g la v n u) s = .next x
      ∧ LoadIssued s x c (.tile false u.toNat t ((c.s n).extractLsb' 8 7).toNat ((c.s n).extractLsb' 16 7).toNat) v.toNat none none la.toNat
          (c.lanes g.toNat) fun _ => [])
    ∧ (c.s n &&& ~~~0x7F7F07 ≠ 0 ∨ (s.tmask c.g).getLsbD t = false → exec (.mrd g la v n u) s = .next (s.matrixTrap c 1 t 15)))
  ∧ (∀ g la v n s c, Issues s c [v.toNat, v.toNat + 1, v.toNat + 2, v.toNat + 3] g.toNat (some 0) →
    let t := ((c.s n).extractLsb' 0 3).toNat
    c.s n &&& ~~~0x7F7F07 = 0 → (s.tmask c.g).getLsbD t = true → ∃ x, exec (.mrds g la v n) s = .next x
      ∧ LoadIssued s x c (.tile true 0 t ((c.s n).extractLsb' 8 7).toNat ((c.s n).extractLsb' 16 7).toNat) v.toNat none none la.toNat
          (c.lanes g.toNat) fun _ => [])
  ∧ (∀ d (t : BitVec 3) s c, Issues s c [] 0 none → (s.tmask c.g).getLsbD t.toNat = true →
    let x := s.cluster (gidCluster c.gid)
    let tl := x.tiles.get Tile.reset t.toNat
    ∃ y g val, exec (.mstat d t) s = .next y ∧ Done s y c (c.after 4) g ∧ WritesS c.g g d.toNat (BitVec.ofNat 64 val)
      ∧ (let hdr := (if tl.ferr then 2 ^ 35 else 0) + (if tl.ovf then 2 ^ 36 else 0)
         (x.table.find? (onTile t.toNat) = none → val = hdr)
         ∧ ∀ r, x.table.find? (onTile t.toNat) = some r →
            val = hdr + (match r.st with | .queued => 1 | .running => 2 | .held => 3 | .suspended => 1) * 2 ^ 32
              + (loopDesc r.args).steps * 2 ^ 16 + r.done))
  ∧ (∀ (t : BitVec 3) s c, Issues s c [] 0 none → (s.tmask c.g).getLsbD t.toNat = true → s.disabledHalf (gidCluster c.gid) t.toNat = false →
    ∃ x u, exec (.mresume t) s = .next x ∧ Done u x c (c.after 4) c.g ∧ u = { s with clusters := u.clusters, due := u.due }
      ∧ (u.cluster (gidCluster c.gid)).table = (s.cluster (gidCluster c.gid)).table.map fun r =>
          if onTile t.toNat r = true ∧ r.st = .held then
            { r with st := .queued, passed := 0, ticket := none, after := some (c.gid, c.g.nextOp) } else r)
  ∧ ∀ (all : BitVec 1) (t : BitVec 3) s c, Issues s c [] 0 none → (s.tmask c.g).getLsbD t.toNat = true → c.f.state = .ready →
    let cl := gidCluster c.gid
    (∀ e ∈ s.groups, gidCluster e.1 = cl → s.group? e.1 = some e.2 ∧ ∃ f ∈ e.2.frags, f.2.state = .ready) →
    ((s.cluster cl).table.map fun r => (r.gid, r.id)).Nodup →
    ∃ x, exec (.mrel all t) s = .next x ∧ SameMemory s x
      ∧ (x.cluster cl).table = ((s.cluster cl).table.filter fun r => !(onTile t.toNat r && (r.st == .held || (all == 1 && r.st == .queued)))).map
          (fun r => if all = 1 ∧ onTile t.toNat r = true ∧ r.st = .running then { r with abandon := true } else r)
      ∧ FragIs x c.gid c.fid fun g f => f.pc = c.after 4 ∧ f.mask = c.f.mask ∧ f.fmt = c.f.fmt ∧ g.v = c.g.v ∧ g.s = c.g.s ∧ g.p = c.g.p
          ∧ g.flags = c.g.flags

/-! ### What every instruction is checked for (07) -/

/-- R161, R377: `P` of every instruction that has a guard, in each of its forms: with its length, its guard, the vector registers it names
(its fields from bit 23 down, then the implicit ones), the counter it moves, and what the fragment must hold for the form to be assigned
and its computed indexes to be in bounds and settled. -/
def Sys2Proof.Machine.EachGuarded (P : Instr → Nat → BitVec 3 → List Nat → Option Nat → (Ctx → Prop) → Prop) : Prop :=
  let all := fun (_ : Ctx) => True
  let three := fun (f : BitVec 3 → BitVec 7 → BitVec 7 → BitVec 7 → Instr) =>
    ∀ g d a b, P (f g d a b) 4 g [d.toNat, a.toNat, b.toNat] none all
  let two := fun (f : BitVec 3 → BitVec 7 → BitVec 7 → Instr) => ∀ g d a, P (f g d a) 4 g [d.toNat, a.toNat] none all
  let literal := fun (f : BitVec 3 → BitVec 7 → BitVec 7 → Word → Instr) => ∀ g d a x, P (f g d a x) 8 g [d.toNat, a.toNat] none all
  let format := fun (f : BitVec 3 → BitVec 7 → BitVec 7 → BitVec 1 → BitVec 4 → Instr) (ok : Nat → Prop) =>
    ∀ g d a dflt code, P (f g d a dflt code) 4 g [d.toNat, a.toNat] none fun c =>
      (dflt = 0 ∨ code = 0) ∧ ok (if dflt = 1 then c.fc else code.toNat)
  let scope := fun (x : BitVec 3) => 1 ≤ x.toNat ∧ x.toNat ≤ 5
  ((∀ f ∈ [Instr.vadd, .vsub, .vmul, .vmulh, .vmad, .vmin, .vmax, .vand, .vor, .vxor, .vshl, .vshr, .vsar, .vrot, .vclmul, .vclmulh, .vshfl,
      .launch], three f)
   ∧ (∀ f ∈ [Instr.fadd, .fsub, .fmul, .ffma, .fmin, .fmax, .fscale, .faddp, .fsubp, .fmulp, .ffmap, .fminp, .fmaxp], three f)
   ∧ (∀ f ∈ [Instr.vabs, .vnot, .vpopc, .vclz, .vmov, .fabs, .fneg, .fclass, .fstkGet, .fstkSet, .frcp, .frsq, .fexp2, .flog2, .ftanh], two f)
   ∧ (∀ f ∈ [Instr.vaddl, .vmull, .vandl, .vorl, .vxorl, .faddl, .fmull], literal f)
   ∧ (∀ i : BitVec 7, two (.vaddi · · · i) ∧ (i.toNat ≤ 31 → two (.vshli · · · i) ∧ two (.vshri · · · i) ∧ two (.vsari · · · i)))
   ∧ (∀ m, two (.vbcst · · · m)) ∧ (∀ x h, two (.fwiden · · · x h)) ∧ (∀ e (o : BitVec 3), o.toNat ≤ 5 → two (.vscan · · · e o))
   ∧ (∀ o p, two (.vvote · · o p ·) ∧ two (.vvoteW · · o p ·)))
  ∧ ((∀ g d a b x, P (.ffmal g d a b x) 8 g [d.toNat, a.toNat, b.toNat] none all)
   ∧ (∀ g d a b, P (.vreq g d a b) 4 g [d.toNat, a.toNat, b.toNat, b.toNat + 1] none all)
   ∧ (∀ g d i x p (n : BitVec 7), P (.vmovi g d i) 4 g [d.toNat] none all ∧ P (.vmovl g d x) 8 g [d.toNat] none all
       ∧ P (.pmov g d p) 4 g [d.toNat] none all ∧ (n.toNat ≤ 1 → P (.rdsrLane g d n) 4 g [d.toNat] none all))
   ∧ (∀ g (cc : BitVec 4) p a b x,
       (cc.toNat ≤ 9 → P (.vcmp g cc p a b) 4 g [a.toNat, b.toNat] none all ∧ P (.vcmpl g cc p a x) 8 g [a.toNat] none all)
       ∧ (cc.toNat ≤ 6 → P (.fcmp g cc p a b) 4 g [a.toNat, b.toNat] none all ∧ P (.fcmpl g cc p a x) 8 g [a.toNat] none all))
   ∧ (∀ g (o : BitVec 4) p a b, o.toNat ≤ 7 → P (.plog g o p a b) 4 g [] none all)
   ∧ (∀ i, format (.fcvt · · · i · ·) (fun n => n ≠ 0 ∧ n < 12 ∧ (i = 1 → n < 8)) ∧ format (.frnd · · · i · ·) fun n => n < 12)
   ∧ format .fmxs (fun n => 3 ≤ n ∧ n ≤ 7)
   ∧ (∀ g d dir (k : BitVec 2) (base : BitVec 7), P (.vmovx g d dir k base) 4 g [d.toNat] none fun c => ∀ l ∈ c.activeLanes,
       let e := (c.g.xreg l k.toNat).toNat + base.toNat
       c.g.idxEn k.toNat = true ∧ c.g.idxLo k.toNat ≤ e ∧ e ≤ c.g.idxHi k.toNat ∧ e < c.g.regs ∧ ∀ w ∈ c.f.windows, e ∉ w.regs)
   ∧ ∀ g a n, P (.sysc g a n) 4 g [a.toNat, a.toNat + 1, a.toNat + 2, a.toNat + 3, a.toNat + 4, a.toNat + 5] none all)
  ∧ ((∀ g la v n u, P (.ld g la v n u) 4 g [v.toNat] (some 0) all ∧ P (.st g v n u) 4 g [v.toNat] (some 1) all
       ∧ P (.ldx g la v n) 4 g [v.toNat] (some 0) all ∧ P (.stx g v n) 4 g [v.toNat] (some 1) all)
   ∧ (∀ g la v n (u : BitVec 4), u.toNat ≤ 11 → P (.ldg g la v n u) 4 g [v.toNat, v.toNat + 1] (some 0) all
       ∧ P (.stg g v n u) 4 g [v.toNat, v.toNat + 1] (some 1) all)
   ∧ (∀ g v (n : BitVec 6) (u : BitVec 4), u.toNat ≤ 11 → n.toNat ≤ 61 → P (.pst g v n u) 4 g [v.toNat] (some 1) all)
   ∧ (∀ g la v n x, scope x → P (.ldacq g la v n x) 4 g [v.toNat] (some 0) all ∧ P (.strel g v n x) 4 g [v.toNat] (some 1) all)
   ∧ (∀ g la v (n : BitVec 6) (u : BitVec 4), 3 ≤ u.toNat → u.toNat ≤ 7 → n.toNat ≤ 62 →
       P (.ldmx g la v n u) 4 g [v.toNat] (some 0) all ∧ P (.stmx g v n u) 4 g [v.toNat] (some 1) all)
   ∧ (∀ g la v n (u : BitVec 4), let rs := if u.getLsbD 3 then [v.toNat, v.toNat + 1] else [v.toNat]
       P (.lds g la v n u) 4 g rs (some 0) all ∧ P (.sts g v n u) 4 g rs (some 1) all)
   ∧ (∀ g la v (nr : BitVec 1) (sc : BitVec 3) (o : BitVec 2) (op : BitVec 4),
       let ctr := some (if nr = 1 then 1 else 0)
       let cmp := if op = 9 then [v.toNat + 3] else []
       (AtomAssigned false la nr sc o op → P (.atom g la v nr sc o op) 4 g ([v.toNat, v.toNat + 1, v.toNat + 2] ++ cmp) ctr all
         ∧ P (.atoms g la v nr sc o op) 4 g ([v.toNat, v.toNat + 1] ++ cmp) ctr all)
       ∧ (AtomAssigned true la nr sc o op → P (.fatom g la v nr sc o op) 4 g ([v.toNat, v.toNat + 1, v.toNat + 2] ++ cmp) ctr all))
   ∧ ∀ g la v n (u : BitVec 4), (u.toNat ≤ 1 → P (.mrd g la v n u) 4 g [v.toNat] (some 0) all)
       ∧ P (.mrds g la v n) 4 g [v.toNat, v.toNat + 1, v.toNat + 2, v.toNat + 3] (some 0) all)

/-- R27, R62, R165: with `len` bytes and `regs` named, what comes before the effect of `i`: the fault of the first of its registers that is
pending in an open window, or that the group does not have, at the lowest active lane, and the wait for a counter at its limit. -/
def Sys2Proof.Machine.ChecksRegisters (i : Instr) (_len : Nat) (guard : BitVec 3) (regs : List Nat) (ctr : Option Nat) (ok : Ctx → Prop) : Prop :=
  ∀ s c, s.ctx? = some c → (∀ w ∈ c.f.windows, w.left ≠ 0) → ok c →
    (∀ r w, c.activeLanes ≠ [] → regs.find? (fun r => c.f.windows.any fun w => decide (r ∈ w.regs)) = some r →
      c.f.windows.find? (fun w => decide (r ∈ w.regs)) = some w → exec i s = .next (s.trap c 0x04 w.pc.toNat r))
    ∧ (∀ l r, c.activeLanes.head? = some l → (∀ r ∈ regs, ∀ w ∈ c.f.windows, r ∉ w.regs) → regs.find? (fun r => decide (c.g.regs ≤ r)) = some r →
      exec i s = .next (s.trap c 0x05 0 (l + 65536 * r)))
    ∧ ∀ k, ctr = some k → (∀ r ∈ regs, r < c.g.regs ∧ ∀ w ∈ c.f.windows, r ∉ w.regs) → c.guarded guard.toNat ≠ 0 → 63 ≤ s.counter c.gid c.g k →
      ∃ t, exec i s = .next t ∧ Waits s t c (.counter k)

/-- R164 to R169: what comes before an instruction's own effect: a window that has ended, an unassigned sub, and, of every instruction with
a guard, a pending register, a register out of bounds, and a counter at its limit, those of the scalar and the engine operations too. -/
def Obligations.EncodingFaultsComeBeforeTheEffect : Prop :=
  (∀ g d a b s c, s.ctx? = some c → (∃ w ∈ c.f.windows, w.left = 0) → ∃ t, exec (.vadd g d a b) s = .next t ∧ Waits s t c .none)
  ∧ (∀ s c, s.ctx? = some c → (∀ w ∈ c.f.windows, w.left ≠ 0) →
    let bad := .next (s.trap c 0x03 0 c.iword.toNat)
    (∀ w, exec (.unassignedOpcode w) s = bad)
    ∧ (∀ d a b (x : BitVec 6), 2 < x.toNat → exec (.smulh d a b x) s = bad)
    ∧ (∀ d a b (x : BitVec 6), 1 < x.toNat → exec (.sshr d a b x) s = bad ∧ exec (.smin d a b x) s = bad ∧ exec (.smax d a b x) s = bad)
    ∧ (∀ d a b (x : BitVec 6), 9 < x.toNat → exec (.scmp d a b x) s = bad)
    ∧ (∀ o, exec (.brc 0 o) s = bad)
    ∧ (∀ d (n : BitVec 6), n.toNat < 2 ∨ 0x12 < n.toNat → exec (.rdsrScalar d n) s = bad)
    ∧ (∀ a (n : BitVec 6), n ≠ 0x0A → n ≠ 0x0B → exec (.wrsr a n) s = bad)
    ∧ (∀ g (x : BitVec 4) p a b, 9 < x.toNat → exec (.vcmp g x p a b) s = bad)
    ∧ (∀ g (x : BitVec 4) p a b, 6 < x.toNat → exec (.fcmp g x p a b) s = bad)
    ∧ (∀ g la v n (x : BitVec 4), 11 < x.toNat → exec (.ldg g la v n x) s = bad)
    ∧ (∀ x : BitVec 3, x = 0 ∨ 5 < x.toNat → exec (.fence x) s = bad)
    ∧ (∀ (a : BitVec 6) r, 58 < a.toNat → exec (.cpy a r) s = bad)
    ∧ (∀ g (x : BitVec 4) p a l, 9 < x.toNat → exec (.vcmpl g x p a l) s = bad)
    ∧ (∀ g (x : BitVec 4) p a l, 6 < x.toNat → exec (.fcmpl g x p a l) s = bad)
    ∧ (∀ g (x : BitVec 4) p a b, 7 < x.toNat → exec (.plog g x p a b) s = bad)
    ∧ (∀ g d a e (x : BitVec 3), 5 < x.toNat → exec (.vscan g d a e x) s = bad)
    ∧ (∀ g d (n : BitVec 7), 1 < n.toNat → exec (.rdsrLane g d n) s = bad)
    ∧ (∀ g d a (i : BitVec 7), 31 < i.toNat → exec (.vshli g d a i) s = bad ∧ exec (.vshri g d a i) s = bad ∧ exec (.vsari g d a i) s = bad)
    ∧ (∀ d a b (o : BitVec 3) (e : BitVec 1) (z : BitVec 2), 5 < o.toNat ∨ (z = 3 ∧ e = 1) → exec (.sld d a b o e z) s = bad)
    ∧ (∀ d a b (o : BitVec 3) z, 5 < o.toNat → exec (.sst d a b o z) s = bad)
    ∧ (∀ g la v n d a b (x : BitVec 3), x = 0 ∨ 5 < x.toNat → exec (.ldacq g la v n x) s = bad ∧ exec (.strel g v n x) s = bad
        ∧ exec (.cinv d a b x) s = bad ∧ exec (.cflush d a b x) s = bad ∧ exec (.icinv a b x) s = bad)
    ∧ (∀ g v (n : BitVec 6) (u : BitVec 4), 11 < u.toNat ∨ 61 < n.toNat → exec (.pst g v n u) s = bad)
    ∧ (∀ g v n (u : BitVec 4), 11 < u.toNat → exec (.stg g v n u) s = bad)
    ∧ (∀ g la v (n : BitVec 6) (u : BitVec 4), u.toNat < 3 ∨ 7 < u.toNat ∨ 62 < n.toNat →
        exec (.ldmx g la v n u) s = bad ∧ exec (.stmx g v n u) s = bad)
    ∧ (∀ d a b (x : BitVec 2) (o : BitVec 4), 1 < x.toNat ∨ 6 < o.toNat ∨ (x = 1 ∧ 3 ≤ o.toNat ∧ o.toNat ≤ 5) →
        exec (.fupd d a b x o) s = bad)
    ∧ (∀ g la v (nr : BitVec 1) (sc : BitVec 3) (o : BitVec 2) (op : BitVec 4),
        (¬AtomAssigned false la nr sc o op → exec (.atom g la v nr sc o op) s = bad ∧ exec (.atoms g la v nr sc o op) s = bad)
        ∧ (¬AtomAssigned true la nr sc o op → exec (.fatom g la v nr sc o op) s = bad))
    ∧ (∀ g d a (i f : BitVec 1) (code : BitVec 4),
        let fmt := if f = 1 then c.fc else code.toNat
        ((f = 1 ∧ code ≠ 0) ∨ fmt = 0 ∨ 11 < fmt ∨ (i = 1 ∧ 7 < fmt) → exec (.fcvt g d a i f code) s = bad)
        ∧ ((f = 1 ∧ code ≠ 0) ∨ 11 < fmt → exec (.frnd g d a i f code) s = bad)
        ∧ ((f = 1 ∧ code ≠ 0) ∨ fmt < 3 ∨ 7 < fmt → exec (.fmxs g d a f code) s = bad))
    ∧ ∀ g la v n (x : BitVec 4), 1 < x.toNat → exec (.mrd g la v n x) s = bad)
  ∧ EachGuarded ChecksRegisters
  ∧ (∀ s c, s.ctx? = some c → c.f.windows = [] → c.guarded 0 ≠ 0 → 63 ≤ c.g.lc → ∀ d a b (o : BitVec 3) (e : BitVec 1) (z : BitVec 2),
    o.toNat ≤ 5 → ¬(z = 3 ∧ e = 1) → ∃ t, exec (.sld d a b o e z) s = .next t ∧ Waits s t c (.counter 0))
  ∧ (∀ s c, s.ctx? = some c → c.f.windows = [] → c.guarded 0 ≠ 0 → 63 ≤ s.sc c.g → ∀ d a b (o : BitVec 3) z, o.toNat ≤ 5 →
    (∃ t, exec (.sst d a b o z) s = .next t ∧ Waits s t c (.counter 1))
    ∧ (o ≠ 0 → ∀ i ∈ [Instr.cinv d a b o, .cflush d a b o], ∃ t, exec i s = .next t ∧ Waits s t c (.counter 1)))
  ∧ ∀ s c, s.ctx? = some c → c.f.windows = [] → c.guarded 0 ≠ 0 → 15 ≤ s.ec c.gid c.g → ∀ (a : BitVec 6) b d r t (o : BitVec 4), a.toNat ≤ 58 →
    o.toNat ≤ 6 → ∀ i ∈ [Instr.cpy a r, .fupd d a b 0 o, .mcfg a b t, .mzero a t, .mldw a, .mloop a],
      ∃ x, exec i s = .next x ∧ Waits s x c (.counter 2)

/-- R167: an instruction whose guard holds in no active lane passes the checks of R165 and R27. -/
structure Sys2Proof.Machine.GuardedOff (s : State) (c : Ctx) (regs : List Nat) (guard : Nat) : Prop where
  resident : s.ctx? = some c
  windows : ∀ w ∈ c.f.windows, w.left ≠ 0
  exist : ∀ r ∈ regs, r < c.g.regs
  settled : ∀ r ∈ regs, ∀ w ∈ c.f.windows, r ∉ w.regs
  off : c.guarded guard = 0

/-- R167: a guarded-off instruction, of any opcode that has a guard, only counts: it reads and writes nothing, moves no counter and makes
no access. -/
def Obligations.GuardedOffInstructionsOnlyCount : Prop :=
  EachGuarded fun i len g regs _ ok => ∀ s c, GuardedOff s c regs g.toNat → ok c → ∃ t, exec i s = .next t ∧ Done s t c (c.after len) c.g

/-! ### Clauses, and a step of the module (07, 02) -/

/-- R97: the word at byte address `a` stands in the core's instruction cache, under a translation the cluster's buffer holds. -/
def Sys2Proof.Machine.CodeAt (s : State) (gid : Nat) (asn : BitVec 16) (a : Nat) (w : Word) : Prop :=
  ∃ e line, s.lookup (gidCluster gid) asn a Want.fetch = some e
    ∧ (s.core (gidCore gid)).icache.find (e.pa a / 128) = some line ∧ wordAt line (e.pa a % 128) = w

/-- R51, R155 to R159, R377: a core chooses among its ready fragments; a clause that has been read is checked, waits at its header
or begins; a header waits for lag, ec, sc and lc to be at most its fields, the value 15 of the last two asking nothing.
The model's choice: how the tenants of a core share its turns by weight: of those whose turn has come (their pass is at most the core's
virtual time), the one whose next pass is least (log 56). -/
def Obligations.ClausesAreChosenCheckedAndBegun : Prop :=
  ((∀ (core : BitVec 12) (s : State), s.readyFrags core.toNat ≠ [] →
     let fs := s.readyFrags core.toNat
     let ready := (fs.map fun e => e.2.1.tenant.toNat).dedup
     let x := (s.core core.toNat).compete ready
     let next := fun t => x.passOf t + s.strideOf (core.toNat / 64) t
     (∀ t ∈ ready, x.passOf t = (s.core core.toNat).passOf t) ∧ (s.core core.toNat).virtual ≤ x.virtual
     ∧ ∃ e ∈ fs, x.passOf e.2.1.tenant.toNat ≤ x.virtual
       ∧ (∀ y ∈ fs, x.passOf y.2.1.tenant.toNat ≤ x.virtual → next e.2.1.tenant.toNat ≤ next y.2.1.tenant.toNat)
       ∧ (∀ y ∈ fs, y.2.1.tenant = e.2.1.tenant → e.2.2.2.stamp ≤ y.2.2.2.stamp)
       ∧ (∀ y ∈ fs, y.2.1.tenant = e.2.1.tenant → y.2.2.2.stamp = e.2.2.2.stamp → lowestLane e.2.2.2.mask ≤ lowestLane y.2.2.2.mask)
       ∧ exec (.clauseIssueChoice core) s = .next ((s.modCore core.toNat fun k => k.compete ready).modCore core.toNat fun k =>
           { k with turn := some (e.1, e.2.2.1) }))
   ∧ ∀ (gv : Gid) (fv : BitVec 5) (s : State) g f h rest, s.group? gv.toNat = some g → g.frags.find fv.toNat = some f →
     f.inClause = false → f.reread = false → s.issuable gv.toNat g f = true → s.answers = [] →
     (∀ j e, f.join = some j → g.joins.find j = some e → e.rcv ≠ f.pc) →
     rest.length = (if headerOk h then (h.extractLsb' 0 4).toNat else 0) →
     (∀ i w, (h :: rest)[i]? = some w → CodeAt s gv.toNat g.asn (f.pc.toNat + 4 * i) w) →
     (clauseOk (h :: rest) = false →
       exec (.clauseBegin gv fv) s = .next ((s.modGroup gv.toNat fun x => x.modFrag fv.toNat fun y => { y with call := none }).takeException
         gv.toNat ⟨1, 0x01, f.pc.toNat, 0, h.toNat⟩))
     ∧ (clauseOk (h :: rest) = true → s.headerMet gv.toNat g h = false → ∃ t, exec (.clauseBegin gv fv) s = .next t ∧ SameMemory s t
         ∧ FragIs t gv.toNat fv.toNat fun _ y => y = { f with state := .clauseWait, words := h :: rest })
     ∧ (clauseOk (h :: rest) = true → s.headerMet gv.toNat g h = true → ∃ t, exec (.clauseBegin gv fv) s = .next t ∧ SameMemory s t
         ∧ FragIs t gv.toNat fv.toNat fun x y => y.inClause = true ∧ y.hdr = f.pc ∧ y.pc = BitVec.ofNat 64 (f.pc.toNat + 4) ∧ y.words = h :: rest
             ∧ y.mask = f.mask ∧ y.fmt = f.fmt ∧ y.state = .ready ∧ x.v = g.v ∧ x.s = g.s ∧ x.p = g.p))
  ∧ (∀ (s : State) gid g (h : Word), s.headerMet gid g h = true ↔
     (g.ob - 1 - g.cb).toNat ≤ (h.extractLsb' 20 4).toNat ∧ s.ec gid g ≤ (h.extractLsb' 16 4).toNat
       ∧ ((h.extractLsb' 12 4).toNat = 15 ∨ s.sc g ≤ (h.extractLsb' 12 4).toNat)
       ∧ ((h.extractLsb' 8 4).toNat = 15 ∨ g.loads.length ≤ (h.extractLsb' 8 4).toNat))

/-- R371: a step of move m from s with what follows the move: a record that m formed and that is held stalls it; no move is under way
any more, and time moves on. -/
def Sys2Proof.Machine.afterStep (s : State) (m : Move) (o : Host.Outcome State Fault Refusal) : Host.Outcome State Fault Refusal :=
  match o with
  | .next t => .next { s.afterMove m t with cur := none, moving := none, formed := [], tick := (s.afterMove m t).tick + 1 }
  | .fault r => .fault r
  | .refused r => .refused r

/-- R51, R155, R172, R371: a step runs one move of those there are; where a core's turn is the only one, it runs the instruction that
the words at the fragment's pc decode to, and the trap of an unassigned opcode where they decode to none. A move that forms no record
that is held, and that no credit answers, keeps its effect; one whose record is held has no effect but the record.
The model's choice: one move a step, which one is open, and time passes in a step without any (log 1); that a held record stalls the
whole move (log 33). -/
def Obligations.AStepRunsTheDecodedInstruction : Prop :=
  (∀ s : State, s.moves = [] → step s = .next { s with cur := none, moving := none, formed := [], tick := s.tick + 1 })
  ∧ (∀ s : State, s.moves ≠ [] → ∃ m ∈ s.moves, step s = afterStep s m (exec m.instr (s.enter m)))
  ∧ (∀ (s t : State) m, (∀ e ∈ t.formed, e.2.2 = true → e.2.1.halt ≠ none) → (∀ e ∈ t.dies, ∀ c ∈ e.2.credits, c.move ≠ m) → s.afterMove m t = t)
  ∧ (∀ (s t : State) m d h, t.formed = [(d, h, true)] → h.halt = none →
      s.afterMove m t = { s.formStalled m d h.r with cur := none, moving := none, formed := [] })
  ∧ ∀ (s : State) gid fid g f i, s.inputs = [] → s.due = [] → (∀ e ∈ s.groups, gidCore e.1 = gidCore gid) → s.group? gid = some g →
    g.frags.find fid = some f → (s.core (gidCore gid)).turn = some (gid, fid) → s.issuable gid g f = true →
    (s.die (gidDie gid)).fence.getLsbD 4 = false → (s.cluster (gidCluster gid)).out = false → f.inClause = true →
    (∀ e ∈ s.dies, e.2.heldRecs = []) →
    (let at' := fun a => f.words.getD ((a - f.hdr.toNat) / 4) 0
     let lit := if f.hdr.toNat + 4 * f.words.length ≤ f.pc.toNat + 4 then none else some (at' (f.pc.toNat + 4))
     let m := fun (i : Instr) => (⟨some ⟨gid, fid⟩, i, false⟩ : Move)
     (decode (at' f.pc.toNat) lit = .ok i → step s = afterStep s (m i) (exec i (s.enter (m i))))
     ∧ ∀ r, decode (at' f.pc.toNat) lit = .error r →
        let u := Instr.unassignedOpcode (at' f.pc.toNat)
        step s = afterStep s (m u) (exec u (s.enter (m u))))

/-- R161, R162: every instruction's word, with its literal, decodes to it, whatever its operands. -/
def Obligations.DecodingAnEncodedInstructionGivesItBack : Prop :=
  ∀ i : Instr, i.hasWord = true → i.wellFormed = true → ∃ w, encodeNat i = some w ∧ w < 2 ^ 32 ∧ decode (BitVec.ofNat 32 w) (literalOf i) = .ok i

/-- R2, R74: a step keeps the canonical form of memory. -/
def Obligations.EveryStepKeepsMemoryCanonical : Prop :=
  ∀ s t : State, Memory.wf s.mem = true → step s = .next t → Memory.wf t.mem = true

/-! ### Barriers over a gang, and retirement (02, 12) -/

/-- R43: the root die gathers the arrival messages of a gang's dies, and releases its groups when it has them all. -/
def Obligations.GangBarrierMessagesReleaseTheGang : Prop :=
  (∀ (grid gang : Word) (die : BitVec 6) (s : State) x, Instr.gangBarrierArrivalMessage grid gang die ∈ s.due →
    s.gang? grid.toNat gang.toNat = some x →
    ((∃ d ∈ x.dies, d ≠ die.toNat ∧ x.dieMsgs.getLsbD d = false) → ∃ t, exec (.gangBarrierArrivalMessage grid gang die) s = .next t
      ∧ t.groups = s.groups ∧ SameMemory s t
      ∧ t.gang? grid.toNat gang.toNat = some { x with dieMsgs := x.dieMsgs ||| BitVec.twoPow 64 die.toNat })
    ∧ ((∀ d ∈ x.dies, d = die.toNat ∨ x.dieMsgs.getLsbD d = true) → ∃ t, exec (.gangBarrierArrivalMessage grid gang die) s = .next t
      ∧ t.groups = s.groups ∧ SameMemory s t
      ∧ t.gang? grid.toNat gang.toNat = some { x with dieMsgs := 0, relWait := x.relWait ||| x.barr, barr := 0, bgen := x.bgen + 1 }
      ∧ ∀ d ∈ x.dies, Instr.gangBarrierReleaseMessage grid gang (BitVec.ofNat 6 d) ∈ t.due))
  ∧ ∀ (grid gang : Word) (die : BitVec 6) (s : State) x, Instr.gangBarrierReleaseMessage grid gang die ∈ s.due →
    s.gang? grid.toNat gang.toNat = some x →
    ∃ t y, exec (.gangBarrierReleaseMessage grid gang die) s = .next t ∧ SameMemory s t ∧ t.gang? grid.toNat gang.toNat = some y
      ∧ (∀ i < 16, y.relWait.getLsbD i = (x.relWait.getLsbD i && decide (i ∉ x.groupsOn die.toNat)))
      ∧ ∀ i ∈ x.groupsOn die.toNat, x.relWait.getLsbD i = true → ∀ gid g k f, x.groups.getD i none = some gid → t.group? gid = some g →
          g.frags.find k = some f → f.state ≠ .gangBarWait

/-- R31, R50, R292, R384: a group whose lanes have exited retires; a grid whose gangs and children have retired ends, and its
completion is known. -/
def Obligations.GroupsAndGridsRetire : Prop :=
  (∀ (gv : Gid) (s : State) g, Instr.groupRetire gv ∈ s.due → s.retireBlocked g = false → s.group? gv.toNat = some g →
    g.frags = [] → g.loads = [] → s.ec gv.toNat g = 0 → ∃ t, exec (.groupRetire gv) s = .next t ∧ t.group? gv.toNat = none)
  ∧ (∀ (s : State) (g : Group) x, s.gang? g.grid.toNat g.gang.toNat = some x → (s.dist x.root).up = true → s.retireBlocked g = false)
  ∧ (∀ (gv : Gid) (s : State) g, Instr.groupRetire gv ∈ s.due → s.group? gv.toNat = some g →
    g.frags ≠ [] → ∃ t, exec (.groupRetire gv) s = .next t ∧ t = { s with due := t.due })
  ∧ (∀ (grid : Word) (s : State) g, Instr.gridRetire grid ∈ s.due → (s.dist g.die).up = true → s.grid? grid.toNat = some g →
    g.completing = false → s.gridDone grid.toNat g = true → g.doneVa = 0 →
    ∃ t, exec (.gridRetire grid) s = .next t ∧ t.grid? grid.toNat = none
      ∧ t.peat.completions.get 0 grid.toNat = BitVec.ofNat 64 ((if g.aborted then 4 else 0) * 2 ^ 32 + grid.toNat))
  ∧ ∀ (grid : Word) (s : State) g, Instr.gridRetire grid ∈ s.due → (s.dist g.die).up = true → s.grid? grid.toNat = some g →
    s.gridDone grid.toNat g = false → ∃ t, exec (.gridRetire grid) s = .next t ∧ t = { s with due := t.due }

/-! ### Accesses in flight (05, 10) -/

/-- R113, R116, R117: the bytes that a load's span reads: those of the core's L1 where the line stands there, but not on a U page;
else those of memory. -/
def Sys2Proof.Machine.spanBytes (s : State) (gid : Nat) (p : Span) : List Byte := (List.range p.len).map fun i =>
  let pa := p.pa.getD 0 + i
  match (s.cache (cacheOfCore (gidCore gid))).lines.find (pa / 128) with
  | some l => if p.tr = 2 then s.readByte pa else l.data.getD (pa % 128) 0
  | none => s.readByte pa

/-- R62, R103, R113, R116, R117, R338, R388, R391: a group's one load, of one lane, opened, with nothing before it that it waits for. Its
spans are translated, each to bytes of one line, of pages of treatment `tr`; their homes are reached and take requests; each line stands in
the L1, or is of a U page, or is the only one, of an I page, with no modified line in the L1 that its fill could drive out; nothing that it
reads is poisoned; and a fragment of the group is ready. -/
structure Sys2Proof.Machine.LoneLoad (s : State) (gid : Nat) (g : Group) (o : LoadOp) (a : LaneAcc) (ps : List Span) (tr : Nat) : Prop where
  group : s.group? gid = some g
  loads : g.loads = [o]
  lanes : o.lanes = [a]
  lane : a.lane < 1024
  need : a.st = .need ∧ a.fl = 0
  spans : a.spans = ps
  place : ∀ p ∈ ps, p.tr = tr ∧ p.data = none ∧ 0 < p.len ∧ ∃ pa, p.pa = some pa ∧ pa % 128 + p.len ≤ 128
  sent : ∀ p ∈ ps, ∀ pa, p.pa = some pa → s.linked (gidDie gid) (paDie pa) = true ∧ s.heldBack (gidDie gid) (paDie pa) = false
  here : ∀ p ∈ ps, ∀ pa, p.pa = some pa → tr = 2 ∨ (s.cache (cacheOfCore (gidCore gid))).lines.has (pa / 128) = true
    ∨ (tr = 1 ∧ ps = [p] ∧ ∀ e ∈ (s.cache (cacheOfCore (gidCore gid))).lines, e.2.st ≠ .m)
  clean : ∀ p ∈ ps, ∀ pa, p.pa = some pa → ∀ i < p.len,
    match (s.cache (cacheOfCore (gidCore gid))).lines.find (pa / 128) with
    | some l => if tr = 2 then s.poisoned (pa + i) = false else l.psn.getLsbD ((pa + i) % 128 / 32) = false
    | none => s.poisoned (pa + i) = false
  unfenced : g.fenced o.id = false
  unlaunched : g.launchBefore o.id = false
  opened : o.opened = true
  plain : o.acq = none ∧ o.rel = none
  queue : s.sc g = 0
  ready : ∃ k f, g.frags.find k = some f ∧ f.state = .ready

/-- R62: the load of a group has returned: it is over, memory is as it was, and the group is otherwise as before but for vector registers
and the flags `fl`. -/
def Sys2Proof.Machine.LoadReturned (s t : State) (gid : Nat) (g x : Group) (fl : Byte) : Prop :=
  SameMemory s t ∧ t.group? gid = some x ∧ x.loads = [] ∧ x.flags = g.flags ||| fl ∧ x.s = g.s ∧ x.p = g.p

/-- R40, R62, R80, R81, R108, R113, R116, R117, R137, R188, R239 to R244, R247 to R249, R284, R285: the data of a load returns: its register
is written from the bytes that it reads, in each kind of load, and the load is over; a near atomic is performed in the L1, a far one at its
bank, a scratchpad one in the scratchpad. -/
def Obligations.LoadDataReturnsToTheRegister : Prop :=
  (∀ (gv : Gid) op (s : State) g o a ps tr, Instr.loadDataReturn gv op .clean ∈ s.due → LoneLoad s gv.toNat g o a ps tr → o.id = op →
    let n := leNat (ps.flatMap (spanBytes s gv.toNat))
    let reg := fun (v : VReg) (fl : Byte) => ∃ t x, exec (.loadDataReturn gv op .clean) s = .next t ∧ LoadReturned s t gv.toNat g x fl
      ∧ WritesV g { g with v := x.v } o.rd (· = a.lane) fun _ => v
    (∀ size z, o.kind = .scalar size z → ∃ t x, exec (.loadDataReturn gv op .clean) s = .next t ∧ SameMemory s t ∧ t.group? gv.toNat = some x
      ∧ x.loads = [] ∧ x.flags = g.flags ∧ x.v = g.v ∧ WritesS { g with s := g.s } { g with s := x.s } o.rd (scalarValue size z n))
    ∧ (∀ sub, o.kind = .typed sub → reg ⟨loadElem sub (n / 2 ^ (typeWidth sub * a.lane % 8) % 2 ^ typeWidth sub), false⟩ 0)
    ∧ (o.kind = .spill → reg ⟨BitVec.ofNat 32 n, n.testBit (32 + a.lane % 32)⟩ 0)
    ∧ ∀ code, o.kind = .mx code → o.fmt.extractLsb' 16 8 = 0 →
        let w := (floatFmt code).eb + (floatFmt code).mb + 1
        let k := (ps.flatMap (spanBytes s gv.toNat)).length - 1
        let r := mxDecode code (n / 2 ^ (w * (a.lane % 32) % 8) % 2 ^ w) (n / 256 ^ k)
        reg ⟨r.1, false⟩ r.2)
  ∧ (∀ (gv : Gid) op (s : State) g o a off len, Instr.loadDataReturn gv op .clean ∈ s.due → s.group? gv.toNat = some g → g.loads = [o] →
    o.lanes = [a] → a.lane < 1024 → a.st = .need → a.fl = 0 → a.spans = [⟨off, len, none, 0, none, false⟩] → o.id = op → o.opened = true →
    o.acq = none → o.rel = none → g.fenced op = false → g.launchBefore op = false → s.sc g = 0 →
    (∃ k f, g.frags.find k = some f ∧ f.state = .ready) →
    let x := s.cluster (gidCluster gv.toNat)
    let at' := (s.grantOf gv.toNat g).1 + off
    (∀ i < len, x.spoiled (at' + i) = false) →
    (∀ code, o.kind = .scratch code → ∃ t y, exec (.loadDataReturn gv op .clean) s = .next t ∧ LoadReturned s t gv.toNat g y 0
      ∧ WritesV g { g with v := y.v } o.rd (· = a.lane) fun _ => ⟨loadElem (scratchType code) (leNat (x.sbytes at' len)), false⟩)
    ∧ ∀ code, o.kind = .atomic .scratch code → code ≤ 10 → len = 4 → a.opdS = false →
        let old := BitVec.ofNat 32 (leNat (x.sbytes at' 4))
        ∃ t y, exec (.loadDataReturn gv op .clean) s = .next t ∧ LoadReturned s t gv.toNat g y 0
          ∧ WritesV g { g with v := y.v } o.rd (· = a.lane) (fun _ => ⟨old, false⟩)
          ∧ BitVec.ofNat 32 (leNat ((t.cluster (gidCluster gv.toNat)).sbytes at' 4)) = atomicNew code (o.fmt.extractLsb' 0 3).toNat old a.opd a.cmp
          ∧ ∀ b, b < at' ∨ at' + 4 ≤ b → (t.cluster (gidCluster gv.toNat)).sbyte b = x.sbyte b)
  ∧ (∀ (gv : Gid) op (s : State) g o raw sub tile row col, Instr.loadDataReturn gv op .clean ∈ s.due → s.group? gv.toNat = some g → g.loads = [o] →
    o.id = op → o.kind = .tile raw sub tile row col → o.opened = true → o.lanes ≠ [] → (∀ a ∈ o.lanes, a.lane < 1024) →
    o.fmt.extractLsb' 16 8 = 0 → (∃ k f, g.frags.find k = some f ∧ f.state = .ready) →
    ∃ t x, exec (.loadDataReturn gv op .clean) s = .next t ∧ SameMemory s t ∧ t.group? gv.toNat = some x ∧ x.loads = []
      ∧ ∀ a ∈ o.lanes, row + a.lane / 32 < 128 → col + a.lane % 32 < 128 →
          let tl := (s.cluster (gidCluster gv.toNat)).tiles.get Tile.reset tile
          let e := tl.ents.get TEntry.zero (128 * (row + a.lane / 32) + (col + a.lane % 32))
          (raw = true → (x.vreg a.lane o.rd).data = e.acc.extractLsb' 0 32 ∧ (x.vreg a.lane (o.rd + 1)).data = e.acc.extractLsb' 32 32
            ∧ (x.vreg a.lane (o.rd + 2)).data = e.acc.extractLsb' 64 32 ∧ (x.vreg a.lane (o.rd + 3)).data.extractLsb' 16 16 = tl.ae
            ∧ (x.vreg a.lane (o.rd + 3)).data.getLsbD 0 = e.s ∧ (x.vreg a.lane (o.rd + 3)).data.getLsbD 1 = e.v)
          ∧ (raw = false → x.vreg a.lane o.rd = ⟨if e.v = true then (if sub = 0 then 0x7FC00000 else 0x7FFFFFFF)
              else BitVec.ofNat 32 (finalRound (.fin (decide (e.acc.toInt < 0)) e.acc.toInt.natAbs tl.ae.toInt) e.s
                (if sub = 0 then Target.flt fp32 else Target.int 32 2147483648 2147483647) (o.fmt.extractLsb' 0 3).toNat (o.fmt.getLsbD 3)).1,
              false⟩))
  ∧ (∀ (gv : Gid) op (s : State) g o a va pa l2c code l, Instr.loadDataReturn gv op .clean ∈ s.due →
    LoneLoad s gv.toNat g o a [⟨va, 4, some pa, 0, none, l2c⟩] 0 → o.id = op → o.kind = .atomic .near code → code ≤ 10 → a.opdS = false →
    let k := cacheOfCore (gidCore gv.toNat)
    (s.cache k).lines.find (pa / 128) = some l → l.st = .m → l.data.length = 128 →
    s.markPages (gidCluster gv.toNat) g.asn [(va, pa)] Want.atomic = s →
    let old := BitVec.ofNat 32 (leNat ((List.range 4).map fun i => l.data.getD (pa % 128 + i) 0))
    ∃ t x y, exec (.loadDataReturn gv op .clean) s = .next t ∧ LoadReturned s t gv.toNat g x 0
      ∧ WritesV g { g with v := x.v } o.rd (· = a.lane) (fun _ => ⟨old, false⟩)
      ∧ (t.cache k).lines.find (pa / 128) = some y ∧ y.st = .m
      ∧ BitVec.ofNat 32 (leNat ((List.range 4).map fun i => y.data.getD (pa % 128 + i) 0))
          = atomicNew code (o.fmt.extractLsb' 0 3).toNat old a.opd a.cmp
      ∧ (∀ i < 4, y.dirty.getLsbD (pa % 128 + i) = true) ∧ ∀ i, i < pa % 128 ∨ pa % 128 + 4 ≤ i → y.data.getD i 0 = l.data.getD i 0)
  ∧ ∀ (gv : Gid) op (s : State) g o a va pa l2c code size, Instr.farAtomicAtBank (.load gv op) ∈ s.due →
    LoneLoad s gv.toNat g o a [⟨va, size, some pa, 2, none, l2c⟩] 2 → o.id = op → o.kind = .atomic .far code → a.opdS = false →
    s.lineBusy (pa / 128) = false →
    (code ≤ 10 → size = 4 → ∃ t x, exec (.farAtomicAtBank (.load gv op)) s = .next t ∧ t.group? gv.toNat = some x ∧ x.loads = []
      ∧ WritesV g { g with v := x.v } o.rd (· = a.lane) (fun _ => ⟨BitVec.ofNat 32 (s.readNat pa 4), false⟩)
      ∧ t.readNat pa 4 = (atomicNew code (o.fmt.extractLsb' 0 3).toNat (BitVec.ofNat 32 (s.readNat pa 4)) a.opd a.cmp).toNat
      ∧ ∀ b, b < pa ∨ pa + 4 ≤ b → t.readByte b = s.readByte b)
    ∧ (code = 12 → size = 16 → o.fmt.extractLsb' 16 8 = 0 →
      let slot := BitVec.ofNat 128 (s.readNat pa 16)
      let acc := (slot.extractLsb' 0 80).toInt
      let r := finalRound (.fin (decide (acc < 0)) acc.natAbs (slot.extractLsb' 80 16).toInt) (slot.getLsbD 96) (.flt fp32)
        (o.fmt.extractLsb' 0 3).toNat (o.fmt.getLsbD 3)
      ∃ t x, exec (.farAtomicAtBank (.load gv op)) s = .next t
        ∧ LoadReturned s t gv.toNat g x (if slot.getLsbD 97 then 0x10 else r.2)
        ∧ WritesV g { g with v := x.v } o.rd (· = a.lane) fun _ => ⟨if slot.getLsbD 97 then 0x7FC00000 else BitVec.ofNat 32 r.1, false⟩)

/-- R62, R101, R103: a group's one entry in its store queue, not performed, which no older access, no LAUNCH and no FENCE holds back; the
group has a ready fragment. -/
structure Sys2Proof.Machine.LoneEntry (s : State) (q : Nat) (x : StoreQ) (e : StoreOp) (g : Group) : Prop where
  due : Instr.storePerformed q ∈ s.due
  queue : s.queue? q = some x
  ents : x.ents = [e]
  waiting : e.performed = false ∧ e.rel = none ∧ e.answers = []
  live : x.live = true
  group : s.group? x.gid = some g
  loads : g.loads = []
  free : g.launchBefore e.id = false ∧ g.fenced e.id = false
  ready : ∃ k f, g.frags.find k = some f ∧ f.state = .ready

/-- R85, R91, R338, R382, R391: its one lane has all its writes in the virtual line `vl`, whose page the cluster's buffer translates by `tr`
and has marked as written; the home of the line is reached and takes requests. -/
structure Sys2Proof.Machine.LoneLine (s : State) (x : StoreQ) (e : StoreOp) (l : LaneStore) (vl : Nat) (tr : CtbEntry) : Prop where
  lanes : e.lanes = [l]
  need : l.st = .need
  writes : l.writes ≠ [] ∧ ∀ w ∈ l.writes, w.addr / 128 = vl
  fresh : e.leaves = []
  leaf : s.lookup (gidCluster x.gid) x.asn (vl / 512 * 65536) e.kind.want = some tr
  written : tr.written = true
  sent : s.linked (gidDie x.gid) (lineDie (tr.pa (128 * vl) / 128)) = true
  open' : s.heldBack (gidDie x.gid) (lineDie (tr.pa (128 * vl) / 128)) = false

/-- R102, R240: a byte after a lane's writes whose place, by `at'`, is `b`. -/
def Sys2Proof.Machine.byteAfter (at' : ByteWrite → Nat) (ws : List ByteWrite) (old : Byte) (b : Nat) : Byte :=
  (ws.filter fun w => at' w == b).foldl (fun v w => (v &&& ~~~w.mask) ||| (w.val &&& w.mask)) old

/-- R81, R101, R102, R108, R113, R116, R117, R120 to R125, R247, R249, R257: an entry of a store queue is performed: a store of one line at
home, on an I page in the core's own copy too, on a T page in the copy that it holds in M, for which it asks where it does not; a push at
home, with its deliveries; a scratchpad store; an atomic that returns nothing, at its unit; cache maintenance. A pushed line is installed or
refused, and the push leaves when every target has answered. -/
def Obligations.StoresArePerformedAndPushesAnswered : Prop :=
  (∀ q (s : State) x e g l vl (tr : CtbEntry), LoneEntry s q x e g → LoneLine s x e l vl tr →
    let line := tr.pa (128 * vl) / 128
    let at' := fun (w : ByteWrite) => 128 * line + w.addr % 128
    let k := cacheOfCore (gidCore x.gid)
    (e.kind = .plain →
      (tr.tr = 2 ∨ tr.tr = 1 ∧ s.pushComing (gidCore x.gid) line = false → ∃ t y, exec (.storePerformed q) s = .next t ∧ t.queue? q = some y ∧ y.ents = []
        ∧ (∀ b, t.readByte b = byteAfter at' l.writes (s.readByte b) b)
        ∧ ∀ c, (s.cache k).lines.find line = some c → c.data.length = 128 → ∃ z, (t.cache k).lines.find line = some z
            ∧ ∀ i < 128, z.data.getD i 0 = if tr.tr = 1 ∧ ∃ w ∈ l.writes, at' w = 128 * line + i then t.readByte (128 * line + i) else c.data.getD i 0)
      ∧ (tr.tr = 0 → ∀ c, (s.cache k).lines.find line = some c → c.st = .m → c.data.length = 128 →
        ∃ t y z, exec (.storePerformed q) s = .next t ∧ SameMemory s t ∧ t.queue? q = some y ∧ y.ents = []
          ∧ (t.cache k).lines.find line = some z ∧ z.st = .m
          ∧ (∀ i < 128, z.data.getD i 0 = byteAfter at' l.writes (c.data.getD i 0) (128 * line + i))
          ∧ ∀ i < 128, (z.dirty.getLsbD i = true ↔ c.dirty.getLsbD i = true ∨ ∃ w ∈ l.writes, at' w = 128 * line + i))
      ∧ (tr.tr = 0 → s.holdsM k line = false → ∃ t y, exec (.storePerformed q) s = .next t ∧ SameMemory s t ∧ t.queue? q = some y
          ∧ y.ents = [{ e with leaves := [(vl / 512, tr)] }] ∧ Instr.homeOwnershipRequest k line ∈ t.due))
    ∧ ∀ targets, e.kind = .push targets → targets ≠ [] →
        (tr.tr = 0 → s.lineBusy line = false ∧ s.mCache line = none ∧ ∀ h ∈ s.holders line, s.reach (lineDie line) (h / 80) = true) →
        let refuse := tr.tr == 2 || !tr.psh || !tr.pt (vl / 512)
        ∃ t y z, exec (.storePerformed q) s = .next t ∧ (∀ b, t.readByte b = byteAfter at' l.writes (s.readByte b) b)
          ∧ t.queue? q = some y ∧ y.ents = [z] ∧ z.performed = true ∧ z.answers = targets.map (fun c => (c, line))
          ∧ ∀ c ∈ targets, Instr.pushDelivery q e.id (BitVec.ofNat 12 c) line (BitVec.ofNat 10 (gidCluster x.gid)) (tr.tr == 0) refuse
              (t.homeLine line) ∈ t.due)
  ∧ (∀ q (s : State) x e g l, LoneEntry s q x e g → e.lanes = [l] → l.st = .need →
    let cl := gidCluster x.gid
    let base := ((s.cluster cl).grantOf x.grid x.gang).1
    (e.kind = .scratch → ∃ t y, exec (.storePerformed q) s = .next t ∧ SameMemory s t ∧ t.queue? q = some y ∧ y.ents = []
      ∧ ∀ b, (t.cluster cl).sbyte b = byteAfter (fun w => base + w.addr) l.writes ((s.cluster cl).sbyte b) b)
    ∧ ∀ code, e.kind = .atomic .scratch code → code ≤ 10 → (s.cluster cl).spoiled (base + l.va) = false →
        ∃ t y, exec (.storePerformed q) s = .next t ∧ SameMemory s t ∧ t.queue? q = some y ∧ y.ents = []
          ∧ BitVec.ofNat 32 (leNat ((t.cluster cl).sbytes (base + l.va) 4)) = atomicNew code (e.fmt.extractLsb' 0 3).toNat
              (BitVec.ofNat 32 (leNat ((s.cluster cl).sbytes (base + l.va) 4))) l.opd l.cmp
          ∧ ∀ b, b < base + l.va ∨ base + l.va + 4 ≤ b → (t.cluster cl).sbyte b = (s.cluster cl).sbyte b)
  ∧ (∀ q (s : State) x e g l vl (tr : CtbEntry) unit code, LoneEntry s q x e g → LoneLine s x e l vl tr → e.kind = .atomic unit code →
    unit ≠ .scratch → code ≤ 10 →
    let pa := tr.pa l.va
    let k := cacheOfCore (gidCore x.gid)
    pa / 128 = tr.pa (128 * vl) / 128 → pa % 128 + 4 ≤ 128 →
    (unit = .near → tr.tr = 0 → ∀ c, (s.cache k).lines.find (pa / 128) = some c → c.st = .m → c.data.length = 128 → c.psn = 0 →
      ∃ t y z, exec (.storePerformed q) s = .next t ∧ SameMemory s t ∧ t.queue? q = some y ∧ y.ents = []
        ∧ (t.cache k).lines.find (pa / 128) = some z ∧ z.st = .m
        ∧ BitVec.ofNat 32 (leNat ((List.range 4).map fun i => z.data.getD (pa % 128 + i) 0)) = atomicNew code (e.fmt.extractLsb' 0 3).toNat
            (BitVec.ofNat 32 (leNat ((List.range 4).map fun i => c.data.getD (pa % 128 + i) 0))) l.opd l.cmp
        ∧ ∀ i, i < pa % 128 ∨ pa % 128 + 4 ≤ i → z.data.getD i 0 = c.data.getD i 0)
    ∧ (unit = .far ∨ tr.tr ≠ 0 → ∃ t y, exec (.storePerformed q) s = .next t ∧ SameMemory s t
        ∧ t.queue? q = some y ∧ y.ents = [{ e with leaves := [(vl / 512, tr)] }] ∧ Instr.farAtomicAtBank (.store q e.id) ∈ t.due))
  ∧ (∀ q (s : State) x e g l vl (tr : CtbEntry) code, Instr.farAtomicAtBank (.store q e.id) ∈ s.due → LoneEntry s q x e g →
    e.lanes = [l] → l.st = .need → l.writes ≠ [] → (∀ w ∈ l.writes, w.addr / 128 = vl) → e.leaves = [(vl / 512, tr)] → tr.tr = 2 →
    e.kind = .atomic .far code →
    let pa := tr.pa l.va
    s.linked (gidDie x.gid) (paDie pa) = true → s.heldBack (gidDie x.gid) (paDie pa) = false → s.lineBusy (pa / 128) = false →
    s.poisoned pa = false →
    (code ≤ 10 → ∃ t y, exec (.farAtomicAtBank (.store q e.id)) s = .next t ∧ t.queue? q = some y ∧ y.ents = []
      ∧ t.readNat pa 4 = (atomicNew code (e.fmt.extractLsb' 0 3).toNat (BitVec.ofNat 32 (s.readNat pa 4)) l.opd l.cmp).toNat
      ∧ ∀ b, b < pa ∨ pa + 4 ≤ b → t.readByte b = s.readByte b)
    ∧ ∀ v, code = 11 → slotAdd (s.readNat pa 16) (ofFp32 l.opd) l.opdS = some v →
        ∃ t y, exec (.farAtomicAtBank (.store q e.id)) s = .next t ∧ t.queue? q = some y ∧ y.ents = [] ∧ t.readNat pa 16 = v
          ∧ ∀ b, b < pa ∨ pa + 16 ≤ b → t.readByte b = s.readByte b)
  ∧ (∀ q (s : State) x e g flush lo n line (tr : CtbEntry) c, LoneEntry s q x e g → e.kind = .maint flush 1 lo n →
    s.maintLines (gidCluster x.gid) x.asn lo n = [(line, tr)] →
    let k := cacheOfCore (gidCore x.gid)
    (s.cache k).lines.find line = some c → s.linked (gidDie x.gid) (k / 80) = true → s.linked (k / 80) (lineDie line) = true →
    ∃ t y, exec (.storePerformed q) s = .next t ∧ t.queue? q = some y ∧ y.ents = []
      ∧ (∀ b, t.readByte b = if flush = true ∧ c.st = .m ∧ b / 128 = line ∧ c.dirty.getLsbD (b % 128) = true then c.data.getD (b % 128) 0 else s.readByte b)
      ∧ (t.cache k).lines.find line = (if flush = true ∨ c.st = .v ∨ c.st = .vp then none else some c)
      ∧ (flush = true ∨ c.st = .v ∨ c.st = .vp → (t.cache k).charge.find line = none))
  ∧ (∀ q op (core : BitVec 12) line (src : BitVec 10) (tt refuse : Bool) data (s : State),
    s.due.find? (delivers core.toNat line) = some (Instr.pushDelivery q op core line src tt refuse data) →
    s.reach (lineDie line) (core.toNat / 64) = true →
    let k := cacheOfCore core.toNat
    (refuse = false → s.mustRefuse core.toNat line src.toNat = false →
      ∃ t, exec (.pushDelivery q op core line src tt refuse data) s = .next t ∧ t.groups = s.groups ∧ Instr.pushAnswered q op ∈ t.due
        ∧ (t.cache k).lines.find line = some ⟨if tt then .s else .vp, s.marks line, 0, data⟩ ∧ (t.cache k).charge.find line = some src.toNat
        ∧ ∀ x, s.queue? q = some x → ∃ y, t.queue? q = some y
            ∧ y.ents = x.ents.map fun o => if o.id = op then { o with answers := o.answers.erase (core.toNat, line) } else o)
    ∧ (refuse = true ∨ s.mustRefuse core.toNat line src.toNat = true →
      ∃ t, exec (.pushDelivery q op core line src tt refuse data) s = .next t ∧ t.groups = s.groups ∧ SameMemory s t ∧ Instr.pushAnswered q op ∈ t.due
        ∧ (t.cache k).lines.find line = (if s.holdsM k line = true then (s.cache k).lines.find line else none)
        ∧ (t.core core.toNat).refusals.toNat = min ((s.core core.toNat).refusals.toNat + 1) (2 ^ 32 - 1)))
  ∧ ∀ q op (s : State) x e, Instr.pushAnswered q op ∈ s.due → s.queue? q = some x → x.live = true → x.ents.find? (fun e => e.id == op) = some e →
    e.performed = true → e.answers = [] → ∃ t y, exec (.pushAnswered q op) s = .next t ∧ t.queue? q = some y
      ∧ y.ents = x.ents.filter fun e => e.id != op

/-! ### Coherence (05) -/

/-- R112 to R114, R119: an ownership request is granted, or first invalidates and recalls other copies; an invalidation drops a
shared copy; a recall writes a modified one back; a fill installs the line. -/
def Obligations.CoherenceMovesALine : Prop :=
  (∀ cache line (s : State), Instr.homeOwnershipRequest cache line ∈ s.due → s.lineBusy line = false → s.holdsM cache line = false →
    s.linked (cache / 80) (lineDie line) = true → s.mCache line = none →
    let q := (s.die (lineDie line)).homeSeq + 1
    ((∀ k ∈ s.holders line, k = cache) → ∃ t, exec (.homeOwnershipRequest cache line) s = .next t ∧ SameMemory s t ∧ t.caches = s.caches
      ∧ Instr.fillGrantReceived cache line true q (s.homeLine line) ∈ t.due ∧ t.mDie line = some (cache / 80))
    ∧ ((∃ k ∈ s.holders line, k ≠ cache) → ∃ t, exec (.homeOwnershipRequest cache line) s = .next t ∧ SameMemory s t ∧ t.caches = s.caches
      ∧ t.lineBusy line = true ∧ ∀ k ∈ s.holders line, k ≠ cache → Instr.invalidationReceived k line q ∈ t.due))
  ∧ (∀ cache line (s : State) h, Instr.homeOwnershipRequest cache line ∈ s.due → s.lineBusy line = false → s.holdsM cache line = false →
    s.linked (cache / 80) (lineDie line) = true → s.mCache line = some h → ∃ t, exec (.homeOwnershipRequest cache line) s = .next t ∧ SameMemory s t ∧ t.caches = s.caches
      ∧ t.lineBusy line = true ∧ Instr.recallReceived h line true ∈ t.due)
  ∧ (∀ cache line q (s : State) l, Instr.invalidationReceived cache line q ∈ s.due → (s.cache cache).lines.find line = some l → l.st = .s →
    s.reach (lineDie line) (cache / 80) = true → ∃ t, exec (.invalidationReceived cache line q) s = .next t ∧ SameMemory s t ∧ t.groups = s.groups ∧ (t.cache cache).lines.find line = none
      ∧ (∀ k, k ≠ line → (t.cache cache).lines.find k = (s.cache cache).lines.find k) ∧ ∀ k, k ≠ cache → t.cache k = s.cache k)
  ∧ (∀ cache line own (s : State) l, Instr.recallReceived cache line own ∈ s.due → (s.cache cache).lines.find line = some l → l.st = .m →
    s.reach (lineDie line) (cache / 80) = true → ∃ t, exec (.recallReceived cache line own) s = .next t ∧ t.groups = s.groups
      ∧ (t.cache cache).lines.find line = (if own then none else some { l with st := .s, dirty := 0 })
      ∧ ∀ a, t.readByte a = if a / 128 = line ∧ l.dirty.getLsbD (a % 128) = true then l.data.getD (a % 128) 0 else s.readByte a)
  ∧ (∀ cache line q data (s : State), Instr.fillGrantReceived cache line true q data ∈ s.due →
    s.reach (lineDie line) (cache / 80) = true → ∃ t, exec (.fillGrantReceived cache line true q data) s = .next t ∧ t.groups = s.groups
      ∧ (t.cache cache).lines.find line = some ⟨.m, s.marks line, 0, data⟩)
  ∧ ∀ cache line q data (s : State) w, Instr.fillGrantReceived cache line false q data ∈ s.due → s.reach (lineDie line) (cache / 80) = true →
    (s.cache cache).miss.find line = some w → w.inval = none →
    ∃ t, exec (.fillGrantReceived cache line false q data) s = .next t ∧ t.groups = s.groups ∧ (t.cache cache).miss.find line = none
      ∧ (t.cache cache).lines.find line = some ⟨.s, s.marks line, 0, data⟩

/-! ### Translation and parking (04, 18) -/

/-- R85, R87, R92 to R94, R385: a walk fills the cluster's buffer or parks its access; what waits for room, for a scrub or for an
answer goes on when its time comes. -/
def Obligations.WalksFillOrPark : Prop :=
  (∀ (c : BitVec 10) (asn : BitVec 16) vpn (g : Gid) op (s : State) p want va e, Instr.pageWalk c asn vpn (.load g op) ∈ s.walking (c.toNat / 16) →
    s.partyOf (.load g op) vpn = some (p, want, va) → s.walk (c.toNat / 16) asn.toNat va want false = .ok e →
    ∃ t, exec (.pageWalk c asn vpn (.load g op)) s = .next t ∧ SameMemory s t ∧ t.groups = s.groups
      ∧ (∃ x ∈ (t.cluster c.toNat).ctb, x = { e with frames := x.frames })
      ∧ ((∀ x ∈ (s.cluster c.toNat).ctb, x.joins e = false) → e ∈ (t.cluster c.toNat).ctb))
  ∧ (∀ (c : BitVec 10) (asn : BitVec 16) vpn (g : Gid) op (s : State) p want va kind level n, Instr.pageWalk c asn vpn (.load g op) ∈ s.walking (c.toNat / 16) →
    s.partyOf (.load g op) vpn = some (p, want, va) → s.walk (c.toNat / 16) asn.toNat va want false = .fault kind level →
    (∀ e ∈ (s.die (c.toNat / 16)).quag, e.2.st ≠ .rewalk) → p.cluster = c.toNat → (s.die (c.toNat / 16)).quagOf p.asn vpn .parked = none →
    (s.die (c.toNat / 16)).quagRoom p.tenant = some n →
    ∃ t q, exec (.pageWalk c asn vpn (.load g op)) s = .next t ∧ (t.die (c.toNat / 16)).quag.find n = some q ∧ q.st = .parked ∧ q.asn = p.asn
      ∧ q.vpn = vpn ∧ q.va = va ∧ q.kind = kind ∧ q.members = [(.load g op, vpn)]
      ∧ Instr.parkingTimeout (BitVec.ofNat 6 (c.toNat / 16)) (BitVec.ofNat 10 n) ∈ t.due)
  ∧ (∀ (die : BitVec 6) (s : State) w, Instr.quagRoomFreed die ∈ s.due → (s.die die.toNat).walkQ = [w] →
    (s.die die.toNat).quagOf w.asn w.vpn .parked ≠ none → ∃ t, exec (.quagRoomFreed die) s = .next t ∧ t.groups = s.groups ∧ SameMemory s t
      ∧ (t.die die.toNat).walkQ = [] ∧ Instr.pageWalk (BitVec.ofNat 10 w.cluster) w.asn w.vpn w.who ∈ t.due)
  ∧ (∀ (die : BitVec 6) (n : BitVec 10) (s : State) q, Instr.scrubWaitReread die n ∈ s.due → (s.die die.toNat).quag.find n.toNat = some q →
    q.st = .scrubWait →
    (s.linked die.toNat (paDie (65536 * q.frame)) = true → ownState (s.ownEntry (65536 * q.frame)) = 2 →
      exec (.scrubWaitReread die n) s = .next s)
    ∧ (ownState (s.ownEntry (65536 * q.frame)) ≠ 2 → q.members ≠ [] →
      ∃ t, exec (.scrubWaitReread die n) s = .next t ∧ t.groups = s.groups ∧ SameMemory s t
        ∧ (t.die die.toNat).quag.find n.toNat = some { q with st := .rewalk }
        ∧ ∀ m ∈ q.members, Instr.pageWalk (BitVec.ofNat 10 q.cluster) q.asn m.2 m.1 ∈ t.due))
  ∧ ∀ (die : BitVec 6) (n : BitVec 10) (s : State) q, (s.die die.toNat).quag.find n.toNat = some q → q.st = .parked →
    let late := (s.die die.toNat).qtmo.getLsbD 63 = true
      ∧ q.clock + ((s.die die.toNat).qtmo.extractLsb' 0 32).toNat * 4096 ≤ s.clock die.toNat
    (¬late → exec (.parkingTimeout die n) s = .next s)
    ∧ ∀ dv qv v, late → FormsNew s die.toNat → q.members = [(.queueRec dv qv, v)] → ∃ t, exec (.parkingTimeout die n) s = .next t ∧ t.groups = s.groups
        ∧ (t.die die.toNat).quag.find n.toNat = none ∧ (t.die die.toNat).seq = (s.die die.toNat).seq + 1
        ∧ t.answers = s.answers ++ [⟨.queueRec dv qv, v, .ended true⟩]

/-! ### The matrix engine at work (11, 14, 19) -/

/-! ### Engine operations at work (04, 10, 19) -/

/-- R98, R252, R253, R258, R259, R398: a copy moves its bytes; an update combines its elements; both leave ec; a failed one halts
its group; the maintenance of instruction caches ends. -/
def Obligations.EngineOperationsTakeEffect : Prop :=
  (∀ (gv : Gid) op (s : State) g o d, Instr.copyComplete gv op ∈ s.due → s.group? gv.toNat = some g → g.engs = [o] → o.id = op → o.kind = .copy d →
    d.dir = 1 → o.failed = none → o.ticket = none → g.loads = [] → s.sc g = 0 → (∃ k f, g.frags.find k = some f ∧ f.state = .ready) →
    s.poison = [] → (s.cluster (gidCluster gv.toNat)).spoison = [] → (d.bytes.map (·.2)).Nodup →
    (∀ b ∈ d.bytes, ∃ pa, s.copyEnd gv.toNat g o d true b.1 = some (.mem pa 2) ∧ s.linked (gidDie gv.toNat) (paDie pa) = true
      ∧ s.heldBack (gidDie gv.toNat) (paDie pa) = false) →
    ∃ t x, exec (.copyComplete gv op) s = .next t ∧ SameMemory s t ∧ t.group? gv.toNat = some x ∧ x.engs = []
      ∧ ∀ b ∈ d.bytes, ∀ pa, s.copyEnd gv.toNat g o d true b.1 = some (.mem pa 2) →
          (t.cluster (gidCluster gv.toNat)).sbyte ((s.grantOf gv.toNat g).1 + b.2) = s.readByte pa)
  ∧ (∀ (gv : Gid) op (s : State) g o code ty dst src n rm e, Instr.fupdPerformed gv op ∈ s.due → s.group? gv.toNat = some g → g.engs = [o] → o.id = op →
    o.kind = .fupd code ty dst src n rm → o.failed = none → g.loads = [] → s.sc g = 0 → (∃ k f, g.frags.find k = some f ∧ f.state = .ready) →
    s.poison = [] → (s.cluster (gidCluster gv.toNat)).spoison = [] → n % 4 = 0 → dst % 128 + n ≤ 128 →
    s.lookup (gidCluster gv.toNat) g.asn dst (o.wantOf false) = some e → s.lookup (gidCluster gv.toNat) g.asn (dst / 65536 * 65536) (o.wantOf false) = some e →
    e.tr = 2 → e.written = true → s.linked (gidDie gv.toNat) (paDie (e.pa dst)) = true → s.heldBack (gidDie gv.toNat) (paDie (e.pa dst)) = false →
    ∃ t x, exec (.fupdPerformed gv op) s = .next t ∧ t.group? gv.toNat = some x ∧ x.engs = []
      ∧ (∀ i < n / 4, BitVec.ofNat 32 (t.readNat (e.pa dst + 4 * i) 4) = fupdElem code ty rm (BitVec.ofNat 32 (s.readNat (e.pa dst + 4 * i) 4))
          (BitVec.ofNat 32 (leNat ((s.cluster (gidCluster gv.toNat)).sbytes ((s.grantOf gv.toNat g).1 + src + 4 * i) 4))))
      ∧ ∀ a, a < e.pa dst ∨ e.pa dst + n ≤ a → t.readByte a = s.readByte a)
  ∧ (∀ (gv : Gid) op (cause : Byte) addr (s : State) g o code ty dst src n rm va, Instr.engineOperationFailed gv op cause addr ∈ s.due →
    s.group? gv.toNat = some g → g.engs = [o] → o.id = op → o.kind = .fupd code ty dst src n rm → o.failed = some (cause.toNat, va, false) →
    g.halt = none → FormsNew s (gidDie gv.toNat) → s.inFlight (gidDie gv.toNat) (.copy gv op) = false →
    ∃ t x, exec (.engineOperationFailed gv op cause addr) s = .next t ∧ t.group? gv.toNat = some x ∧ x.engs = []
      ∧ x.halt = some ⟨0x11, cause.toNat, o.pc, false, true⟩ ∧ (t.die (gidDie gv.toNat)).seq = (s.die (gidDie gv.toNat)).seq + 1)
  ∧ (∀ (gv : Gid) (fv : BitVec 5) (s : State) g f lo scope, Instr.icinvDone gv fv ∈ s.due → s.group? gv.toNat = some g → g.frags.find fv.toNat = some f →
    f.hold = .icinv lo 0 scope → 1 ≤ scope → scope ≤ 5 → ∃ t, exec (.icinvDone gv fv) s = .next t ∧ SameMemory s t
      ∧ (t.core (gidCore gv.toNat)).icache = [] ∧ (t.core (gidCore gv.toNat)).pins = (s.core (gidCore gv.toNat)).pins
      ∧ FragIs t gv.toNat fv.toNat fun _ y => y.state = .ready ∧ y.pc = f.pc + 4)
  ∧ ∀ (gv : Gid) (fv : BitVec 5) (s : State) g f sd lo e, Instr.instructionFetchFill gv fv ∈ s.due → s.group? gv.toNat = some g →
    g.frags.find fv.toNat = some f → f.hold = .ipin sd lo 1 → s.answers = [] → lo < 2 ^ 64 → sd ≠ 0 →
    s.lookup (gidCluster gv.toNat) g.asn (128 * (lo / 128)) Want.fetch = some e →
    let line := e.pa (128 * (lo / 128)) / 128
    (s.core (gidCore gv.toNat)).icache.has line = true → (s.core (gidCore gv.toNat)).pins = [] →
    ∃ t, exec (.instructionFetchFill gv fv) s = .next t ∧ SameMemory s t ∧ (t.core (gidCore gv.toNat)).pins = [line]
      ∧ FragIs t gv.toNat fv.toNat fun x y => y.state = .ready ∧ y.pc = f.pc + 4 ∧ x.sreg sd = 1

/-! ### Power (12, 19) -/

/-- R267: q is k·2^ex / 2^ae cut off toward zero, and `cut` says whether anything is cut off. -/
def Sys2Proof.Machine.Scaled (k ex ae q : Int) (cut : Bool) : Prop :=
  (ae ≤ ex → q = k * 2 ^ (ex - ae).toNat ∧ cut = false)
  ∧ (ex < ae → q = k.tdiv (2 ^ (ae - ex).toNat) ∧ (cut = true ↔ ¬(2 ^ (ae - ex).toNat : Int) ∣ k))

/-- R267, R271, R274, R280, R281, R309, R342, R394 to R396, R401: power goes to the oldest request that fits; the arbiter lets an operation
take effect or grants a K-step, to a loop passed over 16 times first, else to the oldest of the highest prio; a K-step adds its sums to its
tiles, and the last one ends its loop; one that meets poison or fails its check twice holds the loop and halts the group; an empty engine
changes mode. -/
def Obligations.PowerIsGrantedAndKStepsAdd : Prop :=
  ((∀ (c : BitVec 10) half (s : State) r g, Instr.kstepGrant c half ∈ s.due → (s.cluster c.toNat).table = [r] → r.kind = .mzero → r.st = .queued →
     s.halfOf c.toNat r.tile = half → s.group? r.gid = some g → g.halt = none →
     (∀ e ∈ s.groups, gidCluster e.1 = c.toNat → s.group? e.1 = some e.2 ∧ ∃ f ∈ e.2.frags, f.2.state = .ready) →
     ∃ t, exec (.kstepGrant c half) s = .next t ∧ SameMemory s t ∧ (t.cluster c.toNat).table = []
       ∧ (t.cluster c.toNat).tiles.get Tile.reset r.tile = { Tile.reset with ae := (r.args.getD 0 0).extractLsb' 0 16 })
   ∧ (∀ (c : BitVec 10) half (s : State) r g k, Instr.kstepGrant c half ∈ s.due → (s.cluster c.toNat).table = [r] → r.kind = .mloop → r.st = .queued →
     s.halfOf c.toNat r.tile = half → s.group? r.gid = some g → g.halt = none → g.loads = [] → s.sc g = 0 → r.done < (loopDesc r.args).steps → r.ticket = some k →
     r.after = none →
     s.powered (c.toNat / 16) (some k) = true → ∃ t x, exec (.kstepGrant c half) s = .next t ∧ SameMemory s t ∧ t.groups = s.groups
       ∧ (t.cluster c.toNat).table = [x] ∧ x.st = .running ∧ x.done = r.done ∧ x.args = r.args ∧ x.snap.isSome = true
       ∧ Instr.kstepComplete c half 0 ∈ t.due)
   ∧ (∀ (c : BitVec 10) half (s : State) r g, Instr.kstepGrant c half ∈ s.due → (s.cluster c.toNat).table = [r] → r.kind = .mcfg → r.st = .queued →
     s.halfOf c.toNat r.tile = half → s.group? r.gid = some g → g.halt = none →
     (∀ e ∈ s.groups, gidCluster e.1 = c.toNat → s.group? e.1 = some e.2 ∧ ∃ f ∈ e.2.frags, f.2.state = .ready) →
     let x := (s.cluster c.toNat).tiles.get Tile.reset r.tile
     let ae := (r.args.getD 0 0).extractLsb' 0 16
     let b := r.args.getD 1 0
     ∃ t y, exec (.kstepGrant c half) s = .next t ∧ SameMemory s t ∧ (t.cluster c.toNat).table = []
       ∧ (t.cluster c.toNat).tiles.get Tile.reset r.tile = y ∧ y.ae = ae ∧ y.ferr = (x.ferr && !b.getLsbD 1)
       ∧ (b.getLsbD 0 = true → y.ovf = false) ∧ (b.getLsbD 0 = false → x.ovf = true → y.ovf = true)
       ∧ ∀ key e, x.ents.find key = some e → ∃ e' q cut, y.ents.find key = some e' ∧ Scaled e.acc.toInt x.ae.toInt ae.toInt q cut
           ∧ e'.acc.toInt = max (-(2 ^ 95)) (min (2 ^ 95 - 1) q) ∧ e'.s = (e.s || cut) ∧ e'.v = e.v
           ∧ (b.getLsbD 0 = false → q < -(2 ^ 95) ∨ 2 ^ 95 - 1 < q → y.ovf = true))
   ∧ (∀ (c : BitVec 10) half (s : State) r, Instr.kstepGrant c half ∈ s.due →
     let table := (s.cluster c.toNat).table
     let el := s.eligible c.toNat half
     (∀ e ∈ table, s.halfOf c.toNat e.tile = half → e.kind = .mloop ∧ e.done < (loopDesc e.args).steps ∧ e.ticket ≠ none ∧ e.st ≠ .running) →
     (table.map fun e => (e.gid, e.id)).Nodup →
     (el.find? (fun e => decide (16 ≤ e.passed)) = some r
       ∨ (∀ e ∈ el, e.passed < 16) ∧ el.find? (fun e => el.all fun o => decide ((loopDesc o.args).prio ≤ (loopDesc e.args).prio)) = some r) →
     ∃ t x, exec (.kstepGrant c half) s = .next t ∧ SameMemory s t ∧ t.groups = s.groups ∧ x ∈ (t.cluster c.toNat).table ∧ x.gid = r.gid ∧ x.id = r.id
       ∧ x.st = .running ∧ x.passed = 0 ∧ x.done = r.done ∧ x.args = r.args ∧ Instr.kstepComplete c half 0 ∈ t.due
       ∧ ∀ e ∈ el, e ≠ r → { e with passed := e.passed + 1 } ∈ (t.cluster c.toNat).table)
   ∧ (∀ (c : BitVec 10) half (s : State) r g, Instr.kstepComplete c half 0 ∈ s.due → (s.cluster c.toNat).table = [r] → r.st = .running →
     s.halfOf c.toNat r.tile = half → s.group? r.gid = some g → g.halt = none → r.abandon = false →
     let d := loopDesc r.args
     let base := (s.grantOf r.gid g).1
     let tiles := fun (t : State) => t.cluster c.toNat |>.tiles
     let rows := (s.cluster c.toNat).stepRows r d base s.fresh
     let sums := fun (t : State) => (tiles t).get Tile.reset d.tile = stepTile ((tiles s).get Tile.reset d.tile) rows.1 (rows.2.take 128)
       ∧ (128 < d.n → (tiles t).get Tile.reset (d.tile + 4) = stepTile ((tiles s).get Tile.reset (d.tile + 4)) rows.1 (rows.2.drop 128))
     let held := { r with st := .held, ticket := none, snap := none }
     let halted := fun (t : State) (cause : Nat) => (t.cluster c.toNat).table = [held] ∧ tiles t = tiles s
       ∧ t.group? r.gid = some { g with halt := some ⟨0x10, cause, r.pc, false, true⟩ }
     ((∀ o ∈ d.offsets r.done, (s.cluster c.toNat).spoiled (base + o) = false) →
       (r.done + 1 < d.steps → ∃ t, exec (.kstepComplete c half 0) s = .next t ∧ SameMemory s t ∧ t.groups = s.groups
         ∧ (t.cluster c.toNat).table = [{ r with done := r.done + 1, st := .queued }] ∧ Instr.kstepGrant c half ∈ t.due ∧ sums t)
       ∧ (d.steps = r.done + 1 → r.kind = .mloop →
         (∀ e ∈ s.groups, gidCluster e.1 = c.toNat → s.group? e.1 = some e.2 ∧ ∃ f ∈ e.2.frags, f.2.state = .ready) →
         ∃ t x, exec (.kstepComplete c half 0) s = .next t ∧ SameMemory s t ∧ (t.cluster c.toNat).table = [] ∧ sums t ∧ t.group? r.gid = some x
           ∧ x.v = g.v ∧ x.s = g.s ∧ x.p = g.p ∧ x.flags = g.flags ∧ x.halt = none
           ∧ ∀ k, r.ticket = some k → s.powered (c.toNat / 16) (some k) = true → Instr.powerRelease (BitVec.ofNat 6 (c.toNat / 16)) k ∈ t.due))
     ∧ (FormsNew s (c.toNat / 16) → r.kind = .mloop → gidCluster r.gid = c.toNat →
       ((∃ o ∈ d.offsets r.done, (s.cluster c.toNat).spoiled (base + o) = true) → ∃ t, exec (.kstepComplete c half 0) s = .next t ∧ halted t 2
         ∧ (t.die (c.toNat / 16)).seq = (s.die (c.toNat / 16)).seq + 1)
       ∧ (s.split c.toNat = false → ∃ t, exec (.kstepComplete c half 2) s = .next t ∧ halted t 5
         ∧ (t.die (c.toNat / 16)).seq = (s.die (c.toNat / 16)).seq + 2
         ∧ ∀ i < 8, t.disabledHalf c.toNat i = true)))
   ∧ (∀ ae e x y k (ex : Int), rowSum x y = (k, ex) → ∃ q cut, Scaled k ex ae.toInt q cut ∧
     let sum := e.acc.toInt + q
     ((stepEntry ae e x y).1.acc.toInt = max (-(2 ^ 95)) (min (2 ^ 95 - 1) sum)) ∧ ((stepEntry ae e x y).2 = true ↔ sum < -(2 ^ 95) ∨ 2 ^ 95 - 1 < sum)
       ∧ (stepEntry ae e x y).1.s = (e.s || cut || x.disc || y.disc) ∧ (stepEntry ae e x y).1.v = (e.v || x.inv || y.inv))
   ∧ (∀ (c : BitVec 10) (s : State), Instr.arrayModeSwitch c ∈ s.due → (s.cluster c.toNat).table = [] → s.tilesHeld c.toNat = 0 →
     ∃ t, exec (.arrayModeSwitch c) s = .next t ∧ t.groups = s.groups ∧ SameMemory s t
       ∧ (t.die (c.toNat / 16)).mmodeCur.getLsbD (c.toNat % 16) = (s.die (c.toNat / 16)).mmodeReq.getLsbD (c.toNat % 16)
       ∧ ∀ k, k ≠ c.toNat % 16 → (t.die (c.toNat / 16)).mmodeCur.getLsbD k = (s.die (c.toNat / 16)).mmodeCur.getLsbD k)
   ∧ ∀ (c : BitVec 10) (tile : BitVec 3) (row col : BitVec 7) (s : State), FormsNew s (c.toNat / 16) → ∃ t, exec (.tileEntryEccError c tile row col) s = .next t ∧ t.groups = s.groups
       ∧ ((t.cluster c.toNat).tiles.get Tile.reset tile.toNat).ents.get TEntry.zero (128 * row.toNat + col.toNat) = ⟨0, false, true⟩
       ∧ (t.die (c.toNat / 16)).seq = (s.die (c.toNat / 16)).seq + 1)
  ∧ (∀ (die : BitVec 6) (s : State) k cost rest, Instr.powerGrant die ∈ s.due → (s.die die.toNat).power.queue = (k, cost) :: rest →
    let p := (s.die die.toNat).power
    (p.overSince = none → p.units + cost ≤ p.cap → ∃ t, exec (.powerGrant die) s = .next t ∧ t.groups = s.groups ∧ SameMemory s t
      ∧ (t.die die.toNat).power = { p with queue := rest, held := p.held ++ [(k, cost)], units := p.units + cost })
    ∧ (p.overSince ≠ none ∨ p.cap < p.units + cost → exec (.powerGrant die) s = .next s))
  ∧ (∀ (die : BitVec 6) k (s : State) h, (s.die die.toNat).power.held.find? (fun e => e.1 == k) = some h →
    let held := (s.die die.toNat).power.held.filter fun e => e.1 != k && s.grantRecorded die.toNat e.1
    ∃ t, exec (.powerRelease die k) s = .next t ∧ t.groups = s.groups ∧ (t.die die.toNat).power.held = held
      ∧ (t.die die.toNat).power.units = (held.map (·.2)).sum)
  ∧ (∀ (die : BitVec 6) (s : State), (s.die die.toNat).power.overSince = none → FormsNew s die.toNat → ∃ t, exec (.powerOverLimit die) s = .next t ∧ t.groups = s.groups
      ∧ (t.die die.toNat).power.overSince = some (s.clock die.toNat) ∧ (t.die die.toNat).seq = (s.die die.toNat).seq + 1
      ∧ Instr.powerOverLimit10ms die ∈ t.due)
  ∧ (∀ (die : BitVec 6) (s : State) k, (s.die die.toNat).power.overSince = some k →
    (s.clock die.toNat < k + 8500000 → exec (.powerOverLimit10ms die) s = .next s)
    ∧ (k + 8500000 ≤ s.clock die.toNat → FormsNew s die.toNat → ∃ t, exec (.powerOverLimit10ms die) s = .next t ∧ t.groups = s.groups
        ∧ (t.die die.toNat).rreq.getLsbD 63 = true ∧ Instr.dieFence die ∈ t.due ∧ (t.die die.toNat).seq = (s.die die.toNat).seq + 1))
  ∧ ∀ (die : BitVec 6) (s : State), ∃ t, exec (.powerReadingRecovered die) s = .next t ∧ t.groups = s.groups ∧ SameMemory s t
      ∧ (t.die die.toNat).power = { (s.die die.toNat).power with overSince := none }

/-! ### Launches, tickets and placement (12) -/

/-- R202, R203, R290 to R292, R295, R297 to R299: a launch record is accepted or rejected; gang tickets are taken, handed over and
placed. That a LAUNCH of an aborted grid is answered with status 4 is the model's choice (log 59). -/
def Obligations.LaunchesTicketsAndPlacements : Prop :=
  (∀ (die : BitVec 6) (gv : Gid) (fv : BitVec 5) (s : State) g f rd lanes a b bs n op, Instr.launchRecordAccept die (.group gv fv) ∈ s.due →
    s.group? gv.toNat = some g → g.frags.find fv.toNat = some f → f.hold = .launch rd lanes a (b :: bs) n op → die.toNat = gidDie gv.toNat →
    (s.dist die.toNat).up = true → recordOk (b :: bs) = false → recField (b :: bs) 0x20 8 = 0 →
    ∃ t, exec (.launchRecordAccept die (.group gv fv)) s = .next t ∧ t.grids = s.grids
      ∧ FragIs t gv.toNat fv.toNat fun x y => y.state = .ready ∧ y.pc = f.pc + 4
          ∧ ∀ l ∈ lanesOf lanes g.lanes, l < 1024 → x.vreg l rd = ⟨0, false⟩)
  ∧ (∀ (die : BitVec 6) (gv : Gid) (fv : BitVec 5) (s : State) g f rd lanes a b bs n op k u, Instr.launchRecordAccept die (.group gv fv) ∈ s.due →
    s.group? gv.toNat = some g → g.frags.find fv.toNat = some f → f.hold = .launch rd lanes a (b :: bs) n op → die.toNat = gidDie gv.toNat →
    (s.dist die.toNat).up = true →
    s.judge (gidCluster gv.toNat) { tenant := g.tenant, asn := g.asn, depth := g.depth.toNat + 1, dies := [die.toNat], queue := none
                                    parent := some (g.grid.toNat, g.gang.toNat, gv.toNat), batch := some (g.index.toNat, n), record := 0 }
      (b :: bs) (.launchDesc gv fv) = .accept k u →
    (∀ p, u.grid? g.grid.toNat = some p → p.aborted = true → recField (b :: bs) 0x20 8 = 0 →
      ∃ t, exec (.launchRecordAccept die (.group gv fv)) s = .next t ∧ t.grids = u.grids
        ∧ FragIs t gv.toNat fv.toNat fun x y => y.state = .ready ∧ y.pc = f.pc + 4
            ∧ ∀ l ∈ lanesOf lanes g.lanes, l < 1024 → x.vreg l rd = ⟨0, false⟩)
    ∧ ((∀ p, u.grid? g.grid.toNat = some p → p.aborted = false) →
    let id := die.toNat * 2 ^ 26 + u.nextGrid die.toNat
    ∃ t gr, exec (.launchRecordAccept die (.group gv fv)) s = .next t ∧ t.grid? id = some gr ∧ gr.desc = k ∧ gr.tenant = g.tenant
      ∧ gr.depth = g.depth.toNat + 1 ∧ gr.parent = some (g.grid.toNat, g.gang.toNat, gv.toNat) ∧ gr.batch = some (g.index.toNat, n)
      ∧ FragIs t gv.toNat fv.toNat fun x y => y.state = .ready ∧ y.pc = f.pc + 4
          ∧ ∀ l ∈ lanesOf lanes g.lanes, l < 1024 → x.vreg l rd = ⟨BitVec.ofNat 32 id, false⟩))
  ∧ (∀ (die : BitVec 6) (grid : Word) (s : State) g k, Instr.ticketTake die grid ∈ s.due → (s.dist die.toNat).up = true → s.grid? grid.toNat = some g →
    (s.dist die.toNat).tickets.find grid.toNat = some k → g.aborted = false → (s.dist die.toNat).restores = [] → (s.dist die.toNat).tokens = [] →
    k.front = [] → k.c < k.h → (s.planGang die.toNat grid.toNat g.desc none).isSome = true →
    let gang := k.rank + g.dies.length * k.c
    ∃ t, exec (.ticketTake die grid) s = .next t ∧ t.groups = s.groups ∧ SameMemory s t ∧ (t.dist die.toNat).tokens = [(grid.toNat, gang)]
      ∧ (t.dist die.toNat).tickets.find grid.toNat = some { k with c := k.c + 1 } ∧ Instr.gangPlacement die grid (BitVec.ofNat 32 gang) ∈ t.due)
  ∧ (∀ (die : BitVec 6) (grid : Word) (thief : BitVec 6) (s : State) k, Instr.stealRequest die grid thief ∈ s.due → (s.dist die.toNat).up = true →
    (s.dist die.toNat).tickets.find grid.toNat = some k → s.linked die.toNat thief.toNat = true →
    let m := (k.h - k.c) / 2
    (m = 0 → ∃ t, exec (.stealRequest die grid thief) s = .next t ∧ SameMemory s t ∧ Instr.stealReply thief grid die 0 0 0 ∈ t.due)
    ∧ (m ≠ 0 → ∃ t, exec (.stealRequest die grid thief) s = .next t ∧ t.groups = s.groups
        ∧ (t.dist die.toNat).tickets.find grid.toNat = some { k with h := k.h - m }
        ∧ Instr.stealReply thief grid die k.rank (k.h - m) k.h ∈ t.due))
  ∧ (∀ (die : BitVec 6) (grid : Word) (peer : BitVec 6) rank lo hi (s : State) k, Instr.stealReply die grid peer rank lo hi ∈ s.due →
    (s.dist die.toNat).up = true → (s.dist die.toNat).tickets.find grid.toNat = some k →
    ∃ t, exec (.stealReply die grid peer rank lo hi) s = .next t ∧ t.groups = s.groups ∧ SameMemory s t ∧ Instr.ticketTake die grid ∈ t.due
      ∧ (t.dist die.toNat).tickets.find grid.toNat = some (if lo < hi then { k with rank := rank, c := lo, h := hi, tried := [], stealing := false }
          else { k with tried := k.tried ++ [peer.toNat], stealing := false }))
  ∧ (∀ (die : BitVec 6) (grid gang : Word) (s : State) g m ps, Instr.gangPlacement die grid gang ∈ s.due → (s.dist die.toNat).up = true →
    s.grid? grid.toNat = some g → (grid.toNat, gang.toNat) ∈ (s.dist die.toNat).tokens → (s.dist die.toNat).pending = [] → s.restoresFirst die.toNat g = false →
    s.planGang die.toNat grid.toNat g.desc none = some (m, ps) → (∀ p ∈ ps, p.cluster / 16 = die.toNat) →
    ((ps.flatMap (·.groups)).map (·.2)).Nodup →
    ∃ t x, exec (.gangPlacement die grid gang) s = .next t ∧ SameMemory s t ∧ t.gang? grid.toNat gang.toNat = some x ∧ x.st = .placed ∧ x.tmask = m
      ∧ x.barr = 0 ∧ x.retired = 0 ∧ ∀ p ∈ ps, ∀ e ∈ p.groups, ∃ q k, t.group? e.2
            = some (newGroup g grid.toNat gang.toNat e.1 q k (s.die (gidDie e.2)).tokSeq))
  ∧ ∀ (peer die : BitVec 6) (grid gang : Word) (s : State) g w, Instr.placementReservation peer die grid gang .reserve ∈ s.due →
    (s.dist peer.toNat).up = true → (s.dist die.toNat).up = true → s.grid? grid.toNat = some g → (s.dist die.toNat).pending = [w] → w.grid = grid.toNat → w.gang = gang.toNat →
    s.linked die.toNat peer.toNat = true → g.aborted = false → s.stillFree g.desc w.tmask (w.places.filter fun x => x.cluster / 16 == peer.toNat) = true →
    ∃ t, exec (.placementReservation peer die grid gang .reserve) s = .next t ∧ t.groups = s.groups ∧ SameMemory s t
      ∧ (t.dist die.toNat).pending = [{ w with reserved := w.reserved ++ [peer.toNat] }]
      ∧ ((∀ e ∈ peerDies die.toNat w.places, e = peer.toNat ∨ e ∈ w.reserved) → ∀ e ∈ peerDies die.toNat w.places,
          Instr.placementReservation (BitVec.ofNat 6 e) die grid gang .commit ∈ t.due)

/-! ### Pre-emption, halts and aborts (12, 19) -/

/-- R302: a halt of the gang has been asked for, for `why`. -/
def Sys2Proof.Machine.HaltAsked (t : State) (grid gang : Word) (x : Gang) (why : HaltWhy) : Prop :=
  (∃ y, t.gang? grid.toNat gang.toNat = some y ∧ y.st = .halting ∧ y.why = why ∧ y.places = x.places ∧ y.groups = x.groups)
    ∧ Instr.haltComplete (BitVec.ofNat 32 grid.toNat) (BitVec.ofNat 32 gang.toNat) ∈ t.due
    ∧ (∀ d ∈ x.dies, Instr.haltTimeout (BitVec.ofNat 6 d) (BitVec.ofNat 32 grid.toNat) (BitVec.ofNat 32 gang.toNat) ∈ t.due)
    ∧ ∀ gid ∈ x.gids, ∀ g, t.group? gid = some g → ∃ h, g.halt = some h ∧ h.save = true

/-- R302 to R304, R402, R403: the method of a pre-emption, its timeouts, the end of a halt, and an abort. -/
def Obligations.PreemptionHaltsAndAborts : Prop :=
  (∀ (die : BitVec 6) (grid gang : Word) split (s : State) g x, (s.dist die.toNat).up = true → s.grid? grid.toNat = some g →
    s.gang? grid.toNat gang.toNat = some x → x.st = .placed →
    let p := s.progress g x
    let restarts := p < 64 ∧ g.desc.idem = true ∧ x.childGrids = [] ∧ s.gangCalls x = false
    ((split = true ∨ (p < 192 ∧ ¬restarts)) → ∃ t, exec (.preemption die grid gang split) s = .next t ∧ SameMemory s t ∧ HaltAsked t grid gang x .save)
    ∧ (split = false → restarts → ∃ t, exec (.preemption die grid gang split) s = .next t ∧ SameMemory s t ∧ HaltAsked t grid gang x .flush)
    ∧ (split = false → 192 ≤ p → ∃ t, exec (.preemption die grid gang split) s = .next t ∧ SameMemory s t ∧ t.groups = s.groups
        ∧ Instr.drainTimeout die grid gang ∈ t.due
        ∧ t.gang? grid.toNat gang.toNat = some { x with st := .draining, since := s.clock die.toNat }))
  ∧ (∀ (die : BitVec 6) (q : BitVec 10) (s : State) iw k, Instr.preemptWaitTimeout die q ∈ s.due → (s.dist die.toNat).up = true →
    (s.dist die.toNat).waits = [(iw, k)] → (s.waitOf q.toNat iw).isSome = true →
    (s.clock die.toNat < k + 65536 → exec (.preemptWaitTimeout die q) s = .next s)
    ∧ ∀ w prew pw id g n x q' pre p, k + 65536 ≤ s.clock die.toNat → s.grids = [(iw, w), (id, g)] →
        w.queue = some (q.toNat, prew, pw) → w.gangs = [] → g.gangs = [(n, x)] → g.queue = some (q', pre, p) → g.tenant = w.tenant →
        p < pw → x.st = .placed → (∃ y ∈ x.places, y.1 / 16 = die.toNat) → ∃ t, exec (.preemptWaitTimeout die q) s = .next t ∧ t.groups = s.groups
          ∧ SameMemory s t ∧ (t.dist die.toNat).waits.find iw = some (s.clock die.toNat)
          ∧ Instr.preemption die (BitVec.ofNat 32 id) (BitVec.ofNat 32 n) false ∈ t.due)
  ∧ (∀ (die : BitVec 6) (grid gang : Word) (s : State) x, Instr.drainTimeout die grid gang ∈ s.due → (s.dist die.toNat).up = true →
    s.gang? grid.toNat gang.toNat = some x → x.st = .draining →
    (s.clock die.toNat < x.since + 1048576 → exec (.drainTimeout die grid gang) s = .next s)
    ∧ (x.since + 1048576 ≤ s.clock die.toNat → ∃ t, exec (.drainTimeout die grid gang) s = .next t ∧ SameMemory s t ∧ HaltAsked t grid gang x .save))
  ∧ (∀ (grid gang : Word) (s : State) x, Instr.haltComplete grid gang ∈ s.due → s.gang? grid.toNat gang.toNat = some x → (s.dist x.root).up = true →
    x.st = .halting → x.why = .save → x.gids ≠ [] → s.barrierQuiet grid.toNat gang.toNat = true →
    (∀ gid ∈ x.gids, ∃ g, s.group? gid = some g ∧ g.halt ≠ none ∧ g.loads = [] ∧ g.engs = [] ∧ s.sc g = 0 ∧ g.frags ≠ []
      ∧ (∀ e ∈ g.frags, e.2.hold = .none) ∧ ∀ r ∈ (s.cluster (gidCluster gid)).table, r.gid ≠ gid) →
    ∃ t, exec (.haltComplete grid gang) s = .next t ∧ t.groups = s.groups ∧ SameMemory s t
      ∧ t.gang? grid.toNat gang.toNat = some { x with st := .halted })
  ∧ (∀ (die : BitVec 6) (grid gang : Word) (s : State) g x, Instr.haltTimeout die grid gang ∈ s.due → s.grid? grid.toNat = some g →
    s.gang? grid.toNat gang.toNat = some x → x.st = .halting →
    let limit := (x.haltClock.find die.toNat).getD 0 + ((s.die die.toNat).qtmo.extractLsb' 0 32).toNat * 4096 + 2 ^ 24
    (s.clock die.toNat < limit → exec (.haltTimeout die grid gang) s = .next s)
    ∧ (limit ≤ s.clock die.toNat → FormsNew s die.toNat → (s.die die.toNat).undelivered.has (((s.die die.toNat).seq + 1) % 4096) = false →
        ∃ t, exec (.haltTimeout die grid gang) s = .next t ∧ t.groups = s.groups ∧ (t.die die.toNat).seq = (s.die die.toNat).seq + 1
        ∧ ∀ e ∈ s.grids, e.2.tenant = g.tenant → (∃ y ∈ e.2.gangs, ∃ p ∈ y.2.places, p.1 / 16 = die.toNat) →
            Instr.gridAbort die (BitVec.ofNat 32 e.1) ∈ t.due))
  ∧ ∀ (die : BitVec 6) (grid : Word) (s : State) g, s.grid? grid.toNat = some g → ((s.dist g.die).up = true ∨ (s.die g.die).fence.getLsbD 4 = true) → g.completing = false → g.aborted = false →
    g.gangs = [] → (∀ e ∈ s.grids, e.2.parent.map (·.1) ≠ some grid.toNat) →
    ∃ t, exec (.gridAbort die grid) s = .next t ∧ SameMemory s t ∧ t.groups = s.groups ∧ t.grid? grid.toNat = some { g with aborted := true }
      ∧ Instr.gridRetire grid ∈ t.due ∧ ∀ d ∈ g.dies, (t.dist d).tickets.find grid.toNat = none

/-! ### Service cores: translations, answers, calls and messages (13) -/

/-- R88: loads of the cluster whose lanes have not all translated hold no translation; its other groups and all else of its own are
as they were. -/
def Sys2Proof.Machine.Retranslated (s t : State) (c : Nat) : Prop :=
  (t.groups.map fun e => (e.1, { e.2 with loads := [] })) = (s.groups.map fun e => (e.1, { e.2 with loads := [] }))
  ∧ (∀ gid, gidCluster gid ≠ c → t.group? gid = s.group? gid)
  ∧ ∀ gid g x, s.group? gid = some g → t.group? gid = some x → x.loads.map (·.id) = g.loads.map (·.id)
      ∧ ∀ o ∈ x.loads, gidCluster gid = c → o.opened = false → o.kind.global = true → ∀ a ∈ o.lanes, ∀ p ∈ a.spans, p.data = none → p.pa = none

/-- R88, R96, R313, R325: invalidations empty the buffers they name, then read done; the words of a line are taken, and an answer
frees its parked entry; an entry that is not parked takes none. -/
def Obligations.InvalidationsAndAnswers : Prop :=
  (∀ (cv : BitVec 10) (s : State), ∃ t, exec (.sctbinvAllSpaces cv) s = .next t ∧ SameMemory s t ∧ Retranslated s t cv.toNat
    ∧ (t.cluster cv.toNat).ctb = [] ∧ (t.svc cv.toNat).ctbPending = true ∧ Instr.ctbInvalidateDone cv ∈ t.due)
  ∧ (∀ (cv : BitVec 10) (asn : BitVec 16) (vpn : BitVec 39) (s : State), ∃ t, exec (.sctbinvPage cv asn vpn) s = .next t ∧ SameMemory s t
    ∧ Retranslated s t cv.toNat ∧ (t.svc cv.toNat).ctbPending = true ∧ Instr.ctbInvalidateDone cv ∈ t.due
    ∧ ∀ e, e ∈ (t.cluster cv.toNat).ctb ↔ e ∈ (s.cluster cv.toNat).ctb
        ∧ ¬(e.asn = asn ∧ e.covers vpn.toNat = true))
  ∧ (∀ (cv : BitVec 10) (asn : BitVec 16) (s : State), ∃ t, exec (.sctbinvSpace cv asn) s = .next t ∧ SameMemory s t ∧ Retranslated s t cv.toNat
    ∧ (t.svc cv.toNat).ctbPending = true ∧ Instr.ctbInvalidateDone cv ∈ t.due
    ∧ ∀ e, e ∈ (t.cluster cv.toNat).ctb ↔ e ∈ (s.cluster cv.toNat).ctb ∧ e.asn ≠ asn)
  ∧ (∀ (cv : BitVec 10) (s : State), Instr.ctbInvalidateDone cv ∈ s.due → (∀ e ∈ s.groups, gidCluster e.1 = cv.toNat → e.2.loads = []) →
    (∀ e ∈ s.queues, gidCluster e.2.gid = cv.toNat → e.2.ents = []) →
    ∃ t, exec (.ctbInvalidateDone cv) s = .next t ∧ SameMemory s t ∧ t.groups = s.groups
      ∧ t.svc cv.toNat = { s.svc cv.toNat with ctbPending := false })
  ∧ (∀ (cv : BitVec 10) (v : Dword) (s : State), ∃ t, exec (.sqsel cv v) s = .next t ∧ SameMemory s t ∧ t.groups = s.groups
    ∧ t.svc cv.toNat = { s.svc cv.toNat with sqsel := v &&& 0x1FF03FF, sqbuf := [] }
    ∧ ∀ q, (s.die (cv.toNat / 16)).quag.find (v.extractLsb' 0 10).toNat = some q →
        (t.die (cv.toNat / 16)).quag.find (v.extractLsb' 0 10).toNat = some { q with lines := q.lines.erase (v.extractLsb' 16 9).toNat })
  ∧ (∀ (cv : BitVec 10) (v : Dword) (s : State), (s.svc cv.toNat).sqbuf.length < 15 → ∃ t, exec (.sqdata cv v) s = .next t ∧ SameMemory s t
    ∧ t.dies = s.dies ∧ t.svc cv.toNat = { s.svc cv.toNat with sqbuf := (s.svc cv.toNat).sqbuf ++ [v] })
  ∧ (∀ (cv : BitVec 10) (v : Dword) (s : State) q, (s.svc cv.toNat).sqbuf.length = 15 →
    let entry := ((s.svc cv.toNat).sqsel.extractLsb' 0 10).toNat
    let line := ((s.svc cv.toNat).sqsel.extractLsb' 16 9).toNat
    (s.die (cv.toNat / 16)).quag.find entry = some q → ∃ t, exec (.sqdata cv v) s = .next t ∧ SameMemory s t ∧ t.groups = s.groups
      ∧ (t.die (cv.toNat / 16)).quag.find entry = some { q with lines := q.lines.put line ((s.svc cv.toNat).sqbuf ++ [v]) })
  ∧ (∀ (cv n : BitVec 10) (s : State), (∀ q, (s.die (cv.toNat / 16)).quag.find n.toNat = some q → q.st ≠ .parked) →
    exec (.sqansRetry cv n) s = .next s ∧ exec (.sqansEmulateLoad cv n) s = .next s ∧ exec (.sqansEmulateStore cv n) s = .next s
      ∧ exec (.sqansAbort cv n) s = .next s)
  ∧ (∀ (cv n : BitVec 10) (s : State) q, (s.die (cv.toNat / 16)).quag.find n.toNat = some q → q.st = .parked → q.members ≠ [] →
    ∃ t, exec (.sqansRetry cv n) s = .next t ∧ SameMemory s t ∧ t.groups = s.groups
      ∧ (t.die (cv.toNat / 16)).quag.find n.toNat = some { q with st := .rewalk }
      ∧ ∀ m ∈ q.members, Instr.pageWalk (BitVec.ofNat 10 q.cluster) q.asn m.2 m.1 ∈ t.due)
  ∧ (∀ (cv n : BitVec 10) (g : Gid) (f : BitVec 5) (s : State) q v x y, (s.die (cv.toNat / 16)).quag.find n.toNat = some q → q.st = .parked →
    q.members = [(.fetch g f, v)] → s.group? g.toNat = some x → x.frags.find f.toNat = some y → y.hold = .fetch →
    ∃ t, exec (.sqansEmulateLoad cv n) s = .next t ∧ SameMemory s t ∧ (t.die (cv.toNat / 16)).quag.find n.toNat = none
      ∧ t.answers = s.answers ++ [⟨.fetch g f, v, .lines q.lines⟩]
      ∧ FragIs t g.toNat f.toNat fun _ z => z = { y with state := .ready, hold := .none })
  ∧ (∀ (cv n : BitVec 10) k op (s : State) q v x e g, (s.die (cv.toNat / 16)).quag.find n.toNat = some q → q.st = .parked →
    q.members = [(.store k op, v)] → s.queue? k = some x → x.ents = [e] → e.id = op → e.kind = .plain → e.answers = [] →
    (∀ l ∈ e.lanes, ∀ w ∈ l.writes, pageOf w.addr = v) → x.live = true → s.group? x.gid = some g →
    (∃ j f, g.frags.find j = some f ∧ f.state = .ready) →
    ∃ t, exec (.sqansEmulateStore cv n) s = .next t ∧ SameMemory s t ∧ (t.die (cv.toNat / 16)).quag.find n.toNat = none
      ∧ t.queue? k = some { x with ents := [] })
  ∧ ∀ (cv n d : BitVec 10) (dv : BitVec 6) (s : State) q v, (s.die (cv.toNat / 16)).quag.find n.toNat = some q → q.st = .parked →
    q.members = [(.queueRec dv d, v)] → ∃ t, exec (.sqansAbort cv n) s = .next t ∧ SameMemory s t ∧ t.groups = s.groups
      ∧ (t.die (cv.toNat / 16)).quag.find n.toNat = none ∧ t.answers = s.answers ++ [⟨.queueRec dv d, v, .ended false⟩]

/-- R39, R315 to R319, R327, R395, R411: a ring slot takes its fields; intake takes the next record; results go to their lanes;
resumptions move their lanes on; loops of a tile resume; budgets are refilled, run out and are reported. -/
def Obligations.RingsResultsAndResumptions : Prop :=
  (∀ (cv : BitVec 10) (v : Dword) (s : State),
    let k := (v.extractLsb' 60 4).toNat
    let size := v.extractLsb' 37 3
    let base := v.extractLsb' 0 32
    let r := (s.cluster cv.toNat).rings.get RingSlot.reset k
    let fits := size.toNat < 6 ∧ base.toNat % 2 ^ (15 + size.toNat) = 0 ∧ base.toNat + 2 ^ (15 + size.toNat) ≤ 2 ^ 22
    (¬fits → exec (.sring cv v) s = .next s)
    ∧ (fits → (s.cluster cv.toNat).waiting = [] → ∃ t, exec (.sring cv v) s = .next t ∧ SameMemory s t ∧ t.groups = s.groups
        ∧ let r' := (t.cluster cv.toNat).rings.get RingSlot.reset k
          r'.weight = v.extractLsb' 40 8
          ∧ ((∀ q ∈ r.recs, q.kind = 0 ∨ q.retired = true ∧ q.taken = true) → r'.tenant = v.extractLsb' 48 12 ∧ r'.size = size ∧ r'.base = base)
          ∧ ((∃ q ∈ r.recs, q.kind ≠ 0 ∧ ¬(q.retired = true ∧ q.taken = true)) → r'.tenant = r.tenant ∧ r'.size = r.size ∧ r'.base = r.base ∧ r'.recs = r.recs)))
  ∧ (∀ (cv : BitVec 10) (s : State), (∀ e ∈ (s.cluster cv.toNat).rings, e.2.untaken = none) →
    ∃ t, exec (.sintake cv) s = .next t ∧ SameMemory s t ∧ t.groups = s.groups ∧ (t.svc cv.toNat).intake = 0)
  ∧ (∀ (cv : BitVec 10) (s : State) k r q, (s.cluster cv.toNat).rings = [(k, r)] → k < 16 → r.untaken = some q →
    ∃ t, exec (.sintake cv) s = .next t ∧ SameMemory s t ∧ t.groups = s.groups
      ∧ (t.svc cv.toNat).intake = BitVec.ofNat 64 (2 ^ 63 + q.kind * 2 ^ 60 + k * 2 ^ 56 + q.handle * 2 ^ 32 + (r.base.toNat + q.off))
      ∧ ∀ e ∈ ((t.cluster cv.toNat).rings.get RingSlot.reset k).recs, e.handle = q.handle → e.kind ≠ 0 → e.taken = true)
  ∧ (∀ (cv : BitVec 10) (v : Dword) (s : State) h g f w, s.waiter cv.toNat (selHandle (s.svc cv.toNat).scsel) = some (h, g, f, w) →
    let l := selLane (s.svc cv.toNat).scsel
    (w.kind = 1 → f.mask.getLsbD l = true → h.callers.getLsbD l = true → ∃ t x, exec (.scres cv v) s = .next t ∧ SameMemory s t
      ∧ t.group? h.gid = some x ∧ x = { g with v := x.v } ∧ x.vreg l w.reg = ⟨v.extractLsb' 0 32, false⟩
      ∧ x.vreg l (w.reg + 1) = ⟨v.extractLsb' 32 32, false⟩
      ∧ ∀ r j, j < 1024 → ¬(j = l ∧ (r = w.reg ∨ r = w.reg + 1)) → x.vreg j r = g.vreg j r)
    ∧ (w.kind = 2 → ∃ t x, exec (.scres cv v) s = .next t ∧ SameMemory s t ∧ t.group? h.gid = some x ∧ WritesS g x w.reg v))
  ∧ (∀ (cv : BitVec 10) (v : Dword) (s : State) h g f w, s.waiter cv.toNat (slHandle v) = some (h, g, f, w) →
    ∃ t, exec (.slresumeStage cv v) s = .next t ∧ SameMemory s t ∧ t.groups = s.groups
      ∧ (t.cluster cv.toNat).handles.find (slHandle v) = some { h with
          staged := h.staged ||| (if v.getLsbD 62 = true then h.unreleased f else slLanes v &&& h.unreleased f) })
  ∧ (∀ (cv : BitVec 10) (v : Dword) (s : State) h, s.svcHeld cv.toNat = false → (s.cluster cv.toNat).handles.find (slHandle v) = some h → h.kind = 3 ∨ h.kind = 4 →
    v.getLsbD 62 = true → ∃ t, exec (.slresumeRelease cv v) s = .next t ∧ SameMemory s t ∧ t.groups = s.groups
      ∧ (t.cluster cv.toNat).handles.find (slHandle v) = none)
  ∧ (∀ (cv : BitVec 10) (v : Dword) (s : State) h g f w, s.waiter cv.toNat (slHandle v) = some (h, g, f, w) → h.kind = 1 → h.held = [] →
    s.svcHeld cv.toNat = false → f.mask ≠ 0 → v.getLsbD 62 = true →
    ∃ t, exec (.slresumeRelease cv v) s = .next t ∧ SameMemory s t ∧ (t.cluster cv.toNat).handles.find (slHandle v) = none
      ∧ FragIs t h.gid h.frag fun _ y => y.state = .ready ∧ y.pc = f.pc + 4 ∧ y.mask = f.mask)
  ∧ (∀ (cv : BitVec 10) (v : Dword) (s : State) h g f w fid, s.waiter cv.toNat (slHandle v) = some (h, g, f, w) → h.kind = 1 → h.held = [] →
    s.svcHeld cv.toNat = false → h.staged = 0 → w.kind = 1 → v.getLsbD 62 = false →
    let m := slLanes v &&& f.mask
    m ≠ 0 → m ≠ f.mask → s.poolUsed (gidCore h.gid) < 128 → g.frags.firstFree 32 = some fid →
    ∃ t, exec (.slresumeRelease cv v) s = .next t ∧ SameMemory s t
      ∧ FragIs t h.gid fid (fun _ y => y.state = .ready ∧ y.pc = f.pc + 4 ∧ y.mask = m)
      ∧ FragIs t h.gid h.frag fun _ y => y.state = .callWait ∧ y.pc = f.pc ∧ y.mask = f.mask &&& ~~~m)
  ∧ (∀ (cv : BitVec 10) (hv : BitVec 16) (s : State) h g f w m ms, Instr.partialResumptionAllocated cv hv ∈ s.due →
    s.waiter cv.toNat hv.toNat = some (h, g, f, w) → h.held = m :: ms → f.mask ≠ 0 → m &&& f.mask = f.mask →
    ∃ t, exec (.partialResumptionAllocated cv hv) s = .next t ∧ SameMemory s t ∧ (t.cluster cv.toNat).handles.find hv.toNat = none
      ∧ FragIs t h.gid h.frag fun _ y => y.state = .ready ∧ y.pc = f.pc + 4 ∧ y.mask = f.mask)
  ∧ (∀ (cv : BitVec 10) (v : Dword) (s : State) r, (s.cluster cv.toNat).table = [r] → r.kind = .mloop → r.st = .held →
    r.tiles.getLsbD (v.extractLsb' 0 3).toNat = true → s.disabledHalf cv.toNat (v.extractLsb' 0 3).toNat = false →
    ∃ t, exec (.smresume cv v) s = .next t ∧ SameMemory s t ∧ t.groups = s.groups
      ∧ (t.cluster cv.toNat).table = [{ r with st := .queued, passed := 0, ticket := none, after := none }])
  ∧ (∀ (cv : BitVec 10) (s : State), Instr.budgetPeriod cv ∈ s.due →
    (s.clock (cv.toNat / 16) / 850000 = (s.svc cv.toNat).periodStart / 850000 → exec (.budgetPeriod cv) s = .next s)
    ∧ (s.clock (cv.toNat / 16) / 850000 ≠ (s.svc cv.toNat).periodStart / 850000 → (s.cluster cv.toNat).waiting = [] →
        ((s.cluster cv.toNat).rings.map (·.1)).Pairwise (· < ·) → ∃ t, exec (.budgetPeriod cv) s = .next t ∧ SameMemory s t ∧ t.groups = s.groups
          ∧ (t.svc cv.toNat).periodStart = s.clock (cv.toNat / 16) ∧ (t.svc cv.toNat).budgetPendingSince = none
          ∧ ∀ k r, (s.cluster cv.toNat).rings.find k = some r → r.weight ≠ 0 → (t.cluster cv.toNat).rings.find k = some { r with
              budget := 850000 * r.weight.toNat / (((s.cluster cv.toNat).rings.filter fun e => e.2.weight != 0).map fun e => e.2.weight.toNat).sum }))
  ∧ (∀ (cv : BitVec 10) (s : State), Instr.budgetExhausted cv ∈ s.due → (s.svc cv.toNat).budgetPendingSince = none →
    (s.sbudget cv.toNat = 0 → ∃ t, exec (.budgetExhausted cv) s = .next t ∧ SameMemory s t ∧ t.groups = s.groups ∧ (t.sip cv.toNat).getLsbD 18 = true
      ∧ (t.svc cv.toNat).budgetPendingSince = some (s.clock (cv.toNat / 16)) ∧ Instr.budgetInterruptUnserved cv ∈ t.due)
    ∧ (s.sbudget cv.toNat ≠ 0 → ∃ t, exec (.budgetExhausted cv) s = .next t ∧ SameMemory s t ∧ t.groups = s.groups
      ∧ (t.svc cv.toNat).budgetPendingSince = none))
  ∧ ∀ (cv : BitVec 10) (s : State) k, Instr.budgetInterruptUnserved cv ∈ s.due → (s.svc cv.toNat).budgetPendingSince = some k →
    (s.clock (cv.toNat / 16) < k + 85000 → exec (.budgetInterruptUnserved cv) s = .next s)
    ∧ (k + 85000 ≤ s.clock (cv.toNat / 16) → FormsNew s (cv.toNat / 16) → (s.die (cv.toNat / 16)).rates = [] → ∃ t, exec (.budgetInterruptUnserved cv) s = .next t
        ∧ t.groups = s.groups ∧ (t.die (cv.toNat / 16)).seq = (s.die (cv.toNat / 16)).seq + 1)

/-- R329, R330, R338, R408, R410: messages are built, sent, stalled, dropped, received in order, and read word by word. -/
def Obligations.MessagesAreSentAndReceived : Prop :=
  (∀ (cv : BitVec 10) (v : Dword) (s : State), s.svcHeld cv.toNat = false → ∃ t, exec (.smsgdat cv v) s = .next t ∧ SameMemory s t
    ∧ t.groups = s.groups ∧ t.svc cv.toNat = { s.svc cv.toNat with
        msgBuild := if (s.svc cv.toNat).msgBuild.length < 7 then (s.svc cv.toNat).msgBuild ++ [v] else (s.svc cv.toNat).msgBuild })
  ∧ (∀ (cv : BitVec 10) (v : Dword) (s : State), s.svcHeld cv.toNat = true → exec (.smsgdat cv v) s = .next s ∧ exec (.smsgsend cv) s = .next s)
  ∧ (∀ (cv : BitVec 10) (s : State), s.svcHeld cv.toNat = false →
    let m := (s.svc cv.toNat).message
    let dst := msgDst m.hdr
    (s.msgDropped (.svc cv) dst = true → FormsNew s (cv.toNat / 16) → ∃ t, exec (.smsgsend cv) s = .next t ∧ t.groups = s.groups
        ∧ (∀ e, recordOf e = none → (e ∈ t.chans ↔ e ∈ s.chans)) ∧ (t.svc cv.toNat).sendAccepted = true ∧ (t.die (cv.toNat / 16)).seq = (s.die (cv.toNat / 16)).seq + 1)
    ∧ (s.msgDropped (.svc cv) dst = false → s.unaccepted (.svc cv) dst < 16 → ∃ t, exec (.smsgsend cv) s = .next t ∧ SameMemory s t
        ∧ t.groups = s.groups ∧ t.chans = s.chans ++ [(.svc cv, dst, m)] ∧ Instr.messageArrival (.svc cv) dst ∈ t.due
        ∧ (t.svc cv.toNat).sendAccepted = false ∧ (t.svc cv.toNat).msgBuild = [])
    ∧ (s.msgDropped (.svc cv) dst = false → 16 ≤ s.unaccepted (.svc cv) dst → ∃ t, exec (.smsgsend cv) s = .next t ∧ SameMemory s t
        ∧ t.groups = s.groups ∧ t.chans = s.chans ∧ (t.svc cv.toNat).sendStalled = some m ∧ (t.svc cv.toNat).stallClock = s.clock (cv.toNat / 16)
        ∧ Instr.smsgsendStallTimeout cv ∈ t.due))
  ∧ (∀ (cv : BitVec 10) (s : State) m, Instr.smsgsendStallTimeout cv ∈ s.due → (s.svc cv.toNat).sendStalled = some m →
    (s.clock (cv.toNat / 16) < (s.svc cv.toNat).stallClock + 2 ^ 24 → exec (.smsgsendStallTimeout cv) s = .next s)
    ∧ ((s.svc cv.toNat).stallClock + 2 ^ 24 ≤ s.clock (cv.toNat / 16) → FormsNew s (cv.toNat / 16) → ∃ t, exec (.smsgsendStallTimeout cv) s = .next t ∧ t.groups = s.groups
        ∧ (∀ e, recordOf e = none → (e ∈ t.chans ↔ e ∈ s.chans)) ∧ (t.svc cv.toNat).sendStalled = none ∧ (t.svc cv.toNat).sendAccepted = true
        ∧ (t.die (cv.toNat / 16)).seq = (s.die (cv.toNat / 16)).seq + 1))
  ∧ (∀ (cv : BitVec 10) (src : MsgEnd) (s : State) m, Instr.messageArrival src (.svc cv) ∈ s.due → s.chans = [(src, .svc cv, m)] → recordOf (src, .svc cv, m) = none →
    (s.cluster cv.toNat).out = false → (∀ c, src = .svc c → (s.svc c.toNat).sendStalled = none) →
    (256 ≤ (s.svc cv.toNat).rcv.length → exec (.messageArrival src (.svc cv)) s = .next s)
    ∧ ((s.svc cv.toNat).rcv.length < 256 → ∃ t, exec (.messageArrival src (.svc cv)) s = .next t ∧ SameMemory s t ∧ t.groups = s.groups
        ∧ t.chans = [] ∧ (t.svc cv.toNat).rcv = (s.svc cv.toNat).rcv ++ [(src, m)]))
  ∧ (∀ (cv : BitVec 10) (src : MsgEnd) (s : State) m, Instr.messageArrival src (.svc cv) ∈ s.due → s.chans = [(src, .svc cv, m)] → recordOf (src, .svc cv, m) = none →
    (s.cluster cv.toNat).out = true → (∀ c, src = .svc c → (s.svc c.toNat).sendStalled = none) → FormsNew s (endDie src) →
    ∃ t, exec (.messageArrival src (.svc cv)) s = .next t ∧ t.groups = s.groups ∧ (∀ e ∈ t.chans, recordOf e ≠ none)
      ∧ (t.die (endDie src)).seq = (s.die (endDie src)).seq + 1)
  ∧ (∀ (dv : BitVec 6) (src : MsgEnd) (s : State) m, Instr.messageArrival src (.dist dv) ∈ s.due → s.chans = [(src, .dist dv, m)] →
    (s.dist dv.toNat).up = true → (∀ c, src = .svc c → (s.svc c.toNat).sendStalled = none) → m.hdr.extractLsb' 40 8 = 0x40 →
    ∃ t, exec (.messageArrival src (.dist dv)) s = .next t ∧ SameMemory s t ∧ t.groups = s.groups ∧ t.chans = []
      ∧ Instr.queueBinding dv ((m.body.headD 0).extractLsb' 0 10) ∈ t.due)
  ∧ (∀ (cv : BitVec 10) (s : State), (s.svc cv.toNat).rcv = [] → ∃ t, exec (.smsgrcv cv) s = .next t ∧ SameMemory s t ∧ t.groups = s.groups
    ∧ t.svc cv.toNat = { s.svc cv.toNat with msg := 0, msgRest := [] })
  ∧ (∀ (cv : BitVec 10) (s : State) src m rest, (s.svc cv.toNat).rcv = (src, m) :: rest → ∃ t, exec (.smsgrcv cv) s = .next t ∧ SameMemory s t
    ∧ t.groups = s.groups ∧ t.svc cv.toNat = { s.svc cv.toNat with rcv := rest, msg := rcvHdr m.hdr src, msgRest := m.body })
  ∧ ∀ (cv : BitVec 10) (s : State), ∃ t, exec (.smsgrd cv) s = .next t ∧ SameMemory s t ∧ t.groups = s.groups
    ∧ t.svc cv.toNat = { s.svc cv.toNat with msgRest := (s.svc cv.toNat).msgRest.tail }

/-! ### Context images, gang records and distributors (03, 12, 13, 19) -/

/-- R113, R313: a service core without an address space reaches `n` bytes at `va`, a physical address, at their homes: they
exist and are HBM, are not scrub-pending or poisoned, can be reached, and no copy of them is modified or on its way. -/
def Sys2Proof.Machine.PlainBytes (s : State) (d va n : Nat) : Prop :=
  ∀ i < n, va + i < 2 ^ 43 ∧ backed (va + i) = true ∧ ownState (s.ownEntry (va + i)) ≠ 2 ∧ s.poisoned (va + i) = false
    ∧ s.reach d (paDie (va + i)) = true ∧ s.lineBusy ((va + i) / 128) = false ∧ s.mCache ((va + i) / 128) = none

/-- R67 to R70, R305, R306, R313: sctxop begins a save or a restore; a save writes the image and frees the group; a restore
builds the group from its image; a gang record gives a saved gang its places again, and each service core is told.
The model's readings: what a restore checks of an image and where a gang record is written are DEDUCED (log 22, 23). -/
def Obligations.ImagesAreSavedAndRestored : Prop :=
  (∀ (cv : BitVec 10) (v : Dword) (s : State) g, (s.svc cv.toNat).sctxop ≠ 1 → v.extractLsb' 18 2 = 1 →
    gidCluster (v.extractLsb' 0 18).toNat = cv.toNat → s.group? (v.extractLsb' 0 18).toNat = some g → g.halt ≠ none →
    ∃ t, exec (.sctxopSave cv v) s = .next t ∧ SameMemory s t ∧ (t.svc cv.toNat).sctxop = 1 ∧ (t.svc cv.toNat).sctxGid = v.extractLsb' 0 18
      ∧ t.group? (v.extractLsb' 0 18).toNat = some { g with saving := true } ∧ Instr.contextSaveComplete cv ∈ t.due)
  ∧ (∀ (cv : BitVec 10) (v : Dword) (s : State), (s.svc cv.toNat).sctxop ≠ 1 → v.extractLsb' 18 2 = 2 →
    gidCluster (v.extractLsb' 0 18).toNat = cv.toNat → ∃ t, exec (.sctxopRestore cv v) s = .next t ∧ SameMemory s t ∧ t.groups = s.groups
      ∧ (t.svc cv.toNat).sctxop = 1 ∧ (t.svc cv.toNat).sctxGid = v.extractLsb' 0 18 ∧ Instr.contextRestoreComplete cv ∈ t.due)
  ∧ (∀ (cv : BitVec 10) (s : State) g gr x, Instr.contextSaveComplete cv ∈ s.due →
    let gid := (s.svc cv.toNat).sctxGid.toNat
    let va := (s.svc cv.toNat).sctxa.toNat
    let img := s.image gid g
    s.group? gid = some g → s.grid? g.grid.toNat = some gr → s.gang? g.grid.toNat g.gang.toNat = some x → x.st ≠ .halting →
    s.groupQuiet gid g = true → (∀ e ∈ g.frags, e.2.hold = .none) → x.lastSave g.index.toNat = false →
    (∀ e ∈ s.groups, gidCluster e.1 = gidCluster gid → e.1 ≠ gid → s.group? e.1 = some e.2 ∧ ∃ f ∈ e.2.frags, f.2.state = .ready) →
    (s.svc cv.toNat).sdroot.getLsbD 63 = false → PlainBytes s (cv.toNat / 16) va img.length →
    ∃ t, exec (.contextSaveComplete cv) s = .next t ∧ (t.svc cv.toNat).sctxop = 2 ∧ t.group? gid = none
      ∧ (∀ i < img.length, t.readByte (va + i) = img.getD i 0) ∧ ∀ a, a < va ∨ va + img.length ≤ a → t.readByte a = s.readByte a)
  ∧ (∀ (cv : BitVec 10) (s : State) a g, Instr.contextRestoreComplete cv ∈ s.due →
    let gid := (s.svc cv.toNat).sctxGid.toNat
    let va := (s.svc cv.toNat).sctxa.toNat
    let b := (List.range (imgLayout ((List.range 256).map fun i => s.readByte (va + i))).2).map fun i => s.readByte (va + i)
    (s.cluster cv.toNat).restored.find gid = some a → a.reported = true → s.grid? a.grid = some g → gidCluster gid = cv.toNat →
    (s.svc cv.toNat).sdroot.getLsbD 63 = false → PlainBytes s (cv.toNat / 16) va b.length → 256 ≤ b.length →
    firstFail (headerChecks ((List.range 256).map fun i => s.readByte (va + i)) (some g)) = none →
    firstFail (sectionChecks b (((s.gang? a.grid a.gang).map (·.tmask)).getD 0) (s.split cv.toNat) g.desc.scratch) = none → s.imgFits b gid = true →
    ∃ t x, exec (.contextRestoreComplete cv) s = .next t ∧ (t.svc cv.toNat).sctxop = 2 ∧ t.group? gid = some x ∧ x.tenant = g.tenant
      ∧ x.lanes = recField b 0x10 2 ∧ x.regs = recField b 0x12 2 ∧ x.flags = BitVec.ofNat 8 (recField b 0x18 1)
      ∧ (∀ n, 0 < n → n < 64 → x.sreg n = BitVec.ofNat 64 (recField b ((imgLayout b).1.getD 2 0 + 8 * n) 8))
      ∧ (t.cluster cv.toNat).restored.find gid = none)
  ∧ (∀ (die : BitVec 6) (src : BitVec 10) (pav : Dword) (s : State) g x p ps, Instr.gangRestore ⟨die, src⟩ pav ∈ s.due → (s.dist die.toNat).up = true →
    let pa := pav.toNat
    let h := (List.range 128).map fun i => s.readByte (pa + i)
    let grid := recField h 8 4
    let gang := recField h 0x0C 4
    let ids := (List.range (recField h 0x14 1)).map fun i =>
      (List.range 16).filter fun e => bits (recField h (0x20 + 4 * i) 4) e e == 1 && decide (e ∈ x.saves)
    s.grid? grid = some g → s.gang? grid gang = some x → firstFail (s.recordChecks h) = none →
    PlainBytes s die.toNat pa (128 + recField h 0x14 1 * g.desc.scratch) →
    s.replan grid g (BitVec.ofNat 8 (recField h 0x15 1)) (s.restoreClusters die.toNat g) ids = some (p :: ps) → p.cluster / 16 = die.toNat →
    ∃ t y, exec (.gangRestore ⟨die, src⟩ pav) s = .next t ∧ SameMemory s t ∧ t.groups = s.groups ∧ t.gang? grid gang = some y ∧ y.st = .restoring
      ∧ (∀ i q, (p :: ps)[i]? = some q → y.places[i]? = some (q.cluster, q.base, BitVec.ofNat 16 (recField
          ((List.range (128 + recField h 0x14 1 * g.desc.scratch)).map fun k => s.readByte (pa + k)) (0x20 + 4 * i) 4)))
      ∧ y.places.length = ps.length + 1 ∧ y.tmask = BitVec.ofNat 8 (recField h 0x15 1) ∧ y.bgen = BitVec.ofNat 16 (recField h 0x1C 2)
      ∧ y.barr = BitVec.ofNat 16 (recField h 0x1E 2)
      ∧ ∀ q ∈ p :: ps, Instr.gangRestorePlacement (BitVec.ofNat 10 q.cluster) (placePayload grid gang q) ∈ t.due)
  ∧ ∀ (cv : BitVec 10) payload (s : State), Instr.gangRestorePlacement cv payload ∈ s.due → (s.cluster cv.toNat).out = false →
    (s.svc cv.toNat).rcv.length < 256 →
    let p := (payload.headD 0).toNat
    let root := ((s.gang? (p % 2 ^ 32) (p / 2 ^ 32)).map (·.root)).getD (cv.toNat / 16)
    ∃ t, exec (.gangRestorePlacement cv payload) s = .next t ∧ SameMemory s t ∧ t.groups = s.groups
      ∧ (t.svc cv.toNat).rcv = (s.svc cv.toNat).rcv
          ++ [(.dist (BitVec.ofNat 6 root), ⟨BitVec.ofNat 64 (0x44 * 2 ^ 40 + payload.length * 2 ^ 32 + cv.toNat), payload⟩)]
      ∧ ∀ k a, (s.cluster cv.toNat).restored.find k = some a → (t.cluster cv.toNat).restored.find k
          = some (if a.grid = p % 2 ^ 32 ∧ a.gang = p / 2 ^ 32 then { a with reported := true } else a)

/-- R294 to R296, R404 to R407: queues are bound and notified; a distributor's beat is seen by its adopter, whose loss, or whose
failure, leads to adoption or to the fence of its die. -/
def Obligations.QueuesAndDistributors : Prop :=
  (∀ (die : BitVec 6) (q : BitVec 10) (s : State), Instr.queueBinding die q ∈ s.due → (s.dist die.toNat).up = true →
    let valid := s.deviceNat (queueEntryAt die.toNat q.toNat + 0x15) 1 / 128 % 2 = 1
    (¬valid → ∃ t, exec (.queueBinding die q) s = .next t ∧ t.groups = s.groups ∧ (t.dist die.toNat).binds.find q.toNat = none)
    ∧ (valid → s.queueEntry die.toNat q.toNat = none → FormsNew s die.toNat → ∃ t, exec (.queueBinding die q) s = .next t ∧ t.groups = s.groups
        ∧ (t.dist die.toNat).binds.find q.toNat = none ∧ (t.die die.toNat).seq = (s.die die.toNat).seq + 1)
    ∧ ∀ b, valid → s.queueEntry die.toNat q.toNat = some b → ∃ t, exec (.queueBinding die q) s = .next t ∧ t.groups = s.groups
        ∧ (t.dist die.toNat).binds.find q.toNat = some b)
  ∧ (∀ (die : BitVec 6) (v : Word) (s : State),
    (1024 ≤ v.toNat → exec (.queueNotify die v) s = .next s)
    ∧ (v.toNat < 1024 → ∃ t, exec (.queueNotify die v) s = .next t ∧ t.groups = s.groups ∧ (t.dist die.toNat).kick.getLsbD v.toNat = true
        ∧ ((∃ n, (n, v.toNat) ∈ (s.dist die.toNat).slots) → Instr.launchRecordAccept die (.queue (BitVec.ofNat 10 v.toNat)) ∈ t.due))
    ∧ ∀ b, v.toNat < 1024 → (s.dist die.toNat).up = true → (s.dist die.toNat).slots = [] → (s.dist die.toNat).binds = [(v.toNat, b)] → b.prio < 8 →
        (s.die die.toNat).fmode.getLsbD 1 = false → ∃ t, exec (.queueNotify die v) s = .next t ∧ t.groups = s.groups
          ∧ (t.dist die.toNat).slots = [(0, v.toNat)] ∧ Instr.launchRecordAccept die (.queue (BitVec.ofNat 10 v.toNat)) ∈ t.due)
  ∧ (∀ (die : BitVec 6) (s : State) e, Instr.heartbeat die ∈ s.due → (s.dist die.toNat).alive = true → s.adopterOf die.toNat = some e →
    (s.clock die.toNat < (s.dist die.toNat).beat + 2 ^ 20 → exec (.heartbeat die) s = .next s)
    ∧ ((s.dist die.toNat).beat + 2 ^ 20 ≤ s.clock die.toNat → ∃ t, exec (.heartbeat die) s = .next t ∧ SameMemory s t ∧ t.groups = s.groups
        ∧ (t.dist die.toNat).beat = s.clock die.toNat ∧ (t.dist e).seen.get 0 die.toNat = s.clock e
        ∧ Instr.heartbeatLost (BitVec.ofNat 6 e) die ∈ t.due))
  ∧ (∀ (a die : BitVec 6) (s : State), Instr.heartbeatLost a die ∈ s.due → (s.dist die.toNat).adopter = none → (s.die die.toNat).fence.getLsbD 4 = false →
    (s.clock a.toNat < (s.dist a.toNat).seen.get 0 die.toNat + 4 * 2 ^ 20 → exec (.heartbeatLost a die) s = .next s)
    ∧ ((s.dist a.toNat).seen.get 0 die.toNat + 4 * 2 ^ 20 ≤ s.clock a.toNat → FormsNew s a.toNat → ∃ t, exec (.heartbeatLost a die) s = .next t
        ∧ t.groups = s.groups ∧ (t.die a.toNat).seq = (s.die a.toNat).seq + 1 ∧ Instr.distributorAdoption a die ∈ t.due))
  ∧ (∀ (die : BitVec 6) (s : State), (s.dist die.toNat).alive = true → (∀ k ∈ (s.dist die.toNat).adopting, (s.dist k).adopter = some die.toNat) →
    FormsNew s die.toNat →
    ∃ t, exec (.distributorFailure die) s = .next t ∧ t.groups = s.groups ∧ (t.dist die.toNat).alive = false
      ∧ (t.die die.toNat).seq = (s.die die.toNat).seq + 1 ∧ (∀ k ∈ (s.dist die.toNat).adopting, (t.dist k).adopter = none)
      ∧ (∀ e, s.adopterOf die.toNat = some e → ∀ k ∈ die.toNat :: (s.dist die.toNat).adopting,
          Instr.distributorAdoption (BitVec.ofNat 6 e) (BitVec.ofNat 6 k) ∈ t.due)
      ∧ (s.adopterOf die.toNat = none → ∀ k ∈ die.toNat :: (s.dist die.toNat).adopting, Instr.dieFence (BitVec.ofNat 6 k) ∈ t.due))
  ∧ ∀ (a die : BitVec 6) (s : State), Instr.distributorAdoption a die ∈ s.due → (s.dist die.toNat).adopter = none →
    (s.die die.toNat).fence.getLsbD 4 = false → (s.dist a.toNat).alive = true →
    (s.readCheckpoint die.toNat = none → FormsNew s a.toNat → ∃ t, exec (.distributorAdoption a die) s = .next t ∧ t.groups = s.groups
        ∧ (t.die a.toNat).seq = (s.die a.toNat).seq + 1 ∧ Instr.dieFence die ∈ t.due)
    ∧ ((∃ i < 2048, checkpointAt die.toNat / 32 + i ∈ s.poison) → s.readCheckpoint die.toNat = none)
    ∧ ∀ k, a ≠ die → s.readCheckpoint die.toNat = some k → (s.dist die.toNat).held = [] → (s.dist die.toNat).adopting = [] →
        ∃ t, exec (.distributorAdoption a die) s = .next t ∧ t.groups = s.groups ∧ (t.dist die.toNat).adopter = some a.toNat
          ∧ (t.dist die.toNat).disabled = true ∧ (t.dist a.toNat).adopting = (s.dist a.toNat).adopting ++ [die.toNat]
          ∧ (t.dist die.toNat).accepted = (s.replay die.toNat 2048 k).accepted

/-! ### Registers of devices, tenants and security (12, 14, 20) -/

/-- R76, R301, R313, R336 to R342, R351, R353, R356, R373, R385, R416: each register takes what its map lets its writers store; a
write by an agent that a register does not name has no effect.
The model's choices: fmode[3] signs the certificate at once (log 7), and the readings of log 34 and 35. -/
def Obligations.RegistersTakeTheirWrites : Prop :=
  (∀ (c : BitVec 10) (v : Dword) (s : State), (s.svc c.toNat).mode = .s → (∃ t, exec (.registerWrite (.csr c 0x5C0) (.peat c) v) s = .next t
      ∧ SameMemory s t ∧ t.groups = s.groups ∧ t.svc c.toNat = { s.svc c.toNat with sdroot := v &&& 0x800000000000FFFF })
    ∧ (∃ t, exec (.registerWrite (.csr c 0xDC0) (.peat c) v) s = .next t ∧ SameMemory s t ∧ t.groups = s.groups ∧ t.svc c.toNat = s.svc c.toNat)
    ∧ exec (.registerWrite (.csr c 0x5C5) (.peat c) v) s = exec (.sring c v) s
    ∧ exec (.registerWrite (.csr c 0x5C3) (.peat c) v) s = exec (.scres c v) s
    ∧ exec (.registerWrite (.csr c 0x5C4) (.peat c) v) s = (if v.getLsbD 63 = true then exec (.slresumeRelease c v) s else exec (.slresumeStage c v) s)
    ∧ exec (.registerWrite (.csr c 0x5CC) (.peat c) v) s = exec (.smsgsend c) s
    ∧ exec (.registerWrite (.csr c 0x5D6) (.peat c) v) s = exec (.sctxopSave c v) s
    ∧ (∀ r, exec (.registerWrite r .host v) s = .next s)
    ∧ ∀ e, e ≠ c → exec (.registerWrite (.csr c 0x5C5) (.peat e) v) s = .next s)
  ∧ (∀ (c : BitVec 10) (v : Dword) (s : State), (s.svc c.toNat).mode = .u →
    exec (.registerWrite (.csr c 0x5C0) (.peat c) v) s = .next (s.svcTrap c.toNat 2 0))
  ∧ (∀ (die : BitVec 6) (a : Agent) (v : Dword) (s : State), exec (.registerWrite (.ctl die 0x5800018) a v) s = exec (.fenceRegisterWrite die a v) s
    ∧ exec (.registerWrite (.ctl die 0x5800038) a v) s = exec (.fwctlWrite die a v) s
    ∧ exec (.registerWrite (.ctl die 0x58000F8) a v) s = exec (.tcfgWrite die a 15 v) s)
  ∧ (∀ (die : BitVec 6) (c : BitVec 10) (t : BitVec 12) (v : Byte) (s : State), (∃ u, exec (.shareTableWrite die (.peat c) t v) s = .next u
      ∧ SameMemory s u ∧ u.groups = s.groups ∧ (u.die die.toNat).shares.get 1 t.toNat = (if v = 0 then 1 else v)
      ∧ ∀ k, k ≠ t.toNat → (u.die die.toNat).shares.get 1 k = (s.die die.toNat).shares.get 1 k)
    ∧ exec (.shareTableWrite die .firmware t v) s = .next s ∧ exec (.shareTableWrite die .host t v) s = .next s)
  ∧ (∀ (die : BitVec 6) (c : BitVec 10) (n : BitVec 4) (v : Dword) (s : State),
    let w := v &&& 0x8FFFFFFFFFFFFFFF
    let clash := ∃ k < 16, k ≠ n.toNat ∧ tcfgClash (s.die die.toNat).mmodeReq w ((s.die die.toNat).tcfg.get 0 k) = true
    (¬clash → ∃ t, exec (.tcfgWrite die (.peat c) n v) s = .next t ∧ SameMemory s t ∧ t.groups = s.groups
        ∧ (t.die die.toNat).tcfg.get 0 n.toNat = w ∧ ∀ k, k ≠ n.toNat → (t.die die.toNat).tcfg.get 0 k = (s.die die.toNat).tcfg.get 0 k)
    ∧ (clash → FormsNew s die.toNat → ∃ t, exec (.tcfgWrite die (.peat c) n v) s = .next t ∧ t.groups = s.groups ∧ (t.die die.toNat).tcfg = (s.die die.toNat).tcfg
        ∧ (t.die die.toNat).seq = (s.die die.toNat).seq + 1))
  ∧ (∀ (die : BitVec 6) (v : Dword) (s : State), (∃ t, exec (.fwctlWrite die .firmware v) s = .next t ∧ t.groups = s.groups
      ∧ (t.die die.toNat).fwctl = (if (s.die die.toNat).fwctl.getLsbD 63 = true then (s.die die.toNat).fwctl ||| (v &&& 0xF)
          else v &&& 0x8000000000003F0F))
    ∧ (∀ c, exec (.fwctlWrite die (.peat c) v) s = .next s) ∧ exec (.fwctlWrite die .host v) s = .next s)
  ∧ (∀ (die : BitVec 6) (c : BitVec 10) (v : Dword) (s : State), ∃ t, exec (.mmodeWrite die (.peat c) v) s = .next t ∧ SameMemory s t
    ∧ t.groups = s.groups ∧ (t.die die.toNat).mmodeReq = v.extractLsb' 0 16 ∧ (t.die die.toNat).mmodeCur = (s.die die.toNat).mmodeCur
    ∧ ∀ k < 16, v.getLsbD k ≠ (s.die die.toNat).mmodeCur.getLsbD k → Instr.arrayModeSwitch (BitVec.ofNat 10 (16 * die.toNat + k)) ∈ t.due)
  ∧ (∀ (die : BitVec 6) (c : BitVec 10) (v : Dword) (s : State), ∃ t, exec (.fmodeWrite die (.peat c) v) s = .next t ∧ t.groups = s.groups
    ∧ (t.die die.toNat).fmode = v &&& 0x3F
    ∧ (v.getLsbD 3 = true → (s.die die.toNat).fmode.getLsbD 3 = false →
        let body := leBytes 4 1 ++ leBytes 4 die.toNat ++ leBytes 8 (s.die die.toNat).tokSeq ++ s.deviceBytes (certAt die.toNat + 0x10) 32 ++ leBytes 16 0
        (∀ i < 64, t.readByte (certAt die.toNat + i) = body.getD i 0) ∧ ∀ i < 384, t.readByte (certAt die.toNat + 64 + i) = Config.rsaSignature body i)
    ∧ (v.getLsbD 3 = (s.die die.toNat).fmode.getLsbD 3 → SameMemory s t))
  ∧ (∀ (die : BitVec 6) (v : Dword) (s : State), die.toNat ≤ 6 ∨ 57 ≤ die.toNat → v.extractLsb' 58 2 = 1 ∨ v.extractLsb' 58 2 = 2 →
    ∃ t, exec (.lcfgWrite die .distributor v) s = .next t ∧ (v.getLsbD 63 = false → SameMemory s t) ∧ t.groups = s.groups
      ∧ (t.die die.toNat).lcfg = ((s.die die.toNat).lcfg &&& ~~~(0xCC0000000000FFFF : Dword)) ||| (v &&& 0xCC0000000000FFFF))
  ∧ (∀ (die : BitVec 6) (a : Agent) (v : Dword) (s : State), a ≠ .host →
    (∃ t, exec (.qtmoWrite die a v) s = .next t ∧ SameMemory s t ∧ t.groups = s.groups ∧ (t.die die.toNat).qtmo = v &&& 0x80000000FFFFFFFF)
    ∧ (∃ t, exec (.fenceRegisterWrite die a v) s = .next t ∧ SameMemory s t ∧ t.groups = s.groups
        ∧ (t.die die.toNat).fence = (s.die die.toNat).fence ||| (v &&& 0x1F)
        ∧ (v &&& 0xF ≠ 0 → (t.die die.toNat).rreq.getLsbD 63 = true ∧ (t.die die.toNat).rreq.getLsbD 48 = true))
    ∧ ∃ t, exec (.rreqWrite die a v) s = .next t ∧ SameMemory s t ∧ t.groups = s.groups
        ∧ (t.die die.toNat).rreq = (s.die die.toNat).rreq ||| (v &&& 0x8003000000000000))
  ∧ ∀ (die : BitVec 6) (v : Dword) (s : State), exec (.qtmoWrite die .host v) s = .next s ∧ exec (.fenceRegisterWrite die .host v) s = .next s
    ∧ exec (.rreqWrite die .host v) s = .next s

/-- R343 to R347, R350, R351, R413: a tenant switch waits for Sluice; a scrub zeroes its frames, gives them their owner and leaves a
token; tokens are signed, by the security block or by the host; a report is signed.
The model's choices: signatures and digests are free functions of the bytes they cover (log 7), and which dies a token names is
UNVERIFIED (log 35). -/
def Obligations.ScrubsTokensAndReports : Prop :=
  (∀ (die : BitVec 6) payload (s : State), Instr.tenantSwitch die payload ∈ s.due → (s.dist die.toNat).up = true →
    let w := fun i => payload.getD i (0 : Dword)
    let tout := ((w 0).extractLsb' 0 16).toNat
    (w 0).extractLsb' 48 16 = 0 → (w 0).extractLsb' 12 20 = 0 → (w 2).extractLsb' 32 32 = 0 → (w 4).extractLsb' 32 32 = 0 →
    ((s.die die.toNat).hasTenant tout = false → FormsNew s die.toNat → ∃ t, exec (.tenantSwitch die payload) s = .next t ∧ t.groups = s.groups
        ∧ (t.dist die.toNat).switch = (s.dist die.toNat).switch ∧ (t.die die.toNat).seq = (s.die die.toNat).seq + 1)
    ∧ ((s.die die.toNat).hasTenant tout = true → (s.dist die.toNat).switch = none → (s.die die.toNat).scrub = none →
        ∃ t x, exec (.tenantSwitch die payload) s = .next t ∧ SameMemory s t ∧ (t.dist die.toNat).switch = some x ∧ x.tout = tout
          ∧ x.tin = ((w 0).extractLsb' 32 16).toNat ∧ x.cores = w 1 ∧ x.halves = (w 2).extractLsb' 0 32 ∧ x.list = (w 3).toNat
          ∧ x.n = ((w 4).extractLsb' 0 32).toNat ∧ x.gangs = s.switchGangs die.toNat tout x.cores x.halves ∧ Instr.sluiceScrub die [] ∈ t.due))
  ∧ (∀ (die : BitVec 6) stuck (s : State) w, Instr.sluiceScrub die [] ∈ s.due → (s.die die.toNat).scrub = none → (s.dist die.toNat).switch = some w →
    (s.dist die.toNat).up = true → (∀ e ∈ s.switchGangs die.toNat w.tout w.cores w.halves, e ∈ w.gangs) →
    ((∃ e ∈ w.gangs, ∃ x, s.gang? e.1 e.2 = some x ∧ x.st ≠ .saved) → exec (.sluiceScrub die stuck) s = .next s)
    ∧ ((∀ e ∈ w.gangs, ∀ x, s.gang? e.1 e.2 = some x → x.st = .saved) → ∃ t c, exec (.sluiceScrub die stuck) s = .next t ∧ SameMemory s t
        ∧ t.groups = s.groups ∧ (t.dist die.toNat).switch = none ∧ (t.die die.toNat).scrub = some c ∧ c.boot = false ∧ c.tout = w.tout
        ∧ c.tin = w.tin ∧ c.cores = w.cores ∧ c.halves = w.halves ∧ c.list = w.list ∧ c.n = w.n ∧ c.freed = w.freed ∧ c.dies = w.dies ∧ c.closed = w.closed))
  ∧ (∀ (die : BitVec 6) (s : State) c e, Instr.sluiceScrub die [] ∈ s.due → (s.die die.toNat).scrub = some c →
    rangeList (s.listBytes die.toNat c) = [e] → s.badEntry [e] = none → (∀ f ∈ e.frames, 2 ^ 27 ≤ paOff f) →
    ∃ t, exec (.sluiceScrub die []) s = .next t ∧ t.groups = s.groups ∧ (t.die die.toNat).scrub = none
      ∧ (t.die die.toNat).tokSeq = (s.die die.toNat).tokSeq + 1
      ∧ (t.die die.toNat).tokens = (s.die die.toNat).tokens ++ [(s.die die.toNat).tokSeq + 1] ∧ Instr.tokenSign die 0 0 ∈ t.due
      ∧ (∀ f ∈ e.frames, (∀ i < 65536, t.readByte (f + i) = 0)
          ∧ t.readNat (paDie f * 2 ^ 37 + 8 * (paOff f / 65536)) 8 = e.next * 4096 + e.owner)
      ∧ t.readNat (tokenAt die.toNat ((s.die die.toNat).tokSeq + 1)) 4 = 1
      ∧ t.readNat (tokenAt die.toNat ((s.die die.toNat).tokSeq + 1) + 0x12) 2 = c.tout % 65536)
  ∧ (∀ (die : BitVec 6) (s : State) c i, Instr.sluiceScrub die [] ∈ s.due → (s.die die.toNat).scrub = some c →
    s.badEntry (rangeList (s.listBytes die.toNat c)) = some i → FormsNew s die.toNat → ∃ t, exec (.sluiceScrub die []) s = .next t ∧ t.groups = s.groups
      ∧ (t.die die.toNat).scrub = none ∧ (t.die die.toNat).tokSeq = (s.die die.toNat).tokSeq ∧ (t.die die.toNat).seq = (s.die die.toNat).seq + 1)
  ∧ (∀ (die : BitVec 6) (s : State) seq, Instr.tokenSign die 0 0 ∈ s.due → (s.die die.toNat).nextToken = some seq →
    (s.tokenBytes die.toNat seq).getD 0x11 0 = 0 →
    let body := s.tokenBytes die.toNat seq
    ∃ t, exec (.tokenSign die 0 0) s = .next t ∧ t.groups = s.groups ∧ (t.die die.toNat).signed = (s.die die.toNat).signed ++ [seq]
      ∧ (t.die die.toNat).tokens = (s.die die.toNat).tokens.erase seq
      ∧ (∀ i < 384, t.readByte (tokenAt die.toNat seq + 0x60 + i) = Config.rsaSignature body i)
      ∧ (∀ i < 17088, t.readByte (tokenAt die.toNat seq + 0x1E0 + i) = Config.slhSignature body i)
      ∧ ∀ i < 0x60, t.readByte (tokenAt die.toNat seq + i) = s.readByte (tokenAt die.toNat seq + i))
  ∧ (∀ (die : BitVec 6) (s : State) seq, Instr.tokenSign die 0 0 ∈ s.due → (s.die die.toNat).nextToken = some seq →
    (s.tokenBytes die.toNat seq).getD 0x11 0 = 1 →
    ∃ t, exec (.tokenSign die 0 0) s = .next t ∧ t.groups = s.groups
      ∧ (∀ n x, s.hostWait = [] → s.hostLink die.toNat = some n → s.links.find n = some x → x.up = true → x.spend.isSome = true →
          t.hostOut = s.hostOut ++ [.signing die.toNat seq])
      ∧ (s.hostLink die.toNat = none → t.hostWait = s.hostWait ++ [(die.toNat, .signing die.toNat seq)])
      ∧ (t.die die.toNat).signed = (s.die die.toNat).signed ∧ (t.die die.toNat).tokAsk.find seq = some (s.clock die.toNat)
      ∧ Instr.delegatedSignTimeout die ∈ t.due)
  ∧ (∀ (die : BitVec 6) (v : Word) (s : State) seq,
    (s.die die.toNat).tokens.find? (fun n => (s.die die.toNat).tokAsk.has n && n % 2 ^ 32 == v.toNat) = some seq →
    let body := s.tokenBytes die.toNat seq
    let sig := (List.range 17088).map fun i => (s.die die.toNat).staging.get 0 i
    ∃ t, exec (.signingDoorbell die v) s = .next t ∧ t.groups = s.groups
      ∧ if Config.slhVerify (s.deviceBytes (certAt die.toNat + 0x10) 32) body sig = true then
          (t.die die.toNat).signed = (s.die die.toNat).signed ++ [seq]
            ∧ ∀ i < 17088, t.readByte (tokenAt die.toNat seq + 0x1E0 + i) = (s.die die.toNat).staging.get 0 i
        else FormsNew s die.toNat → if (s.die die.toNat).tokTries.get 0 seq = 0 then
          (t.die die.toNat).signed = (s.die die.toNat).signed ∧ (t.die die.toNat).seq = (s.die die.toNat).seq + 1
            ∧ (t.die die.toNat).tokTries.find seq = some 1
        else (t.die die.toNat).signed = (s.die die.toNat).signed ++ [seq] ∧ (t.die die.toNat).seq = (s.die die.toNat).seq + 1)
  ∧ (∀ (die : BitVec 6) (s : State) seq k, Instr.delegatedSignTimeout die ∈ s.due → (s.die die.toNat).tokAsk = [(seq, k)] →
    (s.clock die.toNat < k + 2 ^ 30 → exec (.delegatedSignTimeout die) s = .next s)
    ∧ (k + 2 ^ 30 ≤ s.clock die.toNat → FormsNew s die.toNat → ∃ t, exec (.delegatedSignTimeout die) s = .next t ∧ t.groups = s.groups
        ∧ (t.die die.toNat).signed = (s.die die.toNat).signed ++ [seq] ∧ (t.die die.toNat).seq = (s.die die.toNat).seq + 1
        ∧ (t.die die.toNat).tokAsk = []))
  ∧ ∀ (die : BitVec 6) nonce (s : State), (∃ t, exec (.attestationReport die nonce 0 0) s = .next t ∧ SameMemory s t ∧ t.groups = s.groups
      ∧ (t.die die.toNat).report = s.reportBody die.toNat nonce ++ rsaOf (s.reportBody die.toNat nonce) ++ slhOf (s.reportBody die.toNat nonce))
    ∧ (FormsNew s die.toNat → ∃ t, exec (.attestationReport die nonce 3 0) s = .next t ∧ t.groups = s.groups ∧ (t.die die.toNat).report = (s.die die.toNat).report
      ∧ (t.die die.toNat).seq = (s.die die.toNat).seq + 2 ∧ (t.die die.toNat).rreq.getLsbD 63 = true)

/-! ### Reset, boot and failures (04, 05, 13, 14, 17 to 20) -/

/-- R89, R331, R333, R346, R349, R415: a reset keeps memory outside the ownership tables, a loss of power keeps none; the stages of
boot verify, write their tables, start the scrub and enter Peat.
The model's choices: every byte is its default after a loss of power (log 2), what starts a program (log 14), what firmware leaves a core (log 4, 17), the details of log 32, the power
capacity (log 53) and where the code of a service core starts (log 54). -/
def Obligations.ResetAndBoot : Prop :=
  (∀ s : State, ∃ t, exec .moduleReset s = .next t ∧ t.groups = [] ∧ t.grids = [] ∧ t.clusters = [] ∧ t.cores = [] ∧ t.caches = []
    ∧ t.due = [.bootStage1 true true ⟨true, true⟩] ∧ t.boot = 0
    ∧ ∀ a, t.readByte a = if paOff a < 8 * dieFrames then memDefault a else s.readByte a)
  ∧ (∀ s : State, ∃ t, exec .modulePowerLoss s = .next t ∧ t.groups = [] ∧ t.clusters = [] ∧ t.due = [] ∧ ∀ a, t.readByte a = memDefault a)
  ∧ (∀ (s : State) a b c e, Instr.bootStage1 true true ⟨true, true⟩ ∈ s.due → (s.die 0).fmode.getLsbD 2 = false → (s.ctl 0).enabled = false →
    ∃ t q, exec (.bootStage1 a b ⟨c, e⟩) s = .next t ∧ t.groups = s.groups ∧ Instr.bootStage1 true true ⟨true, true⟩ ∈ t.due ∧ (t.ctl 0).enabled = true
      ∧ (t.ctl 0).ready = true ∧ q ∈ (t.ctl 0).cmds ∧ q.op = .read ∧ q.nsid = 1 ∧ q.lba = Config.bootHeader ∧ q.n = 1
      ∧ Instr.nvmeRead 0 q.cid ∈ t.due)
  ∧ (∀ s : State, (s.die 0).fmode.getLsbD 2 = true → s.romLoad = none)
  ∧ (∀ s : State, Instr.bootStage1 true true ⟨true, true⟩ ∈ s.due → s.romLoad = none →
    (∃ t, exec (.bootStage1 true true ⟨true, true⟩) s = .next t ∧ SameMemory s t ∧ t.groups = s.groups ∧ (t.die 0).started = true ∧ t.boot = 1
      ∧ ∀ d < 64, d ≠ 0 → Instr.bootStage2 (BitVec.ofNat 6 d) true true ∈ t.due)
    ∧ ∀ a b c e, a = false ∨ b = false ∨ c = false ∨ e = false → FormsNew s 0 → ∃ t, exec (.bootStage1 a b ⟨c, e⟩) s = .next t ∧ t.groups = s.groups ∧ t.boot = s.boot
      ∧ (t.die 0).started = (s.die 0).started ∧ (t.die 0).seq = (s.die 0).seq + 1 ∧ Instr.dieFence 0 ∈ t.due)
  ∧ (∀ (die : BitVec 6) (s : State), Instr.bootStage2 die true true ∈ s.due → ∃ t, exec (.bootStage2 die true true) s = .next t ∧ SameMemory s t
    ∧ t.groups = s.groups ∧ (t.die die.toNat).started = true
    ∧ (s.due = [.bootStage2 die true true] → t.boot = 2 ∧ ∀ d < 64, (s.die d).started = true ∨ d = die.toNat →
        Instr.bootStage3 (BitVec.ofNat 6 d) false ∈ t.due))
  ∧ (∀ (die : BitVec 6) (lock : Bool) (s : State), Instr.bootStage3 die false ∈ s.due → ∃ t, exec (.bootStage3 die lock) s = .next t
    ∧ t.groups = s.groups ∧ (t.die die.toNat).shares = [] ∧ (lock = true → (t.die die.toNat).fwctl.getLsbD 63 = true)
    ∧ (∃ c, (t.die die.toNat).scrub = some c ∧ c.boot = true ∧ c.dies = BitVec.twoPow 64 die.toNat)
    ∧ Instr.sluiceScrub die [] ∈ t.due ∧ Instr.heartbeat die ∈ t.due
    ∧ (8 ≤ Config.powerCap die.toNat → Config.powerCap die.toNat ≤ 140 → (t.die die.toNat).power.cap = Config.powerCap die.toNat)
    ∧ (∀ i < 16, let c := 16 * die.toNat + i
        t.svc c = { Svc.reset with running := true, pc := BitVec.ofNat 64 (Config.svcEntry c) } ∧ t.hartEvent c ∈ t.due
        ∧ Instr.bootStage4 (BitVec.ofNat 10 c) ∈ t.due)
    ∧ ∀ a, t.readByte a = if (die.toNat * 2 ^ 37 + 0x1000000 ≤ a ∧ a < die.toNat * 2 ^ 37 + 0x1080000)
        ∨ (die.toNat * 2 ^ 37 + 0x7000000 ≤ a ∧ a < die.toNat * 2 ^ 37 + 0x7008000) then 0 else s.readByte a)
  ∧ ∀ (cv : BitVec 10) (s : State), Instr.bootStage4 cv ∈ s.due → cv = 0 ∨ 4 ≤ s.boot → ∃ t, exec (.bootStage4 cv) s = .next t ∧ SameMemory s t
    ∧ t.groups = s.groups ∧ (t.svc cv.toNat).mode = .s ∧ (t.svc cv.toNat).pc = BitVec.ofNat 64 (Config.svcEntry (1024 + cv.toNat)) ∧ Instr.budgetPeriod cv ∈ t.due ∧ (cv = 0 → t.boot = 4 ∧ ∀ k < 8, (t.ctl k).ready = true)
    ∧ ∀ k < 8, cv.toNat ∈ (t.ctl k).queues ∧ cv.toNat ∈ (t.ctl k).cqs

/-- R117, R310 to R312, R370 to R374, R387, R408, R409: a die is fenced on every side; records are delivered; patrol finds errors; a
service core fails; its accesses read, write or trap; FENCE.I empties its instruction cache.
The model's choices: the entry of a service core's trap is that of the RISC-V Privileged Architecture (log 17), its registers at
reset are those of log 4, its instructions are those of log 54, and log 33, 48 and 52 hold the readings. -/
def Obligations.FailuresRecordsAndServiceAccesses : Prop :=
  (∀ (die : BitVec 6) (s : State), Instr.dieFence die ∈ s.due → (s.die die.toNat).fence.getLsbD 4 = false → (s.dist die.toNat).held = [] →
    ∃ t, exec (.dieFence die) s = .next t ∧ t.groups = s.groups ∧ (∀ k < 5, (t.die die.toNat).fence.getLsbD k = true)
      ∧ ∀ k < 4, ∀ e, neighbour die.toNat k = some e → (t.die e).fence.getLsbD (k ^^^ 1) = true)
  ∧ (∀ (die : BitVec 6) (slot : BitVec 12) (s : State) src c m rest, Instr.errorRecordDelivered die slot false ∈ s.due →
    s.chans = (src, .svc c, m) :: rest → recordOf (src, .svc c, m) = some (die.toNat, slot.toNat) → s.msgDropped src (.svc c) = false →
    (s.die die.toNat).undelivered.get 0 slot.toNat = 1 → (s.die die.toNat).heldRecs = [] →
    (256 ≤ (s.svc c.toNat).rcv.length → exec (.errorRecordDelivered die slot false) s = .next s)
    ∧ ((s.svc c.toNat).rcv.length < 256 → ∃ t, exec (.errorRecordDelivered die slot false) s = .next t ∧ SameMemory s t ∧ t.groups = s.groups
        ∧ t.chans = rest ∧ (t.svc c.toNat).rcv = (s.svc c.toNat).rcv ++ [(src, m)] ∧ (t.die die.toNat).undelivered.get 0 slot.toNat = 0))
  ∧ (∀ (die : BitVec 6) (slot : BitVec 12) (s : State) x, Instr.errorRecordDelivered die slot true ∈ s.due →
    s.hostFirst die.toNat slot.toNat = true → (s.die die.toNat).hen = true →
    let n := (s.die die.toNat).hlink
    n ≤ 13 → s.samePart die.toNat (linkDie n) = true → s.links.find n = some x → x.up = true → x.spend.isSome = true →
    s.sends die.toNat (linkDie n) = true → s.draining (linkDie n) (4 + n) = false →
    ∃ t, exec (.errorRecordDelivered die slot true) s = .next t ∧ t.groups = s.groups ∧ t.dies = s.dies
      ∧ t.hostOut = s.hostOut ++ [.record die.toNat slot.toNat n (s.deviceBytes (logSlot die.toNat slot.toNat) 64)])
  ∧ (∀ (sector : BitVec 38) (s : State), exec (.hbmPatrolRead sector 0) s = .next s
    ∧ (inHole (32 * sector.toNat) = false →
      FormsNew s (paDie (32 * sector.toNat)) → (∃ t, exec (.hbmPatrolRead sector 1) s = .next t ∧ t.groups = s.groups
        ∧ (t.die (paDie (32 * sector.toNat))).seq = (s.die (paDie (32 * sector.toNat))).seq + 1)
      ∧ ∃ t, exec (.hbmPatrolRead sector 2) s = .next t ∧ t.groups = s.groups
        ∧ (32 * sector.toNat < logSlot (paDie (32 * sector.toNat)) ((s.die (paDie (32 * sector.toNat))).seq + 1)
            ∨ logSlot (paDie (32 * sector.toNat)) ((s.die (paDie (32 * sector.toNat))).seq + 1) + 64 ≤ 32 * sector.toNat → sector.toNat ∈ t.poison)
        ∧ (sector.toNat ∉ s.poison → (t.die (paDie (32 * sector.toNat))).seq = (s.die (paDie (32 * sector.toNat))).seq + 1)))
  ∧ (∀ (cv : BitVec 10) (s : State), (s.cluster cv.toNat).out = false → ∃ t, exec (.serviceCoreFailure cv) s = .next t
    ∧ (t.cluster cv.toNat).out = true ∧ (t.die (cv.toNat / 16)).rreq.getLsbD 63 = true ∧ (t.die (cv.toNat / 16)).rreq.getLsbD 49 = true)
  ∧ (∀ (cv : BitVec 10) (a : SvcAccess) (s : State) l, s.due = [.serviceCoreAccess cv a] → (s.cluster cv.toNat).out = false →
    s.svcHeld cv.toNat = false → (s.svc cv.toNat).mode = .m → a.op = .load → a.aq = false → a.va.toNat % 2 ^ a.size.toNat = 0 → a.va.toNat < 2 ^ 43 → inHole a.va.toNat = false →
    ownState (s.ownEntry a.va.toNat) ≠ 2 → s.reach (cv.toNat / 16) (paDie a.va.toNat) = true → regFrame (paOff a.va.toNat) = false →
    (s.cache (cacheOfSvc cv.toNat)).lines.find (a.va.toNat / 128) = some l → l.psn = 0 →
    let v := leNat ((List.range (2 ^ a.size.toNat)).map fun i => l.data.getD (a.va.toNat % 128 + i) 0)
    ∃ t, exec (.serviceCoreAccess cv a) s = .next t ∧ SameMemory s t ∧ t.groups = s.groups
      ∧ t.svc cv.toNat = { s.svc cv.toNat with x := (t.svc cv.toNat).x } ∧ (a.rd = 0 → (t.svc cv.toNat).x = (s.svc cv.toNat).x)
      ∧ (a.rd ≠ 0 → (t.svc cv.toNat).x.get 0 a.rd.toNat = widen a.signed (8 * 2 ^ a.size.toNat) v
          ∧ ∀ r, r ≠ a.rd.toNat → (t.svc cv.toNat).x.get 0 r = (s.svc cv.toNat).x.get 0 r))
  ∧ (∀ (cv : BitVec 10) (a : SvcAccess) (s : State) l, s.due = [.serviceCoreAccess cv a] → (s.cluster cv.toNat).out = false →
    s.svcHeld cv.toNat = false → (s.svc cv.toNat).mode = .m → a.op = .store → a.aq = false → a.va.toNat % 2 ^ a.size.toNat = 0 → a.va.toNat < 2 ^ 43 → inHole a.va.toNat = false →
    ownState (s.ownEntry a.va.toNat) ≠ 2 → s.reach (cv.toNat / 16) (paDie a.va.toNat) = true → regFrame (paOff a.va.toNat) = false →
    (s.cache (cacheOfSvc cv.toNat)).lines.find (a.va.toNat / 128) = some l → l.st = .m → l.data.length = 128 →
    ∃ t x, exec (.serviceCoreAccess cv a) s = .next t ∧ SameMemory s t ∧ t.groups = s.groups
      ∧ (t.cache (cacheOfSvc cv.toNat)).lines.find (a.va.toNat / 128) = some x ∧ x.st = .m
      ∧ ∀ i < 128, x.data.getD i 0 = if a.va.toNat % 128 ≤ i ∧ i < a.va.toNat % 128 + 2 ^ a.size.toNat
          then a.value.extractLsb' (8 * (i - a.va.toNat % 128)) 8 else l.data.getD i 0)
  ∧ (∀ (cv : BitVec 10) (a : SvcAccess) (s : State), s.due = [.serviceCoreAccess cv a] → (s.cluster cv.toNat).out = false →
    s.svcHeld cv.toNat = false → (s.svc cv.toNat).mode = .m → a.op = .load → a.va.toNat < 2 ^ 43 → inHole a.va.toNat = false →
    ownState (s.ownEntry a.va.toNat) ≠ 2 → s.reach (cv.toNat / 16) (paDie a.va.toNat) = true → regFrame (paOff a.va.toNat) = false →
    a.va.toNat % 2 ^ a.size.toNat ≠ 0 → ∃ t : State, exec (.serviceCoreAccess cv a) s = .next (t.svcTrap cv.toNat 4 a.va.toNat)
      ∧ t = { s with due := [], clusters := t.clusters } ∧ t.svc cv.toNat = s.svc cv.toNat)
  ∧ (∀ c cause tval (s : State), let x := s.svc c
    let y := (s.svcTrap c cause tval).svc c
    (x.mode ≠ .m → (x.csr 0x302).getLsbD cause = true → y.scause = BitVec.ofNat 64 cause ∧ y.stval = BitVec.ofNat 64 tval ∧ y.sepc = x.pc
      ∧ y.pc = x.stvec &&& ~~~3 ∧ y.mode = .s)
    ∧ (x.mode = .m ∨ (x.csr 0x302).getLsbD cause = false → y.csr 0x342 = BitVec.ofNat 64 cause ∧ y.csr 0x343 = BitVec.ofNat 64 tval
      ∧ y.csr 0x341 = x.pc ∧ y.pc = x.csr 0x305 &&& ~~~3 ∧ y.mode = .m))
  ∧ (∀ (cv : BitVec 10) (s : State), s.hartEvent cv.toNat ∈ s.due → (s.cluster cv.toNat).out = false → (s.svc cv.toNat).running = true →
    s.svcHeld cv.toNat = false →
    let u := s.dropDue (s.hartEvent cv.toNat)
    (∀ m n, s.svcIrq cv.toNat = some (m, n) → ∃ t, exec (s.hartEvent cv.toNat) s = .next t ∧ SameMemory s t ∧ t.groups = s.groups
      ∧ (t.svc cv.toNat).mode = (if m then .m else .s))
    ∧ ∀ w raw len v, s.svcIrq cv.toNat = none → u.hartFetch cv.toNat = .inl (w, raw, len, v) →
      (∀ pc y, v.hartExec cv.toNat w len = .next pc y → ∃ t, exec (s.hartEvent cv.toNat) s = .next t ∧ (t.svc cv.toNat).pc = pc
        ∧ (t.svc cv.toNat).x = (y.svc cv.toNat).x ∧ (t.svc cv.toNat).f = (y.svc cv.toNat).f ∧ t.hartEvent cv.toNat ∈ t.due)
      ∧ ∀ cause tval y, v.hartExec cv.toNat w len = .trap cause tval y → ∃ t, exec (s.hartEvent cv.toNat) s = .next t
        ∧ t.svc cv.toNat = (y.svcTrap cv.toNat cause (if cause = 2 then raw else tval)).svc cv.toNat ∧ t.hartEvent cv.toNat ∈ t.due)
  ∧ (∀ c (s : State) (rd rs1 rs2 : BitVec 5), let x := s.svc c
    let put := fun (v : Dword) => HartEnd.next (x.pc + 4) (s.setX c rd v)
    s.hartExec c (encR 0 rs2.toNat rs1.toNat 0 rd.toNat 0x33) 4 = put (x.xreg rs1.toNat + x.xreg rs2.toNat)
    ∧ s.hartExec c (encR 32 rs2.toNat rs1.toNat 0 rd.toNat 0x33) 4 = put (x.xreg rs1.toNat - x.xreg rs2.toNat)
    ∧ s.hartExec c (encR 1 rs2.toNat rs1.toNat 0 rd.toNat 0x33) 4 = put (x.xreg rs1.toNat * x.xreg rs2.toNat)
    ∧ (∀ i : BitVec 12, s.hartExec c (encI i.toNat rs1.toNat 0 rd.toNat 0x13) 4 = put (x.xreg rs1.toNat + i.signExtend 64))
    ∧ s.hartExec c 0x00000073 4 = .trap (8 + x.mode.code) 0 s)
  ∧ (∀ (cv : BitVec 10) (s : State), s.svcHeld cv.toNat = true → exec (.fenceI cv) s = .next s)
  ∧ ∀ (cv : BitVec 10) (s : State), s.svcHeld cv.toNat = false → ∃ t, exec (.fenceI cv) s = .next t ∧ SameMemory s t ∧ t.groups = s.groups
    ∧ t.svc cv.toNat = { s.svc cv.toNat with icache := [] }

/-! ### Calls that Peat serves (13, 20, 21) -/

/-- R39, R318, R319: in `t` every caller of `v` has the 64-bit result `r` in its two registers, or the group has it in its scalar,
and the fragment has gone on after its call. -/
def Sys2Proof.Machine.CallAnswered (t : State) (v : Served) (r : Dword) : Prop :=
  FragIs t v.h.gid v.h.frag fun x y => y.state = .ready ∧ y.pc = v.f.pc + 4 ∧ y.mask = v.f.mask
    ∧ (v.w.kind ≠ 2 → ∀ l ∈ v.callers, x.vreg l v.w.reg = ⟨r.extractLsb' 0 32, false⟩ ∧ x.vreg l (v.w.reg + 1) = ⟨r.extractLsb' 32 32, false⟩)
    ∧ (v.w.kind = 2 → v.callers ≠ [] → v.w.reg ≠ 0 → x.sreg v.w.reg = r)

/-- R316, R317, R320: the call `n` at handle `h` of a service core, which Peat has taken, has one caller, lane `l`, with these arguments. -/
structure Sys2Proof.Machine.OneCall (s : State) (c h n : Nat) (v : Served) (a : List Nat) : Prop where
  served : s.served c h = some v
  kind : v.w.kind = 1
  call : v.w.call = n
  one : ∃ l < 1024, v.callers = [l] ∧ s.argsOf c h v l = a

/-- R322, R323: alloc, free, mmap, munmap, faultreg, open, close and socket give their results at once; a call number and a
TRAPI code that name nothing give −ENOSYS.
The model's choices: which error a case gives (log 25), the order of checks and the descriptors (log 26), mappings and quotas (log 44), and what Peat
chooses (log 11). -/
def Obligations.CallsAnsweredAtOnce : Prop :=
  (∀ (cv : BitVec 10) (hv : BitVec 16) (s : State) v a k, OneCall s cv.toNat hv.toNat 1 v a → arg a 1 = 0 → sizeClass (arg a 0) = some k →
    let key := 16 * v.g.tenant.toNat + k
    let at' := s.peat.runOf key
    (0 < s.peat.quotaOf key → ∃ t, exec (.callAlloc cv hv) s = .next t ∧ SameMemory s t ∧ CallAnswered t v (BitVec.ofNat 64 at')
      ∧ t.peat.quotaOf key = s.peat.quotaOf key - 1 ∧ t.peat.runOf key = at' + 64 * 2 ^ k
      ∧ t.peat.blocks.get 0 (2 ^ 64 * v.g.tenant.toNat + at') = k + 1)
    ∧ (s.peat.quotaOf key = 0 → ∃ t, exec (.callAlloc cv hv) s = .next t ∧ SameMemory s t ∧ CallAnswered t v (errno .nomem)))
  ∧ (∀ n k, sizeClass n = some k ↔ 0 < n ∧ k ≤ 10 ∧ n ≤ 64 * 2 ^ k ∧ ∀ j < k, 64 * 2 ^ j < n)
  ∧ (∀ (cv : BitVec 10) (hv : BitVec 16) (s : State) v a, OneCall s cv.toNat hv.toNat 2 v a →
    let key := 2 ^ 64 * v.g.tenant.toNat + arg64 a 0
    (s.peat.blocks.find key = none → ∃ t, exec (.callFree cv hv) s = .next t ∧ SameMemory s t ∧ CallAnswered t v (errno .inval) ∧ t.peat = s.peat)
    ∧ ∀ k, s.peat.blocks.find key = some (k + 1) → ∃ t, exec (.callFree cv hv) s = .next t ∧ SameMemory s t ∧ CallAnswered t v 0
      ∧ t.peat.blocks.find key = none ∧ t.peat.quotaOf (16 * v.g.tenant.toNat + k) = s.peat.quotaOf (16 * v.g.tenant.toNat + k) + 1)
  ∧ (∀ (cv : BitVec 10) (hv : BitVec 16) (s : State) v a u, OneCall s cv.toNat hv.toNat 3 v a →
    let n := (arg a 2 + 65535) / 65536
    n ≠ 0 → arg a 3 < 128 → arg a 3 / 16 % 4 ≠ 3 → arg a 3 / 8 % 2 = 0 → arg64 a 0 % 65536 = 0 → arg64 a 0 ≠ 0 → arg64 a 0 + 65536 * n ≤ 2 ^ 55 →
    arg a 4 = 2 ^ 32 - 1 → s.mapPages (cv.toNat / 16) v.g.asn v.g.tenant.toNat (arg64 a 0) (arg a 3) (filePages [] 0 n) = some u →
    ∃ t, exec (.callMmap cv hv) s = .next t ∧ SameMemory u t ∧ CallAnswered t v (BitVec.ofNat 64 (arg64 a 0))
      ∧ t.peat.maps = s.peat.maps ++ [(v.g.asn.toNat, arg64 a 0 / 65536, n, arg a 3)])
  ∧ (∀ (cv : BitVec 10) (hv : BitVec 16) (s : State) v a, OneCall s cv.toNat hv.toNat 4 v a → arg64 a 0 % 65536 = 0 → arg a 2 ≠ 0 →
    ∃ t, exec (.callMunmap cv hv) s = .next t ∧ CallAnswered t v 0
      ∧ SameMemory ((List.range ((arg a 2 + 65535) / 65536)).foldl (fun s i => s.unmapPage (cv.toNat / 16) v.g.asn (arg64 a 0 + 65536 * i)) s) t ∧ ∀ m, m ∈ t.peat.maps ↔ m ∈ s.peat.maps
      ∧ ¬(m.1 = v.g.asn.toNat ∧ arg64 a 0 / 65536 ≤ m.2.1 ∧ m.2.1 + m.2.2.1 ≤ arg64 a 0 / 65536 + (arg a 2 + 65535) / 65536))
  ∧ (∀ (cv : BitVec 10) (hv : BitVec 16) (s : State) v a, OneCall s cv.toNat hv.toNat 5 v a → arg a 2 < 16 → arg a 2 / 4 % 2 = 0 →
    ∃ t, exec (.callFaultreg cv hv) s = .next t ∧ SameMemory s t ∧ CallAnswered t v 0
      ∧ t.peat.handlers.find v.g.asn.toNat = some (arg a 2, arg64 a 0))
  ∧ (∀ (cv : BitVec 10) (hv : BitVec 16) (s : State) v a u path id file, OneCall s cv.toNat hv.toNat 6 v a →
    (s.die (cv.toNat / 16)).fmode.getLsbD 5 = false → arg a 2 < 64 → arg a 2 % 4 ≠ 0 → arg a 2 / 8 % 2 = 0 →
    s.readPath (cv.toNat / 16) v.g.asn (arg64 a 0) 4096 = .got (some path) u → path ≠ [] →
    s.peat.files.find? (fun e => e.2.tenant == v.g.tenant.toNat && e.2.path == path) = some (id, file) → s.fileOut file = false →
    ∃ t fd, exec (.callOpen cv hv) s = .next t ∧ s.peat.fds.find fd = none ∧ (∀ k < fd, s.peat.fds.find k ≠ none)
      ∧ CallAnswered t v (BitVec.ofNat 64 fd) ∧ t.peat.fds.find fd = some (.file v.g.tenant.toNat id (arg a 2)))
  ∧ (∀ (cv : BitVec 10) (hv : BitVec 16) (s : State) v a, OneCall s cv.toNat hv.toNat 10 v a → s.hostFiles cv.toNat v.g.tenant (arg a 0) = false →
    (s.fd v.g.tenant (arg a 0) = none → ∃ t, exec (.callClose cv hv) s = .next t ∧ SameMemory s t ∧ CallAnswered t v (errno .badf) ∧ t.peat = s.peat)
    ∧ ∀ e, s.fd v.g.tenant (arg a 0) = some e → ∃ t, exec (.callClose cv hv) s = .next t ∧ SameMemory s t ∧ t.peat.fds.find (arg a 0) = none
        ∧ CallAnswered t v (match e with | .sock _ _ _ _ _ true _ => errno .connreset | _ => 0))
  ∧ (∀ (cv : BitVec 10) (hv : BitVec 16) (s : State) v a, OneCall s cv.toNat hv.toNat 11 v a → arg a 0 = 4 ∨ arg a 0 = 6 → arg a 1 ≤ 1 → arg a 2 = 0 →
    ∃ t fd port, exec (.callSocket cv hv) s = .next t ∧ SameMemory s t ∧ s.peat.fds.find fd = none ∧ port < 8 ∧ CallAnswered t v (BitVec.ofNat 64 fd)
      ∧ t.peat.fds.find fd = some (.sock v.g.tenant.toNat (arg a 0) (arg a 1) port cv.toNat false [])
      ∧ ∃ i < 4096, (t.ports.get Port.reset port).steer.get 0 i = cv.toNat)
  ∧ ∀ (cv : BitVec 10) (hv : BitVec 16) (s : State) v, s.served cv.toNat hv.toNat = some v → v.w.call = 0 ∨ 15 < v.w.call →
    ∃ t, exec (.callUnassigned cv hv) s = .next t ∧ SameMemory s t ∧ t.peat = s.peat ∧ CallAnswered t v (errno .nosys)

/-- R50, R96, R322, R324, R326, R327, R332 to R334: file calls become commands, sends become descriptors, launches become grids, and
their lanes wait; data and completion words that are there are given at once; a fault handler is launched and answers; a yield
spends the budget.
The model's choices: which error a case gives (log 25), files and sockets (log 26, 27), launches (log 44), and what Peat chooses
(log 11). -/
def Obligations.CallsThatWaitAndFaultHandlers : Prop :=
  (∀ (cv : BitVec 10) (hv : BitVec 16) (s : State) v a id f flags,
    let c := cv.toNat
    let off := arg64 a 4
    let n := min (arg a 3) (f.data.length - off)
    let wait := fun (l : Nat) (on : WaitOn) => (⟨v.g.grid.toNat, v.g.gang.toNat, v.g.index.toNat, l, on, none⟩ : PeatWait)
    (∀ ts, OneCall s c hv.toNat 7 v a → s.waitsOf v = [] → (s.nvme.map (·.1)).Nodup → s.fdFile v.g.tenant (arg a 0) = some (id, f, flags) → flags % 2 = 1 →
      s.fileOut f = false → 0 < n → n ≤ 2 ^ 20 → s.spanMap (c / 16) v.g.asn (arg64 a 1) n Want.store = some ts → s.ioReady f.ctl c = true →
      s.ioRoom f.ctl c ≠ 0 → ∃ t, exec (.callRead cv hv) s = .next t ∧ t.groups = s.groups
        ∧ SameMemory ((s.takeCompletions c).markLeaves c ((ts.zipIdx.map fun e => (pageOf ((arg64 a 1 + e.2) % 2 ^ 64), e.1.2)).dedup)) t
        ∧ (∃ q ∈ (t.nvme.get Nvme.reset f.ctl).cmds, q.cid = s.fresh ∧ q.core = c ∧ q.op = .read ∧ q.job = some ⟨id, off, n, v.g.asn, arg64 a 1 % 2 ^ 64⟩)
        ∧ Instr.nvmeRead (BitVec.ofNat 3 f.ctl) s.fresh ∈ t.due ∧ ∀ l ∈ v.callers, wait l (.cmds f.ctl [s.fresh] false n none) ∈ t.peat.waits)
    ∧ (OneCall s c hv.toNat 8 v a → s.waitsOf v = [] → (s.nvme.map (·.1)).Nodup → s.fdFile v.g.tenant (arg a 0) = some (id, f, flags) → flags / 2 % 2 = 1 →
      flags / 16 % 2 = 0 → off ≤ f.data.length → s.fileOut f = false → 0 < arg a 3 → arg a 3 ≤ 2 ^ 20 → off + arg a 3 < 2 ^ 63 →
      s.fileRoom id f (off + arg a 3) = true →
      (s.spanMap (c / 16) v.g.asn (arg64 a 1) (arg a 3) Want.load).isSome = true → s.ioReady f.ctl c = true → 2 ≤ s.ioRoom f.ctl c →
      ∃ t, exec (.callWrite cv hv) s = .next t ∧ SameMemory s t ∧ t.groups = s.groups
        ∧ (∃ q ∈ (t.nvme.get Nvme.reset f.ctl).cmds, q.cid = s.fresh ∧ q.core = c ∧ q.op = .write ∧ q.fua = decide (flags / 32 % 2 = 1)
            ∧ q.job = some ⟨id, off, arg a 3, v.g.asn, arg64 a 1 % 2 ^ 64⟩)
        ∧ Instr.nvmeWrite (BitVec.ofNat 3 f.ctl) s.fresh ∈ t.due ∧ ∀ l ∈ v.callers, wait l (.cmds f.ctl [s.fresh] false (arg a 3) (if flags / 32 % 2 = 1 then none else some id)) ∈ t.peat.waits)
    ∧ (OneCall s c hv.toNat 9 v a → s.waitsOf v = [] → (s.nvme.map (·.1)).Nodup → s.fdFile v.g.tenant (arg a 0) = some (id, f, flags) →
      s.fileOut f = false → f.writeErr = false → s.ioReady f.ctl c = true → s.ioRoom f.ctl c ≠ 0 →
      ∃ t, exec (.callFsync cv hv) s = .next t ∧ SameMemory s t ∧ t.groups = s.groups
        ∧ (∃ q ∈ (t.nvme.get Nvme.reset f.ctl).cmds, q.cid = s.fresh ∧ q.core = c ∧ q.op = .flush)
        ∧ Instr.nvmeFlush (BitVec.ofNat 3 f.ctl) s.fresh ∈ t.due ∧ ∀ l ∈ v.callers, wait l (.cmds f.ctl [s.fresh] false 0 none) ∈ t.peat.waits)
    ∧ (∀ ts family kind port owner rx, OneCall s c hv.toNat 12 v a → s.waitsOf v = [] →
      s.fd v.g.tenant (arg a 0) = some (.sock v.g.tenant.toNat family kind port owner false rx) → kind = 0 ∨ arg a 3 ≤ 8930 → arg a 3 ≤ 262144 →
      (s.ports.get Port.reset port).up = true → s.spanMap (c / 16) v.g.asn (arg64 a 1) (arg a 3) Want.load = some ts →
      ∃ t d, exec (.callSend cv hv) s = .next t ∧ SameMemory s t ∧ t.groups = s.groups ∧ Instr.frameTransmit (BitVec.ofNat 3 port) d ∈ t.due
        ∧ d.core = BitVec.ofNat 10 owner ∧ d.sock = some (arg a 0, s.fresh) ∧ d.parts.flatMap (fun r => (List.range r.2).map fun i => r.1 + i) = ts.map (·.1)
        ∧ ∀ l ∈ v.callers, wait l (.frame s.fresh (arg a 3)) ∈ t.peat.waits)
    ∧ (∀ u family kind port owner bytes, OneCall s c hv.toNat 13 v a → s.waitsOf v = [] →
      s.fd v.g.tenant (arg a 0) = some (.sock v.g.tenant.toNat family kind port owner false bytes) → bytes ≠ [] →
      (s.takeCompletions c).spanWrite c v.g.asn (arg64 a 1) (bytes.take (arg a 3)) = .got () u →
      ∃ t, exec (.callRecv cv hv) s = .next t ∧ SameMemory u t ∧ CallAnswered t v (BitVec.ofNat 64 (min (arg a 3) bytes.length))
        ∧ t.peat.fds.find (arg a 0) = some (.sock v.g.tenant.toNat family kind port owner false (if kind = 0 then bytes.drop (min (arg a 3) bytes.length) else [])))
    ∧ (∀ r u id' y, OneCall s c hv.toNat 14 v a → s.waitsOf v = [] → v.g.depth.toNat < 10 → (s.dist (c / 16)).up = true →
      (s.takeCompletions c).spanRead (c / 16) v.g.asn (arg64 a 0) 192 = .got r u →
      u.peatLaunch c r { tenant := v.g.tenant, asn := v.g.asn, depth := v.g.depth.toNat + 1, dies := [c / 16], queue := none
                         parent := some (v.g.grid.toNat, v.g.gang.toNat, v.h.gid), batch := none, record := 0 } = .accept id' y →
      ∃ t gr, exec (.callLaunchw cv hv) s = .next t ∧ SameMemory y t ∧ t.grid? id' = some gr ∧ gr.tenant = v.g.tenant ∧ gr.depth = v.g.depth.toNat + 1
        ∧ gr.parent = some (v.g.grid.toNat, v.g.gang.toNat, v.h.gid) ∧ ∀ l ∈ v.callers, wait l (.grid id') ∈ t.peat.waits)
    ∧ (OneCall s c hv.toNat 15 v a → s.waitsOf v = [] →
      (∀ g, s.grid? (arg a 0) = some g → g.tenant = v.g.tenant → ∃ t, exec (.callGridw cv hv) s = .next t ∧ SameMemory s t ∧ t.groups = s.groups
        ∧ ∀ l ∈ v.callers, wait l (.grid (arg a 0)) ∈ t.peat.waits)
      ∧ ∀ r, s.grid? (arg a 0) = none → s.peat.completions.find (arg a 0) = some r → ∃ t, exec (.callGridw cv hv) s = .next t ∧ SameMemory s t
        ∧ CallAnswered t v r))
  ∧ (∀ (cv : BitVec 10) (hv : BitVec 16) (s : State) v h q, s.served cv.toNat hv.toNat = some v → v.w.kind = 2 → v.w.call = 1 →
    let x := s.trapValue cv.toNat hv.toNat v
    s.peat.handlerGrids.find? (fun k => k.1 == v.g.grid.toNat && k.2.2.1 == x % 1024) = some h → h.2.1 < 64 → x / 1024 % 4 = 0 →
    (s.die h.2.1).quag.find (x % 1024) = some q → q.members ≠ [] →
    ∃ t, exec (.faultAnswer cv hv) s = .next t ∧ SameMemory s t ∧ CallAnswered t v 0 ∧ t.peat = s.peat
      ∧ (t.die h.2.1).quag.find (x % 1024) = some (if q.st = .parked ∧ q.clock = h.2.2.2 then { q with st := .rewalk } else q))
  ∧ (∀ (cv : BitVec 10) (hv : BitVec 16) (s : State) v, s.served cv.toNat hv.toNat = some v → v.w.kind = 2 → v.w.call = 1 →
    (∀ k ∈ s.peat.handlerGrids, ¬(k.1 = v.g.grid.toNat ∧ k.2.2.1 = s.trapValue cv.toNat hv.toNat v % 1024)) →
    ∃ t, exec (.faultAnswer cv hv) s = .next t ∧ SameMemory s t ∧ CallAnswered t v (errno .perm))
  ∧ (∀ (cv : BitVec 10) (hv : BitVec 16) (s : State) v k, s.served cv.toNat hv.toNat = some v → v.w.kind = 2 → v.w.call = 2 →
    (s.cluster cv.toNat).slotOf v.g.tenant = some k → ∃ t, exec (.yieldSlice cv hv) s = .next t ∧ SameMemory s t ∧ CallAnswered t v 0
      ∧ ((t.cluster cv.toNat).rings.get RingSlot.reset k).budget = 0)
  ∧ ∀ (cv : BitVec 10) (hv : BitVec 16) (s : State) h off q kinds desc id u,
    let d := cv.toNat / 16
    (s.cluster cv.toNat).handles.find hv.toNat = some h → (s.cluster cv.toNat).recOf hv.toNat = some (off, true) →
    (s.die d).quag.find h.entry = some q → h.kind = 3 → q.st = .parked → (s.dist d).up = true → q.kind = 0 ∨ q.kind = 1 ∨ q.kind = 3 →
    s.peat.handlers.find q.asn.toNat = some (kinds, desc) → kinds / 2 ^ q.kind % 2 = 1 →
    s.peatLaunch cv.toNat (leBytes 2 1 ++ leBytes 2 0 ++ leBytes 4 0 ++ leBytes 8 desc ++ leBytes 4 1 ++ leBytes 4 1 ++ leBytes 4 1 ++ leBytes 4 0
        ++ leBytes 8 0 ++ leBytes 8 0 ++ faultRecord q.va q.gid q.asn.toNat q.kind q.access h.entry q.level q.clock ++ leBytes 8 h.entry
        ++ List.replicate 104 0)
      { tenant := q.tenant, asn := q.asn, depth := 0, dies := [d], queue := none, parent := none, batch := none, record := 0 } = .accept id u →
    ∃ t, exec (.faultHandlerLaunch cv hv) s = .next t ∧ SameMemory u t ∧ t.grids = u.grids ∧ t.groups = s.groups
      ∧ t.peat.handlerGrids = s.peat.handlerGrids ++ [(id, d, h.entry, q.clock)] ∧ (t.cluster cv.toNat).handles.find hv.toNat = none

/-! ### Storage, network, host links and boundaries (13, 14, 17, 18, 20) -/

/-- R332: the command has been executed and awaits its completion. -/
def Sys2Proof.Machine.CommandDone (t : State) (k : BitVec 3) (cid : Nat) (st : NvmeStatus) : Prop :=
  (∀ q ∈ (t.ctl k.toNat).cmds, q.cid = cid → q.status = some st) ∧ Instr.nvmeCompletion k cid .ok ∈ t.due

/-- R332, R333, R417 to R419: commands move, write, flush, zero and deallocate blocks; they complete, time out, and are ended by a
reset; admin commands set up queues, features and namespaces.
The model's choices: the data of log 10, the die of a record (log 19), the moment a controller is ready (log 20), and that a command of a
file call acts on the bytes of that file (log 26). -/
def Obligations.StorageCommandsTakeEffect : Prop :=
  (∀ (k : BitVec 3) cid (s : State) q, Instr.nvmeRead k cid ∈ s.due → s.cmdOf k.toNat cid .read = some q → (s.ctl k.toNat).inSpace q = true →
    let bytes := match q.job with
      | some j => ((((s.peat.files.find j.file).map fun f => f.data).getD []).drop j.off).take j.len
      | none => (List.range q.n).flatMap fun i => (s.ctl k.toNat).block (blockKey q.nsid (q.lba + i))
    let ws := (q.places.zip bytes).filter fun w => backed w.1
    let far := fun (w : Nat × Byte) => (s.die (paDie w.1)).fence.getLsbD 4
    (∀ w ∈ ws, s.lineBusy (w.1 / 128) = false) →
    ∃ t, exec (.nvmeRead k cid) s = .next t ∧ SameMemory (s.homeWrite 0 (ws.filter fun w => !far w)) t ∧ t.groups = s.groups
      ∧ CommandDone t k cid (if ∃ w ∈ ws, far w = true then .other else .ok))
  ∧ (∀ (k : BitVec 3) cid (s : State) q, Instr.nvmeWrite k cid ∈ s.due → s.cmdOf k.toNat cid .write = some q → (s.ctl k.toNat).inSpace q = true →
    ((∃ p ∈ q.places, backed p = true ∧ (s.die (paDie p)).fence.getLsbD 4 = true) → ∃ t, exec (.nvmeWrite k cid) s = .next t ∧ SameMemory s t
      ∧ t.groups = s.groups ∧ t.peat = s.peat ∧ CommandDone t k cid .other)
    ∧ ((∀ p ∈ q.places, backed p = true ∧ (s.die (paDie p)).fence.getLsbD 4 = false ∧ s.lineBusy (p / 128) = false ∧ s.mCache (p / 128) = none) →
    ((∀ p ∈ q.places, s.poisoned p = false) → ∃ t, exec (.nvmeWrite k cid) s = .next t ∧ SameMemory s t ∧ t.groups = s.groups ∧ CommandDone t k cid .ok
      ∧ (∀ pa, q.job = none → q.n = 1 → q.prps = [pa] →
          (t.ctl k.toNat).block (blockKey q.nsid q.lba) = (List.range 4096).map fun i => s.readByte (pa + i))
      ∧ ∀ j f, q.job = some j → s.peat.files.find j.file = some f →
          (t.peat.files.find j.file).map (·.data) = some (writeAt f.data j.off (q.places.map s.readByte)))
    ∧ ((∃ p ∈ q.places, s.poisoned p = true) → FormsNew s q.die → ∃ t, exec (.nvmeWrite k cid) s = .next t ∧ t.groups = s.groups
      ∧ CommandDone t k cid .other ∧ (t.die q.die).seq = (s.die q.die).seq + 1)))
  ∧ (∀ (k : BitVec 3) cid (s : State) q, Instr.nvmeFlush k cid ∈ s.due → s.cmdOf k.toNat cid .flush = some q → (s.ctl k.toNat).inSpace q = true →
    ∃ t, exec (.nvmeFlush k cid) s = .next t ∧ SameMemory s t ∧ t.groups = s.groups ∧ CommandDone t k cid .ok
      ∧ (∀ key b, ((s.ctl k.toNat).cache.map (·.1)).Nodup → (s.ctl k.toNat).cache.find key = some b → key / 2 ^ 40 = q.nsid →
          (t.ctl k.toNat).media.find key = some b ∧ (t.ctl k.toNat).cache.find key = none ∧ (t.ctl k.toNat).block key = (s.ctl k.toNat).block key)
      ∧ ∀ id f, s.peat.files.find id = some f → f.ctl = k.toNat → t.peat.files.find id = some { f with durable := f.data, cut := none })
  ∧ (∀ (k : BitVec 3) cid (s : State) q, Instr.nvmeWriteZeroes k cid ∈ s.due → s.cmdOf k.toNat cid .writeZeroes = some q →
    (s.ctl k.toNat).inSpace q = true → ∃ t, exec (.nvmeWriteZeroes k cid) s = .next t ∧ SameMemory s t ∧ t.groups = s.groups
      ∧ CommandDone t k cid .ok ∧ (q.job = none → ∀ i < q.n, (t.ctl k.toNat).block (blockKey q.nsid (q.lba + i)) = List.replicate 4096 0)
      ∧ ∀ j f, q.job = some j → s.peat.files.find j.file = some f →
          (t.peat.files.find j.file).map (·.data) = some (writeAt f.data j.off (List.replicate j.len 0)))
  ∧ (∀ (k : BitVec 3) cid (s : State) q, Instr.nvmeDatasetManagement k cid ∈ s.due → s.cmdOf k.toNat cid .deallocate = some q →
    (s.ctl k.toNat).inSpace q = true → ∃ t, exec (.nvmeDatasetManagement k cid) s = .next t ∧ SameMemory s t ∧ t.groups = s.groups
      ∧ CommandDone t k cid .ok ∧ (q.job = none → ∀ i < q.n, (t.ctl k.toNat).media.find (blockKey q.nsid (q.lba + i)) = none
        ∧ (t.ctl k.toNat).cache.find (blockKey q.nsid (q.lba + i)) = none)
      ∧ ∀ j f, q.job = some j → s.peat.files.find j.file = some f →
          (t.peat.files.find j.file).map (fun x => (x.data, x.durable)) = some (f.data, f.cut.getD f.durable))
  ∧ (∀ (k : BitVec 3) cid (s : State) q op, op ∈ [NvmeOp.read, .write, .flush, .writeZeroes, .deallocate] → ioEvent k cid op ∈ s.due →
    s.cmdOf k.toNat cid op = some q → (s.ctl k.toNat).inSpace q = false →
    ∃ t, exec (ioEvent k cid op) s = .next t ∧ SameMemory s t ∧ t.groups = s.groups ∧ CommandDone t k cid .other)
  ∧ (∀ (k : BitVec 3) cid (s : State) q, Instr.nvmeCompletion k cid .ok ∈ s.due →
    (s.ctl k.toNat).cmds.find? (fun q => q.cid == cid && q.status.isSome) = some q → q.status = some .ok →
    (∃ t, exec (.nvmeCompletion k cid .ok) s = .next t ∧ SameMemory s t ∧ t.groups = s.groups
      ∧ (t.ctl k.toNat).completions = (s.ctl k.toNat).completions ++ [(q.core, cid, .ok)] ∧ ∀ p ∈ (t.ctl k.toNat).cmds, p.cid ≠ cid)
    ∧ (FormsNew s q.die → ∃ t, exec (.nvmeCompletion k cid .media) s = .next t ∧ t.groups = s.groups
      ∧ (t.ctl k.toNat).completions = (s.ctl k.toNat).completions ++ [(q.core, cid, .media)] ∧ (t.die q.die).seq = (s.die q.die).seq + 1))
  ∧ (∀ (k : BitVec 3) (s : State) q, (s.ctl k.toNat).out = false → (s.ctl k.toNat).cfs = false → (s.ctl k.toNat).cmds = [q] → FormsNew s q.die →
    (4 ≤ s.boot ∨ k = 0 ∧ (s.ctl 0).enabled = true → ∃ t, exec (.nvmeCommandTimeout k true) s = .next t ∧ t.groups = s.groups
      ∧ (t.ctl k.toNat).cfs = true ∧ (t.die q.die).seq = (s.die q.die).seq + 1 ∧ Instr.nvmeControllerReset k ∈ t.due)
    ∧ (Instr.nvmeCommandTimeout k false ∈ s.due →
      (s.clock q.die < q.clock + 2 ^ 34 → exec (.nvmeCommandTimeout k false) s = .next s)
      ∧ (q.clock + 2 ^ 34 ≤ s.clock q.die → ∃ t, exec (.nvmeCommandTimeout k false) s = .next t ∧ t.groups = s.groups
          ∧ (t.die q.die).seq = (s.die q.die).seq + 1 ∧ Instr.nvmeControllerReset k ∈ t.due)))
  ∧ (∀ (k : BitVec 3) (s : State), s.boot < 4 → exec (.nvmeControllerReset k) s = .next s)
  ∧ (∀ (k : BitVec 3) (s : State), (s.ctl k.toNat).out = false → 4 ≤ s.boot → ∃ t, exec (.nvmeControllerReset k) s = .next t ∧ SameMemory s t
    ∧ t.groups = s.groups ∧ (t.ctl k.toNat).cmds = [] ∧ (t.ctl k.toNat).ready = false ∧ (t.ctl k.toNat).enabled = false ∧ (t.ctl k.toNat).queues = []
    ∧ (t.ctl k.toNat).cache = [] ∧ (t.ctl k.toNat).features = [] ∧ (t.ctl k.toNat).admin = []
    ∧ ((s.nvme.map (·.1)).Nodup → (t.ctl k.toNat).completions = (s.ctl k.toNat).cmds.map (fun q => (q.core, q.cid, .other)))
    ∧ Instr.nvmeReadyTimeout k ∈ t.due)
  ∧ (∀ (k : BitVec 3) (s : State), Instr.nvmeReadyTimeout k ∈ s.due → (s.ctl k.toNat).ready = false →
    (s.clock 0 < (s.ctl k.toNat).resetClock + 2 ^ 34 → exec (.nvmeReadyTimeout k) s = .next s)
    ∧ ((s.ctl k.toNat).resetClock + 2 ^ 34 ≤ s.clock 0 → FormsNew s 0 → ∃ t, exec (.nvmeReadyTimeout k) s = .next t ∧ t.groups = s.groups
        ∧ (t.ctl k.toNat).out = true ∧ (t.die 0).seq = (s.die 0).seq + 1))
  ∧ (∀ (k : BitVec 3) cmd (s : State), (s.ctl k.toNat).out = true ∨ (s.ctl k.toNat).cfs = true ∨ s.boot < 4 →
    exec (.nvmeAdminCommand k cmd) s = .next s)
  ∧ ∀ (k : BitVec 3) (c : BitVec 10) (f : BitVec 8) (v ns : Word) (s : State), (s.ctl k.toNat).out = false → (s.ctl k.toNat).cfs = false → 4 ≤ s.boot →
    let x := s.ctl k.toNat
    let runs := fun cmd (P : Nvme → Prop) => ∃ t, exec (.nvmeAdminCommand k cmd) s = .next t ∧ SameMemory s t ∧ t.groups = s.groups
      ∧ (t.ctl k.toNat).enabled = true ∧ (t.ctl k.toNat).ready = true ∧ P (t.ctl k.toNat)
    let done := fun (y : Nvme) (dw : Word) (st : NvmeStatus) => y.admin = x.admin ++ [(dw, st)]
    runs (.createCq c) (fun y => c.toNat ∈ y.cqs ∧ done y 0 .ok)
    ∧ (c.toNat ∈ x.cqs → runs (.createSq c) fun y => c.toNat ∈ y.queues ∧ done y 0 .ok)
    ∧ (c.toNat ∉ x.cqs → runs (.createSq c) fun y => y.queues = x.queues ∧ done y 0 .other)
    ∧ (runs (.deleteSq c) fun y => c.toNat ∉ y.queues ∧ done y 0 .ok ∧ ∀ q ∈ y.cmds, q.core = c.toNat → q.status ≠ none)
    ∧ (c.toNat ∉ x.queues → runs (.deleteCq c) fun y => c.toNat ∉ y.cqs ∧ done y 0 .ok)
    ∧ (c.toNat ∈ x.queues → runs (.deleteCq c) fun y => y.cqs = x.cqs ∧ done y 0 .other)
    ∧ (f ≠ 7 → runs (.setFeatures f v) fun y => y.features.find f.toNat = some v.toNat ∧ done y 0 .ok)
    ∧ (runs (.setFeatures 7 v) fun y => y.features = x.features ∧ done y 0x03FF03FF .ok)
    ∧ (∀ w : Word, x.features.find f.toNat = some w.toNat → runs (.getFeatures f) fun y => y.features = x.features ∧ done y w .ok)
    ∧ (x.features.find 6 = none → runs (.getFeatures 6) fun y => y.features = x.features ∧ done y 1 .ok)
    ∧ (x.features.find 7 = none → runs (.getFeatures 7) fun y => y.features = x.features ∧ done y 0x03FF03FF .ok)
    ∧ (x.spaces ≠ [] → x.async = 0 → (runs (.nsDelete 0xFFFFFFFF) fun y => y.spaces = [] ∧ done y 0 .ok)
        ∧ runs (.formatNvm 0xFFFFFFFF) fun y => y.spaces = x.spaces ∧ done y 0 .ok)
    ∧ (runs .asyncEvent fun y => y.async = x.async + 1 ∧ y.admin = x.admin)
    ∧ (∀ b on, x.spaces.find ns.toNat = some (b, on) → ns ≠ 0xFFFFFFFF → x.async = 0 →
        runs (.nsAttach ns) (fun y => y.spaces.find ns.toNat = some (b, true) ∧ done y 0 .ok)
        ∧ runs (.nsDetach ns) (fun y => y.spaces.find ns.toNat = some (b, false) ∧ done y 0 .ok)
        ∧ (runs (.nsDelete ns) fun y => y.spaces.find ns.toNat = none ∧ done y 0 .ok)
        ∧ runs (.formatNvm ns) fun y => y.spaces = x.spaces ∧ done y 0 .ok)
    ∧ ∀ n, x.spaces = [] → n ≤ 1875000000 → runs (.nsCreate n) fun y => y.spaces = [(1, n, false)] ∧ done y 1 .ok

/-- R334, R352 to R355, R388, R420 to R422: ports send and receive frames and lose their links; a Lode link answers reads and writes,
counts its responses and retries, trains and goes down.
The model's choices: the hash of a frame (log 8), the die of a record (log 19), and the readings of log 28 and 29. -/
def Obligations.PortsAndLodeLinks : Prop :=
  (∀ (p : BitVec 3) (d : TxDesc) (s : State), (s.port p.toNat).up = true → d.sock = none → d.segment = 0 → d.ipSum = false → d.l4Sum = false →
    let pas := d.parts.flatMap fun r => (List.range r.2).map fun i => r.1 + i
    let f := d.head ++ pas.map s.readByte
    let g := f ++ List.replicate (60 - f.length) 0
    (∀ a ∈ pas, backed a = true ∧ (s.die (paDie a)).fence.getLsbD 4 = false ∧ s.poisoned a = false ∧ s.lineBusy (a / 128) = false
      ∧ s.mCache (a / 128) = none) → f.length ≤ 9014 →
    ∃ t, exec (.frameTransmit p d) s = .next t ∧ SameMemory s t ∧ t.groups = s.groups
      ∧ (t.port p.toNat).tx = (s.port p.toNat).tx ++ [g ++ leBytes 4 (crc32 g).toNat])
  ∧ (∀ (p : BitVec 3) (d : TxDesc) (s : State), (s.port p.toNat).up = true → d.sock = none →
    let pas := d.parts.flatMap fun r => (List.range r.2).map fun i => r.1 + i
    (∀ a ∈ pas, s.lineBusy (a / 128) = false ∧ s.mCache (a / 128) = none) →
    (∀ a ∈ pas, backed a = true → (s.die (paDie a)).fence.getLsbD 4 = false) →
    ((d.parts.map (·.2)).sum ≤ 262144 → (∀ a ∈ pas, backed a = true → s.poisoned a = false) →
      ∃ t fs, exec (.frameTransmit p d) s = .next t ∧ SameMemory s t ∧ t.groups = s.groups ∧ (t.port p.toNat).tx = (s.port p.toNat).tx ++ fs
        ∧ ∀ f ∈ fs, 64 ≤ f.length ∧ f.length ≤ 9018 ∧ f.drop (f.length - 4) = leBytes 4 (crc32 (f.take (f.length - 4))).toNat)
    ∧ (262144 < (d.parts.map (·.2)).sum → ∃ t, exec (.frameTransmit p d) s = .next t ∧ SameMemory s t ∧ t.ports = s.ports)
    ∧ ((d.parts.map (·.2)).sum ≤ 262144 → (∃ a ∈ pas, backed a = true ∧ s.poisoned a = true) → FormsNew s 0 → ∃ t, exec (.frameTransmit p d) s = .next t
        ∧ t.groups = s.groups ∧ t.ports = s.ports ∧ (t.die 0).seq = (s.die 0).seq + 1))
  ∧ (∀ (p : BitVec 3) (s : State) frame, (s.port p.toNat).up = true → frame.length < 64 ∨ 9018 < frame.length →
    ∃ t, exec (.frameReceive p frame) s = .next t ∧ SameMemory s t ∧ t.groups = s.groups
      ∧ t.port p.toNat = { s.port p.toNat with fcsErrors := (s.port p.toNat).fcsErrors + 1 })
  ∧ (∀ (p : BitVec 3) body (s : State), (s.port p.toNat).up = true → 60 ≤ body.length → body.length ≤ 9014 →
    let c := (s.port p.toNat).steer.get 0 (steerIndex body)
    (s.cluster c).out = false → (s.die (c / 16)).fence.getLsbD 4 = false →
    (∃ t, exec (.frameReceive p (body ++ leBytes 4 (crc32 body).toNat)) s = .next t ∧ SameMemory s t ∧ t.groups = s.groups
      ∧ (t.port p.toNat).rx.get [] c = (s.port p.toNat).rx.get [] c ++ [body])
    ∧ ∀ w : Word, w ≠ crc32 body → ∃ t, exec (.frameReceive p (body ++ leBytes 4 w.toNat)) s = .next t ∧ SameMemory s t ∧ t.groups = s.groups
      ∧ t.port p.toNat = { s.port p.toNat with fcsErrors := (s.port p.toNat).fcsErrors + 1 })
  ∧ (∀ (p : BitVec 3) (s : State), (∃ t, exec (.portLinkUp p) s = .next t ∧ SameMemory s t ∧ t.groups = s.groups
      ∧ t.port p.toNat = { s.port p.toNat with up := true })
    ∧ ((s.port p.toNat).up = true → FormsNew s 0 → ∃ t, exec (.portLinkDown p) s = .next t ∧ t.groups = s.groups ∧ (t.port p.toNat).up = false
      ∧ (t.die 0).seq = (s.die 0).seq + 1))
  ∧ (∀ (k : BitVec 4) (tag : BitVec 13) (va : Dword) (n : Byte) (s : State) e pa, (s.link k.toNat).up = true → 1 ≤ n.toNat → va.toNat % 128 + n.toNat ≤ 128 →
    (∀ st far, s.lodeXlate k.toNat va.toNat Want.load = .status st far → st ≠ 0 → ∃ t, exec (.lodeReadRequest k tag va n) s = .next t ∧ t.groups = s.groups
      ∧ (t.link k.toNat).responses = (s.link k.toNat).responses ++ [(tag.toNat, st, [])])
    ∧ (s.lodeXlate k.toNat va.toNat Want.load = .ok e pa → s.mCache (pa / 128) = none →
    ((∀ i < n.toNat, s.poisoned (pa + i) = false) → ∃ t, exec (.lodeReadRequest k tag va n) s = .next t ∧ SameMemory s t ∧ t.groups = s.groups
      ∧ (t.link k.toNat).responses = (s.link k.toNat).responses ++ [(tag.toNat, 0, s.readBytes pa n.toNat)])
    ∧ ((∃ i < n.toNat, s.poisoned (pa + i) = true) → ∃ t, exec (.lodeReadRequest k tag va n) s = .next t ∧ t.groups = s.groups
      ∧ (t.link k.toNat).responses = (s.link k.toNat).responses ++ [(tag.toNat, 3, [])])))
  ∧ (∀ (k : BitVec 4) (tag : BitVec 13) (va : Dword) mask data (s : State) e pa, (s.link k.toNat).up = true → mask ≠ 0 → data.length = 128 →
    let at' := va.toNat / 128 * 128 + firstByte mask
    (∀ st far, s.lodeXlate k.toNat at' Want.store = .status st far → st ≠ 0 → ∃ t, exec (.lodeWriteRequest k tag va mask data) s = .next t ∧ t.groups = s.groups
      ∧ (t.link k.toNat).responses = (s.link k.toNat).responses ++ [(tag.toNat, st, [])])
    ∧ (s.lodeXlate k.toNat at' Want.store = .ok e pa → s.lineBusy (pa / 128) = true → exec (.lodeWriteRequest k tag va mask data) s = .next s)
    ∧ (s.lodeXlate k.toNat at' Want.store = .ok e pa → s.lineBusy (pa / 128) = false → s.mCache (pa / 128) = none →
    let u := s.markWritten (16 * linkDie k.toNat) e at'
    ∃ t, exec (.lodeWriteRequest k tag va mask data) s = .next t ∧ t.groups = s.groups
      ∧ (t.link k.toNat).responses = (s.link k.toNat).responses ++ [(tag.toNat, 0, [])]
      ∧ (∀ a, (∀ i < 128, mask.getLsbD i = true → a ≠ pa / 128 * 128 + i) → t.readByte a = u.readByte a)
      ∧ ∀ i < 128, mask.getLsbD i = true → t.readByte (pa / 128 * 128 + i)
          = data.getD ((List.range i).countP fun j => mask.getLsbD j) 0))
  ∧ (∀ (k : BitVec 4) (tag : BitVec 13) (s : State), (tag.toNat ∈ (s.link k.toNat).outstanding → s.hostWait = [] →
      (∀ r, (s.link k.toNat).records.find tag.toNat = some r → (s.die r.1).heldRecs = []) → ∃ t, exec (.lodeResponseReceived k tag) s = .next t
      ∧ SameMemory s t ∧ t.groups = s.groups
      ∧ t.link k.toNat = { s.link k.toNat with outstanding := (s.link k.toNat).outstanding.erase tag.toNat, records := (s.link k.toNat).records.erase tag.toNat }
      ∧ ∀ r, (s.link k.toNat).records.find tag.toNat = some r → (t.die r.1).undelivered.get 0 r.2 = (s.die r.1).undelivered.get 0 r.2 - 2)
    ∧ (tag.toNat ∉ (s.link k.toNat).outstanding → FormsNew s (linkDie k.toNat) → ∃ t, exec (.lodeResponseReceived k tag) s = .next t ∧ t.groups = s.groups
      ∧ (t.link k.toNat).outstanding = (s.link k.toNat).outstanding ∧ (t.die (linkDie k.toNat)).seq = (s.die (linkDie k.toNat)).seq + 1)
    ∧ ∃ t, exec (.lodeFlitRetry k) s = .next t ∧ SameMemory s t ∧ t.groups = s.groups
      ∧ t.link k.toNat = { s.link k.toNat with retries := (s.link k.toNat).retries + 1 })
  ∧ (∀ (k : BitVec 4) (cause : Byte) (s : State), (s.link k.toNat).up = true → cause = 2 ∨ cause = 4 → FormsNew s (linkDie k.toNat) → ∃ t, exec (.lodeLinkDown k cause) s = .next t
    ∧ t.groups = s.groups ∧ (t.link k.toNat).up = false ∧ (t.link k.toNat).outstanding = []
    ∧ (t.die (linkDie k.toNat)).lcfg.extractLsb' 60 2 = 0 ∧ (t.die (linkDie k.toNat)).seq = (s.die (linkDie k.toNat)).seq + 1)
  ∧ ∀ (k : BitVec 4) (gen : BitVec 2) (s : State), k.toNat < 14 → (s.link k.toNat).outstanding = [] → (s.link k.toNat).fails < 3 →
    (s.die (linkDie k.toNat)).fence.getLsbD 4 = false →
    let gmax := (s.die (linkDie k.toNat)).lcfg.extractLsb' 58 2
    (gen ≠ 0 → ∃ t, exec (.linkTraining k gen true) s = .next t ∧ t.groups = s.groups
      ∧ ((∀ d < 64, (s.die d).fmode.getLsbD 1 = false) → SameMemory s t) ∧ (t.link k.toNat).up = true
      ∧ (t.link k.toNat).fails = 0 ∧ ((t.die (linkDie k.toNat)).lcfg.extractLsb' 60 2).toNat = min (min gmax.toNat gen.toNat) 2)
    ∧ (FormsNew s (linkDie k.toNat) → ∃ t, exec (.linkTraining k gen false) s = .next t ∧ t.groups = s.groups ∧ (t.link k.toNat).up = false
      ∧ (t.link k.toNat).fails = (s.link k.toNat).fails + 1 ∧ (t.die (linkDie k.toNat)).lcfg.extractLsb' 60 2 = 0
      ∧ (t.die (linkDie k.toNat)).seq = (s.die (linkDie k.toNat)).seq + if (s.link k.toNat).fails = 2 then 1 else 0)

/-- R374, R391, R392, R408, R416: permits are audited, drained and restored, or their link goes; a lost neighbour is fenced; a
boundary whose sides differ in partition is shut; flits at a closed boundary and damaged message flits are recorded.
The model's choices: the number of permits and the causes that the spec does not give (log 18), and the readings of log 30. -/
def Obligations.PermitsAndBoundaries : Prop :=
  (∀ (l : PermitLink) (s : State), let x := s.die (permitDie l)
    let due' := (x.audited.get (0, false) (permitKey l)).1 + 4096 * max 1 (x.auditctl.extractLsb' 32 16).toNat
    ((x.auditctl.getLsbD 63 = false ∨ s.clock (permitDie l) < due') → exec (.permitAudit l) s = .next s)
    ∧ (x.auditctl.getLsbD 63 = true → due' ≤ s.clock (permitDie l) →
      (∃ t, exec (.permitAudit l) s = .next t ∧ t.groups = s.groups ∧ (t.die (permitDie l)).audited.find (permitKey l) = some (s.clock (permitDie l), true))
      ∧ ∀ d dir e, l = .boundary d dir → neighbour d.toNat dir.toNat = some e → s.partsClash d.toNat dir.toNat = true → FormsNew s d.toNat →
          ∃ t, exec (.permitAudit l) s = .next t ∧ (t.die d.toNat).closed dir.toNat = true ∧ (t.die e).closed (dir.toNat ^^^ 1) = true
            ∧ ((s.die d.toNat).shut.getLsbD dir.toNat = false → (t.die d.toNat).seq = (s.die d.toNat).seq + 1)))
  ∧ (∀ (l : PermitLink) (p q : Word) (s : State) (c : Nat), (s.die (permitDie l)).audited.find (permitKey l) = some (c, false) →
    exec (.permitAuditCompare l p q) s = .next s)
  ∧ (∀ (l : PermitLink) (p q : Word) (s : State) c, (s.die (permitDie l)).auditctl.getLsbD 63 = true → (s.die (permitDie l)).permits.find (permitKey l) = none →
    (s.die (permitDie l)).audited.find (permitKey l) = some (c, true) →
    (p.toNat + q.toNat = permitTotal l → ∃ t, exec (.permitAuditCompare l p q) s = .next t ∧ SameMemory s t ∧ t.groups = s.groups ∧ t.due = s.due
        ∧ t.die (permitDie l) = { s.die (permitDie l) with audited := (s.die (permitDie l)).audited.put (permitKey l) (c, false) })
    ∧ (p.toNat + q.toNat ≠ permitTotal l → ∃ t, exec (.permitAuditCompare l p q) s = .next t ∧ SameMemory s t ∧ t.groups = s.groups
        ∧ (t.die (permitDie l)).permits.find (permitKey l) = some ⟨(p.toNat, q.toNat), some (s.clock (permitDie l))⟩
        ∧ ((t.die (permitDie l)).auditctl.extractLsb' 0 16).toNat = min (((s.die (permitDie l)).auditctl.extractLsb' 0 16).toNat + 1) 65535
        ∧ (t.die (permitDie l)).audited.find (permitKey l) = some (c, false)
        ∧ Instr.permitDrainEnd l ∈ t.due ∧ Instr.permitDrainTimeout l ∈ t.due))
  ∧ (∀ (l : PermitLink) (s : State) p k, (s.die (permitDie l)).permits.find (permitKey l) = some p → p.draining = some k →
    FormsNew s (permitDie l) →
    (Instr.permitDrainEnd l ∈ s.due → k + 2 ^ 20 ≤ s.clock (permitDie l) → exec (.permitDrainEnd l) s = .next s)
    ∧ (s.outstanding l ≠ 0 → exec (.permitDrainEnd l) s = .next s)
    ∧ (Instr.permitDrainEnd l ∈ s.due → s.clock (permitDie l) < k + 2 ^ 20 → s.outstanding l = 0 → ∃ t, exec (.permitDrainEnd l) s = .next t ∧ t.groups = s.groups
        ∧ (t.die (permitDie l)).permits.find (permitKey l) = none ∧ (t.die (permitDie l)).seq = (s.die (permitDie l)).seq + 1)
    ∧ (Instr.permitDrainTimeout l ∈ s.due → s.clock (permitDie l) < k + 2 ^ 20 → exec (.permitDrainTimeout l) s = .next s)
    ∧ (∀ n, l = .lode n → Instr.permitDrainTimeout l ∈ s.due → k + 2 ^ 20 ≤ s.clock (permitDie l) → ∃ t, exec (.permitDrainTimeout l) s = .next t
        ∧ t.groups = s.groups ∧ (t.link n.toNat).up = false ∧ (t.die (permitDie l)).permits.find (permitKey l) = none)
    ∧ ∀ d dir e, l = .boundary d dir → neighbour d.toNat dir.toNat = some e → Instr.permitDrainTimeout l ∈ s.due →
        k + 2 ^ 20 ≤ s.clock (permitDie l) → (s.die d.toNat).fence.getLsbD dir.toNat = false → ∃ t, exec (.permitDrainTimeout l) s = .next t
          ∧ t.groups = s.groups ∧ (t.die d.toNat).fence.getLsbD dir.toNat = true ∧ Instr.dieFence (BitVec.ofNat 6 e) ∈ t.due
          ∧ (t.die d.toNat).seq = (s.die d.toNat).seq + 2)
  ∧ (∀ (d : BitVec 6) (dir : BitVec 2) (s : State), s.unanswered d.toNat dir.toNat = false →
    ∃ t, exec (.neighbourRequestTimeout d dir) s = .next t ∧ SameMemory s t ∧ t.groups = s.groups ∧ t.due = s.due
      ∧ t.die d.toNat = { s.die d.toNat with watch := (t.die d.toNat).watch } ∧ ∀ i ∈ s.asking d.toNat dir.toNat, ∃ k, (i, k) ∈ (t.die d.toNat).watch)
  ∧ (∀ (d : BitVec 6) (dir : BitVec 2) e (s : State), neighbour d.toNat dir.toNat = some e → (s.die d.toNat).fence.getLsbD dir.toNat = false → FormsNew s d.toNat →
    ∃ t, exec (.boundaryLinkLoss d dir) s = .next t
      ∧ (s.unanswered d.toNat dir.toNat = true → exec (.neighbourRequestTimeout d dir) s = .next t) ∧ t.groups = s.groups
      ∧ (t.die d.toNat).fence.getLsbD dir.toNat = true ∧ (t.die d.toNat).seq = (s.die d.toNat).seq + 1
      ∧ (t.die d.toNat).rreq.getLsbD 63 = true ∧ Instr.dieFence (BitVec.ofNat 6 e) ∈ t.due)
  ∧ ∀ (d : BitVec 6) (dir : BitVec 2) e (s : State), neighbour d.toNat dir.toNat = some e →
    ((s.die d.toNat).closed dir.toNat = true → (s.die d.toNat).rates = [] → FormsNew s d.toNat →
      ((∀ i ∈ s.due, ∀ x, s.flow i = some x → s.block x.2.1 x.2.2 ≠ some (d.toNat, dir.toNat, true)) → ∃ t, exec (.closedBoundaryFlit d dir) s = .next t
        ∧ t.groups = s.groups ∧ (t.die d.toNat).seq = (s.die d.toNat).seq + 1)
      ∧ ∀ v grid thief, s.due = [.stealRequest v grid thief] → (s.dist v.toNat).up = true →
          s.block thief.toNat v.toNat = some (d.toNat, dir.toNat, true) → ∃ t, exec (.closedBoundaryFlit d dir) s = .next t
            ∧ t.groups = s.groups ∧ (t.die d.toNat).seq = (s.die d.toNat).seq + 1 ∧ Instr.stealReply thief grid v 0 0 0 ∈ t.due)
    ∧ ((s.die d.toNat).closed dir.toNat = false → exec (.closedBoundaryFlit d dir) s = .next s)
    ∧ (FormsNew s d.toNat → ∃ t, exec (.boundaryFlitRetry d dir) s = .next t ∧ t.groups = s.groups ∧ (t.die d.toNat).seq = (s.die d.toNat).seq + 1)

/-! ### Encodings and reset (07, 04, 19) -/

/-- R51, R55, R160, R161, R170, R172: words written out from the encodings of 07, 08, 09 and 10, with what they stand for; an
unassigned opcode and a nonzero rsvd field stand for nothing. -/
def Obligations.WordsOfTheSpecDecode : Prop :=
  decode 0x11500000 none = .ok (.smovi 20 0) ∧ decode 0x01596500 none = .ok (.sadd 22 22 20)
  ∧ decode 0x0CE14542 none = .ok (.scmp 56 20 21 2) ∧ decode 0x193FFFFC none = .ok (.brc 1 0x1FFFFC)
  ∧ decode 0x17581003 none = .ok (.sst 22 1 0 0 3) ∧ decode 0x5D004102 none = .ok (.vcomp 1 2 0 2)
  ∧ decode 0x7900C106 none = .ok (.fcvt 0 3 2 0 0 6) ∧ decode 0x78004184 none = .ok (.fcmp 0 0 1 3 4)
  ∧ decode 0xB1014001 none = .ok (.cpy 20 1) ∧ decode 0xA4003087 none = .ok (.pst 0 12 8 7)
  ∧ decode 0x01596501 none = .error (.reserved 0x01) ∧ decode 0x30000000 none = .error (.unassigned 0x30)

/-- R21, R76, R89, R92, R263, R301, R338, R342, R353, R357, R363, R376, R415, R416: reset: the registers of each die, the owner of each frame,
no group, no grid and nothing written in memory. The mode of the service cores is the model's reading (log 4). -/
def Obligations.ResetLeavesTheSpecValues : Prop :=
  Memory.wf State.reset.mem = true ∧ State.reset.groups = [] ∧ State.reset.grids = [] ∧ State.reset.caches = []
  ∧ (∀ pa, inHole pa = false → ownState (State.reset.ownEntry pa) =
      if 2 ^ 27 ≤ paOff pa then 2 else if 0x4000000 ≤ paOff pa ∧ paOff pa < 0x4210000 then 3 else 4)
  ∧ (∀ d < 64, let x := State.reset.die d
      x.qtmo = 0x8000000000005000 ∧ x.auditctl = 0x8000001000000000 ∧ x.rreq = 0 ∧ x.fence = 0 ∧ x.mhealth = 0 ∧ x.fwctl = 0 ∧ x.fmode = 0
        ∧ x.mmodeReq = 0 ∧ x.mmodeCur = 0 ∧ x.hsev = 1 ∧ x.errSc = 16 * d ∧ x.hen = false ∧ (∀ k, x.tcfg.get 0 k = 0)
        ∧ (∀ k, x.shares.get 1 k = 1) ∧ x.lcfg.extractLsb' 58 2 = if d ≤ 6 ∨ 57 ≤ d then 2 else 0)
  ∧ ∀ c, (State.reset.svc c).mode = .m
end

