-- ==== Sys2Proof/Laws/Map.lean ====
section
/-!
SUPPORT. The laws of sparse maps: what each operation leaves at each key, and that the canonical form is kept.
-/

namespace Sys2Proof.Machine.SMap

variable {α : Type}

@[simp] theorem find_nil (k : Nat) : find ([] : SMap α) k = none := rfl
@[simp] theorem get_nil (d : α) (k : Nat) : get d ([] : SMap α) k = d := rfl

theorem get_eq_find (d : α) (m : SMap α) (k : Nat) : get d m k = (find m k).getD d := by
  induction m with
  | nil => rfl
  | cons e m ih => simp only [get, find]; split <;> simp_all

theorem find_put (m : SMap α) (k j : Nat) (v : α) : find (put m k v) j = if j = k then some v else find m j := by
  induction m with
  | nil => simp only [put, find, eq_comm]
  | cons e m ih =>
    simp only [put]
    split
    · simp only [find, eq_comm]
    · split
      · next h => subst h; simp only [find, eq_comm]; split <;> simp_all
      · simp only [find, ih]
        split
        · next h1 h2 h3 => subst h3; simp [h2]
        · rfl

@[simp] theorem find_put_self (m : SMap α) (k : Nat) (v : α) : find (put m k v) k = some v := by simp [find_put]

theorem find_put_ne (m : SMap α) {k j : Nat} (v : α) (h : j ≠ k) : find (put m k v) j = find m j := by simp [find_put, h]

theorem find_erase (m : SMap α) (k j : Nat) : find (erase m k) j = if j = k then none else find m j := by
  induction m with
  | nil => simp [erase]
  | cons e m ih =>
    simp only [erase]
    split
    · next h => subst h; rw [ih]; simp only [find, eq_comm]; split <;> simp_all
    · simp only [find, ih]
      split
      · next h1 h2 => subst h2; simp [h1]
      · rfl

theorem get_put (d : α) (m : SMap α) (k j : Nat) (v : α) : get d (put m k v) j = if j = k then v else get d m j := by
  simp only [get_eq_find, find_put]; split <;> rfl

theorem get_erase (d : α) (m : SMap α) (k j : Nat) : get d (erase m k) j = if j = k then d else get d m j := by
  simp only [get_eq_find, find_erase]; split <;> rfl

theorem get_set [DecidableEq α] (d : α) (m : SMap α) (k j : Nat) (v : α) :
    get d (set d m k v) j = if j = k then v else get d m j := by
  unfold set
  split
  · next h => rw [get_erase]; split <;> simp_all
  · rw [get_put]

/-- Reading a map whose entries were all changed by a function of the value. -/
theorem find_map (f : Nat → α → α) (m : SMap α) (k : Nat) :
    find (m.map fun e => (e.1, f e.1 e.2)) k = (find m k).map (f k) := by
  induction m with
  | nil => rfl
  | cons e m ih =>
    obtain ⟨j, v⟩ := e
    simp only [List.map_cons, find]
    split
    · next h => subst h; rfl
    · exact ih

theorem has_eq_find (m : SMap α) (k : Nat) : has m k = (find m k).isSome := by
  induction m with
  | nil => rfl
  | cons e m ih => simp only [has, find]; split <;> simp_all

/-! ### The canonical form -/

variable [DecidableEq α]

theorem wf_cons (d : Nat → α) (k : Nat) (v : α) (m : SMap α) :
    wf d ((k, v) :: m) = true ↔ (∀ e ∈ m.head?, k < e.1) ∧ v ≠ d k ∧ wf d m = true := by
  cases m with
  | nil => simp [wf]
  | cons e m => simp [wf, and_assoc]

/-- In canonical form every key after the first is greater than it. -/
theorem wf_lt {d : Nat → α} {k : Nat} {v : α} {m : SMap α} (h : wf d ((k, v) :: m) = true) : ∀ e ∈ m, k < e.1 := by
  induction m generalizing k v with
  | nil => simp
  | cons e m ih =>
    obtain ⟨h1, -, h3⟩ := (wf_cons d k v _).1 h
    have hk : k < e.1 := h1 e (by simp)
    intro x hx
    rcases List.mem_cons.1 hx with rfl | hx
    · exact hk
    · exact hk.trans (ih h3 x hx)

theorem wf_of_forall {d : Nat → α} {k : Nat} {v : α} {m : SMap α} (h : ∀ e ∈ m, k < e.1) (hv : v ≠ d k) (hm : wf d m = true) :
    wf d ((k, v) :: m) = true :=
  (wf_cons d k v m).2 ⟨fun e he => h e (List.mem_of_mem_head? he), hv, hm⟩

omit [DecidableEq α] in
theorem mem_erase {m : SMap α} {k : Nat} {e : Nat × α} (h : e ∈ erase m k) : e ∈ m := by
  induction m with
  | nil => simp [erase] at h
  | cons x m ih =>
    simp only [erase] at h
    split at h
    · exact List.mem_cons_of_mem _ (ih h)
    · rcases List.mem_cons.1 h with rfl | h
      · simp
      · exact List.mem_cons_of_mem _ (ih h)

theorem wf_erase {d : Nat → α} {m : SMap α} (h : wf d m = true) (k : Nat) : wf d (erase m k) = true := by
  induction m with
  | nil => rfl
  | cons e m ih =>
    obtain ⟨-, hv, hm⟩ := (wf_cons d e.1 e.2 m).1 h
    simp only [erase]
    split
    · exact ih hm
    · exact wf_of_forall (fun x hx => wf_lt h x (mem_erase hx)) hv (ih hm)

omit [DecidableEq α] in
theorem mem_put {m : SMap α} {k : Nat} {v : α} {e : Nat × α} (h : e ∈ put m k v) : e = (k, v) ∨ e ∈ m := by
  induction m with
  | nil => simpa [put] using h
  | cons x m ih =>
    simp only [put] at h
    split at h
    · simpa using h
    · split at h
      · rcases List.mem_cons.1 h with rfl | h <;> simp_all
      · rcases List.mem_cons.1 h with rfl | h
        · simp
        · rcases ih h with rfl | h <;> simp_all

theorem wf_put {d : Nat → α} {m : SMap α} (h : wf d m = true) (k : Nat) {v : α} (hv : v ≠ d k) : wf d (put m k v) = true := by
  induction m with
  | nil => simpa [put, wf] using hv
  | cons e m ih =>
    obtain ⟨-, he, hm⟩ := (wf_cons d e.1 e.2 m).1 h
    simp only [put]
    split
    · next hlt =>
      refine wf_of_forall (fun x hx => ?_) hv h
      rcases List.mem_cons.1 hx with rfl | hx
      · exact hlt
      · exact hlt.trans (wf_lt h x hx)
    · split
      · next hk => subst hk; exact wf_of_forall (wf_lt h) hv hm
      · refine wf_of_forall (fun x hx => ?_) he (ih hm)
        rcases mem_put hx with rfl | hx
        · simp only; omega
        · exact wf_lt h x hx

/-- A map set at a key keeps the canonical form. -/
theorem wf_set {d : Nat → α} {m : SMap α} (h : wf d m = true) (k : Nat) (v : α) : wf d (set (d k) m k v) = true := by
  unfold set
  split
  · exact wf_erase h k
  · next hv => exact wf_put h k hv

theorem wf_filter {d : Nat → α} {m : SMap α} (h : wf d m = true) (p : Nat × α → Bool) : wf d (m.filter p) = true := by
  induction m with
  | nil => rfl
  | cons e m ih =>
    obtain ⟨-, he, hm⟩ := (wf_cons d e.1 e.2 m).1 h
    simp only [List.filter_cons]
    split
    · exact wf_of_forall (fun x hx => wf_lt h x (List.mem_filter.1 hx).1) he (ih hm)
    · exact ih hm

/-- Dropping a range of keys keeps the canonical form. -/
theorem wf_dropRange {d : Nat → α} {m : SMap α} (h : wf d m = true) (lo hi : Nat) : wf d (dropRange m lo hi) = true :=
  wf_filter h _

omit [DecidableEq α] in
/-- A dropped key reads as the default, any other as before. -/
theorem find_dropRange (m : SMap α) (lo hi k : Nat) :
    find (dropRange m lo hi) k = if lo ≤ k ∧ k < hi then none else find m k := by
  induction m with
  | nil => simp [dropRange]
  | cons e m ih =>
    obtain ⟨j, v⟩ := e
    simp only [dropRange, List.filter_cons] at ih ⊢
    split
    · next h =>
      simp only [find, ih]
      split
      · next hj =>
        subst hj
        have : ¬(lo ≤ j ∧ j < hi) := by
          simp only [Bool.or_eq_true, decide_eq_true_eq] at h; omega
        simp [this]
      · rfl
    · next h =>
      rw [ih]
      simp only [find]
      split
      · rfl
      · split
        · next hc hj =>
          subst hj
          exfalso; simp only [Bool.or_eq_true, decide_eq_true_eq, not_or] at h; omega
        · rfl

end Sys2Proof.Machine.SMap
end

