-- ==== Sys2Proof/Laws/State.lean ====
section
/-!
SUPPORT. The laws of the state's parts: which fields an update leaves as they were, and what a part reads after it.
-/

namespace Sys2Proof.Machine.State

@[simp] theorem putDie_mem (s : State) (d : Nat) (x : Die) : (s.putDie d x).mem = s.mem := rfl
@[simp] theorem putDie_poison (s : State) (d : Nat) (x : Die) : (s.putDie d x).poison = s.poison := rfl
@[simp] theorem putDie_groups (s : State) (d : Nat) (x : Die) : (s.putDie d x).groups = s.groups := rfl
@[simp] theorem putDie_queues (s : State) (d : Nat) (x : Die) : (s.putDie d x).queues = s.queues := rfl
@[simp] theorem putDie_nextQueue (s : State) (d : Nat) (x : Die) : (s.putDie d x).nextQueue = s.nextQueue := rfl
@[simp] theorem putDie_cores (s : State) (d : Nat) (x : Die) : (s.putDie d x).cores = s.cores := rfl
@[simp] theorem putDie_caches (s : State) (d : Nat) (x : Die) : (s.putDie d x).caches = s.caches := rfl
@[simp] theorem putDie_clusters (s : State) (d : Nat) (x : Die) : (s.putDie d x).clusters = s.clusters := rfl
@[simp] theorem putDie_grids (s : State) (d : Nat) (x : Die) : (s.putDie d x).grids = s.grids := rfl
@[simp] theorem putDie_rejections (s : State) (d : Nat) (x : Die) : (s.putDie d x).rejections = s.rejections := rfl
@[simp] theorem putDie_answers (s : State) (d : Nat) (x : Die) : (s.putDie d x).answers = s.answers := rfl
@[simp] theorem putDie_nvme (s : State) (d : Nat) (x : Die) : (s.putDie d x).nvme = s.nvme := rfl
@[simp] theorem putDie_ports (s : State) (d : Nat) (x : Die) : (s.putDie d x).ports = s.ports := rfl
@[simp] theorem putDie_links (s : State) (d : Nat) (x : Die) : (s.putDie d x).links = s.links := rfl
@[simp] theorem putDie_peat (s : State) (d : Nat) (x : Die) : (s.putDie d x).peat = s.peat := rfl
@[simp] theorem putDie_hostOut (s : State) (d : Nat) (x : Die) : (s.putDie d x).hostOut = s.hostOut := rfl
@[simp] theorem putDie_hostWait (s : State) (d : Nat) (x : Die) : (s.putDie d x).hostWait = s.hostWait := rfl
@[simp] theorem putDie_chans (s : State) (d : Nat) (x : Die) : (s.putDie d x).chans = s.chans := rfl
@[simp] theorem putDie_boot (s : State) (d : Nat) (x : Die) : (s.putDie d x).boot = s.boot := rfl
@[simp] theorem putDie_cur (s : State) (d : Nat) (x : Die) : (s.putDie d x).cur = s.cur := rfl
@[simp] theorem putDie_due (s : State) (d : Nat) (x : Die) : (s.putDie d x).due = s.due := rfl
@[simp] theorem putDie_inputs (s : State) (d : Nat) (x : Die) : (s.putDie d x).inputs = s.inputs := rfl
@[simp] theorem putDie_tick (s : State) (d : Nat) (x : Die) : (s.putDie d x).tick = s.tick := rfl
@[simp] theorem putDie_fresh (s : State) (d : Nat) (x : Die) : (s.putDie d x).fresh = s.fresh := rfl
@[simp] theorem putDie_moving (s : State) (d : Nat) (x : Die) : (s.putDie d x).moving = s.moving := rfl
@[simp] theorem putDie_formed (s : State) (d : Nat) (x : Die) : (s.putDie d x).formed = s.formed := rfl

@[simp] theorem putCluster_mem (s : State) (c : Nat) (x : Cluster) : (s.putCluster c x).mem = s.mem := rfl
@[simp] theorem putCluster_poison (s : State) (c : Nat) (x : Cluster) : (s.putCluster c x).poison = s.poison := rfl
@[simp] theorem putCluster_groups (s : State) (c : Nat) (x : Cluster) : (s.putCluster c x).groups = s.groups := rfl
@[simp] theorem putCluster_queues (s : State) (c : Nat) (x : Cluster) : (s.putCluster c x).queues = s.queues := rfl
@[simp] theorem putCluster_nextQueue (s : State) (c : Nat) (x : Cluster) : (s.putCluster c x).nextQueue = s.nextQueue := rfl
@[simp] theorem putCluster_cores (s : State) (c : Nat) (x : Cluster) : (s.putCluster c x).cores = s.cores := rfl
@[simp] theorem putCluster_caches (s : State) (c : Nat) (x : Cluster) : (s.putCluster c x).caches = s.caches := rfl
@[simp] theorem putCluster_dies (s : State) (c : Nat) (x : Cluster) : (s.putCluster c x).dies = s.dies := rfl
@[simp] theorem putCluster_grids (s : State) (c : Nat) (x : Cluster) : (s.putCluster c x).grids = s.grids := rfl
@[simp] theorem putCluster_rejections (s : State) (c : Nat) (x : Cluster) : (s.putCluster c x).rejections = s.rejections := rfl
@[simp] theorem putCluster_answers (s : State) (c : Nat) (x : Cluster) : (s.putCluster c x).answers = s.answers := rfl
@[simp] theorem putCluster_nvme (s : State) (c : Nat) (x : Cluster) : (s.putCluster c x).nvme = s.nvme := rfl
@[simp] theorem putCluster_ports (s : State) (c : Nat) (x : Cluster) : (s.putCluster c x).ports = s.ports := rfl
@[simp] theorem putCluster_links (s : State) (c : Nat) (x : Cluster) : (s.putCluster c x).links = s.links := rfl
@[simp] theorem putCluster_peat (s : State) (c : Nat) (x : Cluster) : (s.putCluster c x).peat = s.peat := rfl
@[simp] theorem putCluster_hostOut (s : State) (c : Nat) (x : Cluster) : (s.putCluster c x).hostOut = s.hostOut := rfl
@[simp] theorem putCluster_hostWait (s : State) (c : Nat) (x : Cluster) : (s.putCluster c x).hostWait = s.hostWait := rfl
@[simp] theorem putCluster_chans (s : State) (c : Nat) (x : Cluster) : (s.putCluster c x).chans = s.chans := rfl
@[simp] theorem putCluster_boot (s : State) (c : Nat) (x : Cluster) : (s.putCluster c x).boot = s.boot := rfl
@[simp] theorem putCluster_cur (s : State) (c : Nat) (x : Cluster) : (s.putCluster c x).cur = s.cur := rfl
@[simp] theorem putCluster_due (s : State) (c : Nat) (x : Cluster) : (s.putCluster c x).due = s.due := rfl
@[simp] theorem putCluster_inputs (s : State) (c : Nat) (x : Cluster) : (s.putCluster c x).inputs = s.inputs := rfl
@[simp] theorem putCluster_tick (s : State) (c : Nat) (x : Cluster) : (s.putCluster c x).tick = s.tick := rfl
@[simp] theorem putCluster_fresh (s : State) (c : Nat) (x : Cluster) : (s.putCluster c x).fresh = s.fresh := rfl
@[simp] theorem putCluster_moving (s : State) (c : Nat) (x : Cluster) : (s.putCluster c x).moving = s.moving := rfl
@[simp] theorem putCluster_formed (s : State) (c : Nat) (x : Cluster) : (s.putCluster c x).formed = s.formed := rfl

@[simp] theorem putCore_mem (s : State) (k : Nat) (x : Core) : (s.putCore k x).mem = s.mem := rfl
@[simp] theorem putCore_poison (s : State) (k : Nat) (x : Core) : (s.putCore k x).poison = s.poison := rfl
@[simp] theorem putCore_groups (s : State) (k : Nat) (x : Core) : (s.putCore k x).groups = s.groups := rfl
@[simp] theorem putCore_queues (s : State) (k : Nat) (x : Core) : (s.putCore k x).queues = s.queues := rfl
@[simp] theorem putCore_nextQueue (s : State) (k : Nat) (x : Core) : (s.putCore k x).nextQueue = s.nextQueue := rfl
@[simp] theorem putCore_caches (s : State) (k : Nat) (x : Core) : (s.putCore k x).caches = s.caches := rfl
@[simp] theorem putCore_clusters (s : State) (k : Nat) (x : Core) : (s.putCore k x).clusters = s.clusters := rfl
@[simp] theorem putCore_dies (s : State) (k : Nat) (x : Core) : (s.putCore k x).dies = s.dies := rfl
@[simp] theorem putCore_grids (s : State) (k : Nat) (x : Core) : (s.putCore k x).grids = s.grids := rfl
@[simp] theorem putCore_rejections (s : State) (k : Nat) (x : Core) : (s.putCore k x).rejections = s.rejections := rfl
@[simp] theorem putCore_answers (s : State) (k : Nat) (x : Core) : (s.putCore k x).answers = s.answers := rfl
@[simp] theorem putCore_nvme (s : State) (k : Nat) (x : Core) : (s.putCore k x).nvme = s.nvme := rfl
@[simp] theorem putCore_ports (s : State) (k : Nat) (x : Core) : (s.putCore k x).ports = s.ports := rfl
@[simp] theorem putCore_links (s : State) (k : Nat) (x : Core) : (s.putCore k x).links = s.links := rfl
@[simp] theorem putCore_peat (s : State) (k : Nat) (x : Core) : (s.putCore k x).peat = s.peat := rfl
@[simp] theorem putCore_hostOut (s : State) (k : Nat) (x : Core) : (s.putCore k x).hostOut = s.hostOut := rfl
@[simp] theorem putCore_hostWait (s : State) (k : Nat) (x : Core) : (s.putCore k x).hostWait = s.hostWait := rfl
@[simp] theorem putCore_chans (s : State) (k : Nat) (x : Core) : (s.putCore k x).chans = s.chans := rfl
@[simp] theorem putCore_boot (s : State) (k : Nat) (x : Core) : (s.putCore k x).boot = s.boot := rfl
@[simp] theorem putCore_cur (s : State) (k : Nat) (x : Core) : (s.putCore k x).cur = s.cur := rfl
@[simp] theorem putCore_due (s : State) (k : Nat) (x : Core) : (s.putCore k x).due = s.due := rfl
@[simp] theorem putCore_inputs (s : State) (k : Nat) (x : Core) : (s.putCore k x).inputs = s.inputs := rfl
@[simp] theorem putCore_tick (s : State) (k : Nat) (x : Core) : (s.putCore k x).tick = s.tick := rfl
@[simp] theorem putCore_fresh (s : State) (k : Nat) (x : Core) : (s.putCore k x).fresh = s.fresh := rfl
@[simp] theorem putCore_moving (s : State) (k : Nat) (x : Core) : (s.putCore k x).moving = s.moving := rfl
@[simp] theorem putCore_formed (s : State) (k : Nat) (x : Core) : (s.putCore k x).formed = s.formed := rfl

@[simp] theorem putCache_mem (s : State) (k : Nat) (x : Cache) : (s.putCache k x).mem = s.mem := rfl
@[simp] theorem putCache_poison (s : State) (k : Nat) (x : Cache) : (s.putCache k x).poison = s.poison := rfl
@[simp] theorem putCache_groups (s : State) (k : Nat) (x : Cache) : (s.putCache k x).groups = s.groups := rfl
@[simp] theorem putCache_queues (s : State) (k : Nat) (x : Cache) : (s.putCache k x).queues = s.queues := rfl
@[simp] theorem putCache_nextQueue (s : State) (k : Nat) (x : Cache) : (s.putCache k x).nextQueue = s.nextQueue := rfl
@[simp] theorem putCache_cores (s : State) (k : Nat) (x : Cache) : (s.putCache k x).cores = s.cores := rfl
@[simp] theorem putCache_clusters (s : State) (k : Nat) (x : Cache) : (s.putCache k x).clusters = s.clusters := rfl
@[simp] theorem putCache_dies (s : State) (k : Nat) (x : Cache) : (s.putCache k x).dies = s.dies := rfl
@[simp] theorem putCache_grids (s : State) (k : Nat) (x : Cache) : (s.putCache k x).grids = s.grids := rfl
@[simp] theorem putCache_rejections (s : State) (k : Nat) (x : Cache) : (s.putCache k x).rejections = s.rejections := rfl
@[simp] theorem putCache_answers (s : State) (k : Nat) (x : Cache) : (s.putCache k x).answers = s.answers := rfl
@[simp] theorem putCache_nvme (s : State) (k : Nat) (x : Cache) : (s.putCache k x).nvme = s.nvme := rfl
@[simp] theorem putCache_ports (s : State) (k : Nat) (x : Cache) : (s.putCache k x).ports = s.ports := rfl
@[simp] theorem putCache_links (s : State) (k : Nat) (x : Cache) : (s.putCache k x).links = s.links := rfl
@[simp] theorem putCache_peat (s : State) (k : Nat) (x : Cache) : (s.putCache k x).peat = s.peat := rfl
@[simp] theorem putCache_hostOut (s : State) (k : Nat) (x : Cache) : (s.putCache k x).hostOut = s.hostOut := rfl
@[simp] theorem putCache_hostWait (s : State) (k : Nat) (x : Cache) : (s.putCache k x).hostWait = s.hostWait := rfl
@[simp] theorem putCache_chans (s : State) (k : Nat) (x : Cache) : (s.putCache k x).chans = s.chans := rfl
@[simp] theorem putCache_boot (s : State) (k : Nat) (x : Cache) : (s.putCache k x).boot = s.boot := rfl
@[simp] theorem putCache_cur (s : State) (k : Nat) (x : Cache) : (s.putCache k x).cur = s.cur := rfl
@[simp] theorem putCache_due (s : State) (k : Nat) (x : Cache) : (s.putCache k x).due = s.due := rfl
@[simp] theorem putCache_inputs (s : State) (k : Nat) (x : Cache) : (s.putCache k x).inputs = s.inputs := rfl
@[simp] theorem putCache_tick (s : State) (k : Nat) (x : Cache) : (s.putCache k x).tick = s.tick := rfl
@[simp] theorem putCache_fresh (s : State) (k : Nat) (x : Cache) : (s.putCache k x).fresh = s.fresh := rfl
@[simp] theorem putCache_moving (s : State) (k : Nat) (x : Cache) : (s.putCache k x).moving = s.moving := rfl
@[simp] theorem putCache_formed (s : State) (k : Nat) (x : Cache) : (s.putCache k x).formed = s.formed := rfl

@[simp] theorem putGroup_mem (s : State) (g : Nat) (x : Group) : (s.putGroup g x).mem = s.mem := rfl
@[simp] theorem putGroup_poison (s : State) (g : Nat) (x : Group) : (s.putGroup g x).poison = s.poison := rfl
@[simp] theorem putGroup_queues (s : State) (g : Nat) (x : Group) : (s.putGroup g x).queues = s.queues := rfl
@[simp] theorem putGroup_nextQueue (s : State) (g : Nat) (x : Group) : (s.putGroup g x).nextQueue = s.nextQueue := rfl
@[simp] theorem putGroup_cores (s : State) (g : Nat) (x : Group) : (s.putGroup g x).cores = s.cores := rfl
@[simp] theorem putGroup_caches (s : State) (g : Nat) (x : Group) : (s.putGroup g x).caches = s.caches := rfl
@[simp] theorem putGroup_clusters (s : State) (g : Nat) (x : Group) : (s.putGroup g x).clusters = s.clusters := rfl
@[simp] theorem putGroup_dies (s : State) (g : Nat) (x : Group) : (s.putGroup g x).dies = s.dies := rfl
@[simp] theorem putGroup_grids (s : State) (g : Nat) (x : Group) : (s.putGroup g x).grids = s.grids := rfl
@[simp] theorem putGroup_rejections (s : State) (g : Nat) (x : Group) : (s.putGroup g x).rejections = s.rejections := rfl
@[simp] theorem putGroup_answers (s : State) (g : Nat) (x : Group) : (s.putGroup g x).answers = s.answers := rfl
@[simp] theorem putGroup_nvme (s : State) (g : Nat) (x : Group) : (s.putGroup g x).nvme = s.nvme := rfl
@[simp] theorem putGroup_ports (s : State) (g : Nat) (x : Group) : (s.putGroup g x).ports = s.ports := rfl
@[simp] theorem putGroup_links (s : State) (g : Nat) (x : Group) : (s.putGroup g x).links = s.links := rfl
@[simp] theorem putGroup_peat (s : State) (g : Nat) (x : Group) : (s.putGroup g x).peat = s.peat := rfl
@[simp] theorem putGroup_hostOut (s : State) (g : Nat) (x : Group) : (s.putGroup g x).hostOut = s.hostOut := rfl
@[simp] theorem putGroup_hostWait (s : State) (g : Nat) (x : Group) : (s.putGroup g x).hostWait = s.hostWait := rfl
@[simp] theorem putGroup_chans (s : State) (g : Nat) (x : Group) : (s.putGroup g x).chans = s.chans := rfl
@[simp] theorem putGroup_boot (s : State) (g : Nat) (x : Group) : (s.putGroup g x).boot = s.boot := rfl
@[simp] theorem putGroup_cur (s : State) (g : Nat) (x : Group) : (s.putGroup g x).cur = s.cur := rfl
@[simp] theorem putGroup_due (s : State) (g : Nat) (x : Group) : (s.putGroup g x).due = s.due := rfl
@[simp] theorem putGroup_inputs (s : State) (g : Nat) (x : Group) : (s.putGroup g x).inputs = s.inputs := rfl
@[simp] theorem putGroup_tick (s : State) (g : Nat) (x : Group) : (s.putGroup g x).tick = s.tick := rfl
@[simp] theorem putGroup_fresh (s : State) (g : Nat) (x : Group) : (s.putGroup g x).fresh = s.fresh := rfl
@[simp] theorem putGroup_moving (s : State) (g : Nat) (x : Group) : (s.putGroup g x).moving = s.moving := rfl
@[simp] theorem putGroup_formed (s : State) (g : Nat) (x : Group) : (s.putGroup g x).formed = s.formed := rfl

@[simp] theorem putQueue_mem (s : State) (q : Nat) (x : StoreQ) : (s.putQueue q x).mem = s.mem := rfl
@[simp] theorem putQueue_poison (s : State) (q : Nat) (x : StoreQ) : (s.putQueue q x).poison = s.poison := rfl
@[simp] theorem putQueue_groups (s : State) (q : Nat) (x : StoreQ) : (s.putQueue q x).groups = s.groups := rfl
@[simp] theorem putQueue_nextQueue (s : State) (q : Nat) (x : StoreQ) : (s.putQueue q x).nextQueue = s.nextQueue := rfl
@[simp] theorem putQueue_cores (s : State) (q : Nat) (x : StoreQ) : (s.putQueue q x).cores = s.cores := rfl
@[simp] theorem putQueue_caches (s : State) (q : Nat) (x : StoreQ) : (s.putQueue q x).caches = s.caches := rfl
@[simp] theorem putQueue_clusters (s : State) (q : Nat) (x : StoreQ) : (s.putQueue q x).clusters = s.clusters := rfl
@[simp] theorem putQueue_dies (s : State) (q : Nat) (x : StoreQ) : (s.putQueue q x).dies = s.dies := rfl
@[simp] theorem putQueue_grids (s : State) (q : Nat) (x : StoreQ) : (s.putQueue q x).grids = s.grids := rfl
@[simp] theorem putQueue_rejections (s : State) (q : Nat) (x : StoreQ) : (s.putQueue q x).rejections = s.rejections := rfl
@[simp] theorem putQueue_answers (s : State) (q : Nat) (x : StoreQ) : (s.putQueue q x).answers = s.answers := rfl
@[simp] theorem putQueue_nvme (s : State) (q : Nat) (x : StoreQ) : (s.putQueue q x).nvme = s.nvme := rfl
@[simp] theorem putQueue_ports (s : State) (q : Nat) (x : StoreQ) : (s.putQueue q x).ports = s.ports := rfl
@[simp] theorem putQueue_links (s : State) (q : Nat) (x : StoreQ) : (s.putQueue q x).links = s.links := rfl
@[simp] theorem putQueue_peat (s : State) (q : Nat) (x : StoreQ) : (s.putQueue q x).peat = s.peat := rfl
@[simp] theorem putQueue_hostOut (s : State) (q : Nat) (x : StoreQ) : (s.putQueue q x).hostOut = s.hostOut := rfl
@[simp] theorem putQueue_hostWait (s : State) (q : Nat) (x : StoreQ) : (s.putQueue q x).hostWait = s.hostWait := rfl
@[simp] theorem putQueue_chans (s : State) (q : Nat) (x : StoreQ) : (s.putQueue q x).chans = s.chans := rfl
@[simp] theorem putQueue_boot (s : State) (q : Nat) (x : StoreQ) : (s.putQueue q x).boot = s.boot := rfl
@[simp] theorem putQueue_cur (s : State) (q : Nat) (x : StoreQ) : (s.putQueue q x).cur = s.cur := rfl
@[simp] theorem putQueue_due (s : State) (q : Nat) (x : StoreQ) : (s.putQueue q x).due = s.due := rfl
@[simp] theorem putQueue_inputs (s : State) (q : Nat) (x : StoreQ) : (s.putQueue q x).inputs = s.inputs := rfl
@[simp] theorem putQueue_tick (s : State) (q : Nat) (x : StoreQ) : (s.putQueue q x).tick = s.tick := rfl
@[simp] theorem putQueue_fresh (s : State) (q : Nat) (x : StoreQ) : (s.putQueue q x).fresh = s.fresh := rfl
@[simp] theorem putQueue_moving (s : State) (q : Nat) (x : StoreQ) : (s.putQueue q x).moving = s.moving := rfl
@[simp] theorem putQueue_formed (s : State) (q : Nat) (x : StoreQ) : (s.putQueue q x).formed = s.formed := rfl

@[simp] theorem putGrid_mem (s : State) (g : Nat) (x : Grid) : (s.putGrid g x).mem = s.mem := rfl
@[simp] theorem putGrid_poison (s : State) (g : Nat) (x : Grid) : (s.putGrid g x).poison = s.poison := rfl
@[simp] theorem putGrid_groups (s : State) (g : Nat) (x : Grid) : (s.putGrid g x).groups = s.groups := rfl
@[simp] theorem putGrid_queues (s : State) (g : Nat) (x : Grid) : (s.putGrid g x).queues = s.queues := rfl
@[simp] theorem putGrid_nextQueue (s : State) (g : Nat) (x : Grid) : (s.putGrid g x).nextQueue = s.nextQueue := rfl
@[simp] theorem putGrid_cores (s : State) (g : Nat) (x : Grid) : (s.putGrid g x).cores = s.cores := rfl
@[simp] theorem putGrid_caches (s : State) (g : Nat) (x : Grid) : (s.putGrid g x).caches = s.caches := rfl
@[simp] theorem putGrid_clusters (s : State) (g : Nat) (x : Grid) : (s.putGrid g x).clusters = s.clusters := rfl
@[simp] theorem putGrid_dies (s : State) (g : Nat) (x : Grid) : (s.putGrid g x).dies = s.dies := rfl
@[simp] theorem putGrid_rejections (s : State) (g : Nat) (x : Grid) : (s.putGrid g x).rejections = s.rejections := rfl
@[simp] theorem putGrid_answers (s : State) (g : Nat) (x : Grid) : (s.putGrid g x).answers = s.answers := rfl
@[simp] theorem putGrid_nvme (s : State) (g : Nat) (x : Grid) : (s.putGrid g x).nvme = s.nvme := rfl
@[simp] theorem putGrid_ports (s : State) (g : Nat) (x : Grid) : (s.putGrid g x).ports = s.ports := rfl
@[simp] theorem putGrid_links (s : State) (g : Nat) (x : Grid) : (s.putGrid g x).links = s.links := rfl
@[simp] theorem putGrid_peat (s : State) (g : Nat) (x : Grid) : (s.putGrid g x).peat = s.peat := rfl
@[simp] theorem putGrid_hostOut (s : State) (g : Nat) (x : Grid) : (s.putGrid g x).hostOut = s.hostOut := rfl
@[simp] theorem putGrid_hostWait (s : State) (g : Nat) (x : Grid) : (s.putGrid g x).hostWait = s.hostWait := rfl
@[simp] theorem putGrid_chans (s : State) (g : Nat) (x : Grid) : (s.putGrid g x).chans = s.chans := rfl
@[simp] theorem putGrid_boot (s : State) (g : Nat) (x : Grid) : (s.putGrid g x).boot = s.boot := rfl
@[simp] theorem putGrid_cur (s : State) (g : Nat) (x : Grid) : (s.putGrid g x).cur = s.cur := rfl
@[simp] theorem putGrid_due (s : State) (g : Nat) (x : Grid) : (s.putGrid g x).due = s.due := rfl
@[simp] theorem putGrid_inputs (s : State) (g : Nat) (x : Grid) : (s.putGrid g x).inputs = s.inputs := rfl
@[simp] theorem putGrid_tick (s : State) (g : Nat) (x : Grid) : (s.putGrid g x).tick = s.tick := rfl
@[simp] theorem putGrid_fresh (s : State) (g : Nat) (x : Grid) : (s.putGrid g x).fresh = s.fresh := rfl
@[simp] theorem putGrid_moving (s : State) (g : Nat) (x : Grid) : (s.putGrid g x).moving = s.moving := rfl
@[simp] theorem putGrid_formed (s : State) (g : Nat) (x : Grid) : (s.putGrid g x).formed = s.formed := rfl

@[simp] theorem modDie_mem (s : State) (d : Nat) (f : Die → Die) : (s.modDie d f).mem = s.mem := rfl
@[simp] theorem modDie_poison (s : State) (d : Nat) (f : Die → Die) : (s.modDie d f).poison = s.poison := rfl
@[simp] theorem modDie_groups (s : State) (d : Nat) (f : Die → Die) : (s.modDie d f).groups = s.groups := rfl
@[simp] theorem modDie_queues (s : State) (d : Nat) (f : Die → Die) : (s.modDie d f).queues = s.queues := rfl
@[simp] theorem modDie_nextQueue (s : State) (d : Nat) (f : Die → Die) : (s.modDie d f).nextQueue = s.nextQueue := rfl
@[simp] theorem modDie_cores (s : State) (d : Nat) (f : Die → Die) : (s.modDie d f).cores = s.cores := rfl
@[simp] theorem modDie_caches (s : State) (d : Nat) (f : Die → Die) : (s.modDie d f).caches = s.caches := rfl
@[simp] theorem modDie_clusters (s : State) (d : Nat) (f : Die → Die) : (s.modDie d f).clusters = s.clusters := rfl
@[simp] theorem modDie_grids (s : State) (d : Nat) (f : Die → Die) : (s.modDie d f).grids = s.grids := rfl
@[simp] theorem modDie_rejections (s : State) (d : Nat) (f : Die → Die) : (s.modDie d f).rejections = s.rejections := rfl
@[simp] theorem modDie_answers (s : State) (d : Nat) (f : Die → Die) : (s.modDie d f).answers = s.answers := rfl
@[simp] theorem modDie_nvme (s : State) (d : Nat) (f : Die → Die) : (s.modDie d f).nvme = s.nvme := rfl
@[simp] theorem modDie_ports (s : State) (d : Nat) (f : Die → Die) : (s.modDie d f).ports = s.ports := rfl
@[simp] theorem modDie_links (s : State) (d : Nat) (f : Die → Die) : (s.modDie d f).links = s.links := rfl
@[simp] theorem modDie_peat (s : State) (d : Nat) (f : Die → Die) : (s.modDie d f).peat = s.peat := rfl
@[simp] theorem modDie_hostOut (s : State) (d : Nat) (f : Die → Die) : (s.modDie d f).hostOut = s.hostOut := rfl
@[simp] theorem modDie_hostWait (s : State) (d : Nat) (f : Die → Die) : (s.modDie d f).hostWait = s.hostWait := rfl
@[simp] theorem modDie_chans (s : State) (d : Nat) (f : Die → Die) : (s.modDie d f).chans = s.chans := rfl
@[simp] theorem modDie_boot (s : State) (d : Nat) (f : Die → Die) : (s.modDie d f).boot = s.boot := rfl
@[simp] theorem modDie_cur (s : State) (d : Nat) (f : Die → Die) : (s.modDie d f).cur = s.cur := rfl
@[simp] theorem modDie_due (s : State) (d : Nat) (f : Die → Die) : (s.modDie d f).due = s.due := rfl
@[simp] theorem modDie_inputs (s : State) (d : Nat) (f : Die → Die) : (s.modDie d f).inputs = s.inputs := rfl
@[simp] theorem modDie_tick (s : State) (d : Nat) (f : Die → Die) : (s.modDie d f).tick = s.tick := rfl
@[simp] theorem modDie_fresh (s : State) (d : Nat) (f : Die → Die) : (s.modDie d f).fresh = s.fresh := rfl
@[simp] theorem modDie_moving (s : State) (d : Nat) (f : Die → Die) : (s.modDie d f).moving = s.moving := rfl
@[simp] theorem modDie_formed (s : State) (d : Nat) (f : Die → Die) : (s.modDie d f).formed = s.formed := rfl

@[simp] theorem modCluster_mem (s : State) (c : Nat) (f : Cluster → Cluster) : (s.modCluster c f).mem = s.mem := rfl
@[simp] theorem modCluster_poison (s : State) (c : Nat) (f : Cluster → Cluster) : (s.modCluster c f).poison = s.poison := rfl
@[simp] theorem modCluster_groups (s : State) (c : Nat) (f : Cluster → Cluster) : (s.modCluster c f).groups = s.groups := rfl
@[simp] theorem modCluster_queues (s : State) (c : Nat) (f : Cluster → Cluster) : (s.modCluster c f).queues = s.queues := rfl
@[simp] theorem modCluster_nextQueue (s : State) (c : Nat) (f : Cluster → Cluster) : (s.modCluster c f).nextQueue = s.nextQueue := rfl
@[simp] theorem modCluster_cores (s : State) (c : Nat) (f : Cluster → Cluster) : (s.modCluster c f).cores = s.cores := rfl
@[simp] theorem modCluster_caches (s : State) (c : Nat) (f : Cluster → Cluster) : (s.modCluster c f).caches = s.caches := rfl
@[simp] theorem modCluster_dies (s : State) (c : Nat) (f : Cluster → Cluster) : (s.modCluster c f).dies = s.dies := rfl
@[simp] theorem modCluster_grids (s : State) (c : Nat) (f : Cluster → Cluster) : (s.modCluster c f).grids = s.grids := rfl
@[simp] theorem modCluster_rejections (s : State) (c : Nat) (f : Cluster → Cluster) : (s.modCluster c f).rejections = s.rejections := rfl
@[simp] theorem modCluster_answers (s : State) (c : Nat) (f : Cluster → Cluster) : (s.modCluster c f).answers = s.answers := rfl
@[simp] theorem modCluster_nvme (s : State) (c : Nat) (f : Cluster → Cluster) : (s.modCluster c f).nvme = s.nvme := rfl
@[simp] theorem modCluster_ports (s : State) (c : Nat) (f : Cluster → Cluster) : (s.modCluster c f).ports = s.ports := rfl
@[simp] theorem modCluster_links (s : State) (c : Nat) (f : Cluster → Cluster) : (s.modCluster c f).links = s.links := rfl
@[simp] theorem modCluster_peat (s : State) (c : Nat) (f : Cluster → Cluster) : (s.modCluster c f).peat = s.peat := rfl
@[simp] theorem modCluster_hostOut (s : State) (c : Nat) (f : Cluster → Cluster) : (s.modCluster c f).hostOut = s.hostOut := rfl
@[simp] theorem modCluster_hostWait (s : State) (c : Nat) (f : Cluster → Cluster) : (s.modCluster c f).hostWait = s.hostWait := rfl
@[simp] theorem modCluster_chans (s : State) (c : Nat) (f : Cluster → Cluster) : (s.modCluster c f).chans = s.chans := rfl
@[simp] theorem modCluster_boot (s : State) (c : Nat) (f : Cluster → Cluster) : (s.modCluster c f).boot = s.boot := rfl
@[simp] theorem modCluster_cur (s : State) (c : Nat) (f : Cluster → Cluster) : (s.modCluster c f).cur = s.cur := rfl
@[simp] theorem modCluster_due (s : State) (c : Nat) (f : Cluster → Cluster) : (s.modCluster c f).due = s.due := rfl
@[simp] theorem modCluster_inputs (s : State) (c : Nat) (f : Cluster → Cluster) : (s.modCluster c f).inputs = s.inputs := rfl
@[simp] theorem modCluster_tick (s : State) (c : Nat) (f : Cluster → Cluster) : (s.modCluster c f).tick = s.tick := rfl
@[simp] theorem modCluster_fresh (s : State) (c : Nat) (f : Cluster → Cluster) : (s.modCluster c f).fresh = s.fresh := rfl
@[simp] theorem modCluster_moving (s : State) (c : Nat) (f : Cluster → Cluster) : (s.modCluster c f).moving = s.moving := rfl
@[simp] theorem modCluster_formed (s : State) (c : Nat) (f : Cluster → Cluster) : (s.modCluster c f).formed = s.formed := rfl

@[simp] theorem modSvc_mem (s : State) (c : Nat) (f : Svc → Svc) : (s.modSvc c f).mem = s.mem := rfl
@[simp] theorem modSvc_poison (s : State) (c : Nat) (f : Svc → Svc) : (s.modSvc c f).poison = s.poison := rfl
@[simp] theorem modSvc_groups (s : State) (c : Nat) (f : Svc → Svc) : (s.modSvc c f).groups = s.groups := rfl
@[simp] theorem modSvc_queues (s : State) (c : Nat) (f : Svc → Svc) : (s.modSvc c f).queues = s.queues := rfl
@[simp] theorem modSvc_nextQueue (s : State) (c : Nat) (f : Svc → Svc) : (s.modSvc c f).nextQueue = s.nextQueue := rfl
@[simp] theorem modSvc_cores (s : State) (c : Nat) (f : Svc → Svc) : (s.modSvc c f).cores = s.cores := rfl
@[simp] theorem modSvc_caches (s : State) (c : Nat) (f : Svc → Svc) : (s.modSvc c f).caches = s.caches := rfl
@[simp] theorem modSvc_dies (s : State) (c : Nat) (f : Svc → Svc) : (s.modSvc c f).dies = s.dies := rfl
@[simp] theorem modSvc_grids (s : State) (c : Nat) (f : Svc → Svc) : (s.modSvc c f).grids = s.grids := rfl
@[simp] theorem modSvc_rejections (s : State) (c : Nat) (f : Svc → Svc) : (s.modSvc c f).rejections = s.rejections := rfl
@[simp] theorem modSvc_answers (s : State) (c : Nat) (f : Svc → Svc) : (s.modSvc c f).answers = s.answers := rfl
@[simp] theorem modSvc_nvme (s : State) (c : Nat) (f : Svc → Svc) : (s.modSvc c f).nvme = s.nvme := rfl
@[simp] theorem modSvc_ports (s : State) (c : Nat) (f : Svc → Svc) : (s.modSvc c f).ports = s.ports := rfl
@[simp] theorem modSvc_links (s : State) (c : Nat) (f : Svc → Svc) : (s.modSvc c f).links = s.links := rfl
@[simp] theorem modSvc_peat (s : State) (c : Nat) (f : Svc → Svc) : (s.modSvc c f).peat = s.peat := rfl
@[simp] theorem modSvc_hostOut (s : State) (c : Nat) (f : Svc → Svc) : (s.modSvc c f).hostOut = s.hostOut := rfl
@[simp] theorem modSvc_hostWait (s : State) (c : Nat) (f : Svc → Svc) : (s.modSvc c f).hostWait = s.hostWait := rfl
@[simp] theorem modSvc_chans (s : State) (c : Nat) (f : Svc → Svc) : (s.modSvc c f).chans = s.chans := rfl
@[simp] theorem modSvc_boot (s : State) (c : Nat) (f : Svc → Svc) : (s.modSvc c f).boot = s.boot := rfl
@[simp] theorem modSvc_cur (s : State) (c : Nat) (f : Svc → Svc) : (s.modSvc c f).cur = s.cur := rfl
@[simp] theorem modSvc_due (s : State) (c : Nat) (f : Svc → Svc) : (s.modSvc c f).due = s.due := rfl
@[simp] theorem modSvc_inputs (s : State) (c : Nat) (f : Svc → Svc) : (s.modSvc c f).inputs = s.inputs := rfl
@[simp] theorem modSvc_tick (s : State) (c : Nat) (f : Svc → Svc) : (s.modSvc c f).tick = s.tick := rfl
@[simp] theorem modSvc_fresh (s : State) (c : Nat) (f : Svc → Svc) : (s.modSvc c f).fresh = s.fresh := rfl
@[simp] theorem modSvc_moving (s : State) (c : Nat) (f : Svc → Svc) : (s.modSvc c f).moving = s.moving := rfl
@[simp] theorem modSvc_formed (s : State) (c : Nat) (f : Svc → Svc) : (s.modSvc c f).formed = s.formed := rfl

@[simp] theorem modCore_mem (s : State) (k : Nat) (f : Core → Core) : (s.modCore k f).mem = s.mem := rfl
@[simp] theorem modCore_poison (s : State) (k : Nat) (f : Core → Core) : (s.modCore k f).poison = s.poison := rfl
@[simp] theorem modCore_groups (s : State) (k : Nat) (f : Core → Core) : (s.modCore k f).groups = s.groups := rfl
@[simp] theorem modCore_queues (s : State) (k : Nat) (f : Core → Core) : (s.modCore k f).queues = s.queues := rfl
@[simp] theorem modCore_nextQueue (s : State) (k : Nat) (f : Core → Core) : (s.modCore k f).nextQueue = s.nextQueue := rfl
@[simp] theorem modCore_caches (s : State) (k : Nat) (f : Core → Core) : (s.modCore k f).caches = s.caches := rfl
@[simp] theorem modCore_clusters (s : State) (k : Nat) (f : Core → Core) : (s.modCore k f).clusters = s.clusters := rfl
@[simp] theorem modCore_dies (s : State) (k : Nat) (f : Core → Core) : (s.modCore k f).dies = s.dies := rfl
@[simp] theorem modCore_grids (s : State) (k : Nat) (f : Core → Core) : (s.modCore k f).grids = s.grids := rfl
@[simp] theorem modCore_rejections (s : State) (k : Nat) (f : Core → Core) : (s.modCore k f).rejections = s.rejections := rfl
@[simp] theorem modCore_answers (s : State) (k : Nat) (f : Core → Core) : (s.modCore k f).answers = s.answers := rfl
@[simp] theorem modCore_nvme (s : State) (k : Nat) (f : Core → Core) : (s.modCore k f).nvme = s.nvme := rfl
@[simp] theorem modCore_ports (s : State) (k : Nat) (f : Core → Core) : (s.modCore k f).ports = s.ports := rfl
@[simp] theorem modCore_links (s : State) (k : Nat) (f : Core → Core) : (s.modCore k f).links = s.links := rfl
@[simp] theorem modCore_peat (s : State) (k : Nat) (f : Core → Core) : (s.modCore k f).peat = s.peat := rfl
@[simp] theorem modCore_hostOut (s : State) (k : Nat) (f : Core → Core) : (s.modCore k f).hostOut = s.hostOut := rfl
@[simp] theorem modCore_hostWait (s : State) (k : Nat) (f : Core → Core) : (s.modCore k f).hostWait = s.hostWait := rfl
@[simp] theorem modCore_chans (s : State) (k : Nat) (f : Core → Core) : (s.modCore k f).chans = s.chans := rfl
@[simp] theorem modCore_boot (s : State) (k : Nat) (f : Core → Core) : (s.modCore k f).boot = s.boot := rfl
@[simp] theorem modCore_cur (s : State) (k : Nat) (f : Core → Core) : (s.modCore k f).cur = s.cur := rfl
@[simp] theorem modCore_due (s : State) (k : Nat) (f : Core → Core) : (s.modCore k f).due = s.due := rfl
@[simp] theorem modCore_inputs (s : State) (k : Nat) (f : Core → Core) : (s.modCore k f).inputs = s.inputs := rfl
@[simp] theorem modCore_tick (s : State) (k : Nat) (f : Core → Core) : (s.modCore k f).tick = s.tick := rfl
@[simp] theorem modCore_fresh (s : State) (k : Nat) (f : Core → Core) : (s.modCore k f).fresh = s.fresh := rfl
@[simp] theorem modCore_moving (s : State) (k : Nat) (f : Core → Core) : (s.modCore k f).moving = s.moving := rfl
@[simp] theorem modCore_formed (s : State) (k : Nat) (f : Core → Core) : (s.modCore k f).formed = s.formed := rfl

@[simp] theorem modCache_mem (s : State) (k : Nat) (f : Cache → Cache) : (s.modCache k f).mem = s.mem := rfl
@[simp] theorem modCache_poison (s : State) (k : Nat) (f : Cache → Cache) : (s.modCache k f).poison = s.poison := rfl
@[simp] theorem modCache_groups (s : State) (k : Nat) (f : Cache → Cache) : (s.modCache k f).groups = s.groups := rfl
@[simp] theorem modCache_queues (s : State) (k : Nat) (f : Cache → Cache) : (s.modCache k f).queues = s.queues := rfl
@[simp] theorem modCache_nextQueue (s : State) (k : Nat) (f : Cache → Cache) : (s.modCache k f).nextQueue = s.nextQueue := rfl
@[simp] theorem modCache_cores (s : State) (k : Nat) (f : Cache → Cache) : (s.modCache k f).cores = s.cores := rfl
@[simp] theorem modCache_clusters (s : State) (k : Nat) (f : Cache → Cache) : (s.modCache k f).clusters = s.clusters := rfl
@[simp] theorem modCache_dies (s : State) (k : Nat) (f : Cache → Cache) : (s.modCache k f).dies = s.dies := rfl
@[simp] theorem modCache_grids (s : State) (k : Nat) (f : Cache → Cache) : (s.modCache k f).grids = s.grids := rfl
@[simp] theorem modCache_rejections (s : State) (k : Nat) (f : Cache → Cache) : (s.modCache k f).rejections = s.rejections := rfl
@[simp] theorem modCache_answers (s : State) (k : Nat) (f : Cache → Cache) : (s.modCache k f).answers = s.answers := rfl
@[simp] theorem modCache_nvme (s : State) (k : Nat) (f : Cache → Cache) : (s.modCache k f).nvme = s.nvme := rfl
@[simp] theorem modCache_ports (s : State) (k : Nat) (f : Cache → Cache) : (s.modCache k f).ports = s.ports := rfl
@[simp] theorem modCache_links (s : State) (k : Nat) (f : Cache → Cache) : (s.modCache k f).links = s.links := rfl
@[simp] theorem modCache_peat (s : State) (k : Nat) (f : Cache → Cache) : (s.modCache k f).peat = s.peat := rfl
@[simp] theorem modCache_hostOut (s : State) (k : Nat) (f : Cache → Cache) : (s.modCache k f).hostOut = s.hostOut := rfl
@[simp] theorem modCache_hostWait (s : State) (k : Nat) (f : Cache → Cache) : (s.modCache k f).hostWait = s.hostWait := rfl
@[simp] theorem modCache_chans (s : State) (k : Nat) (f : Cache → Cache) : (s.modCache k f).chans = s.chans := rfl
@[simp] theorem modCache_boot (s : State) (k : Nat) (f : Cache → Cache) : (s.modCache k f).boot = s.boot := rfl
@[simp] theorem modCache_cur (s : State) (k : Nat) (f : Cache → Cache) : (s.modCache k f).cur = s.cur := rfl
@[simp] theorem modCache_due (s : State) (k : Nat) (f : Cache → Cache) : (s.modCache k f).due = s.due := rfl
@[simp] theorem modCache_inputs (s : State) (k : Nat) (f : Cache → Cache) : (s.modCache k f).inputs = s.inputs := rfl
@[simp] theorem modCache_tick (s : State) (k : Nat) (f : Cache → Cache) : (s.modCache k f).tick = s.tick := rfl
@[simp] theorem modCache_fresh (s : State) (k : Nat) (f : Cache → Cache) : (s.modCache k f).fresh = s.fresh := rfl
@[simp] theorem modCache_moving (s : State) (k : Nat) (f : Cache → Cache) : (s.modCache k f).moving = s.moving := rfl
@[simp] theorem modCache_formed (s : State) (k : Nat) (f : Cache → Cache) : (s.modCache k f).formed = s.formed := rfl

@[simp] theorem modGroup_mem (s : State) (g : Nat) (f : Group → Group) : (s.modGroup g f).mem = s.mem := by unfold modGroup; split <;> rfl
@[simp] theorem modGroup_poison (s : State) (g : Nat) (f : Group → Group) : (s.modGroup g f).poison = s.poison := by unfold modGroup; split <;> rfl
@[simp] theorem modGroup_queues (s : State) (g : Nat) (f : Group → Group) : (s.modGroup g f).queues = s.queues := by unfold modGroup; split <;> rfl
@[simp] theorem modGroup_nextQueue (s : State) (g : Nat) (f : Group → Group) : (s.modGroup g f).nextQueue = s.nextQueue := by unfold modGroup; split <;> rfl
@[simp] theorem modGroup_cores (s : State) (g : Nat) (f : Group → Group) : (s.modGroup g f).cores = s.cores := by unfold modGroup; split <;> rfl
@[simp] theorem modGroup_caches (s : State) (g : Nat) (f : Group → Group) : (s.modGroup g f).caches = s.caches := by unfold modGroup; split <;> rfl
@[simp] theorem modGroup_clusters (s : State) (g : Nat) (f : Group → Group) : (s.modGroup g f).clusters = s.clusters := by unfold modGroup; split <;> rfl
@[simp] theorem modGroup_dies (s : State) (g : Nat) (f : Group → Group) : (s.modGroup g f).dies = s.dies := by unfold modGroup; split <;> rfl
@[simp] theorem modGroup_grids (s : State) (g : Nat) (f : Group → Group) : (s.modGroup g f).grids = s.grids := by unfold modGroup; split <;> rfl
@[simp] theorem modGroup_rejections (s : State) (g : Nat) (f : Group → Group) : (s.modGroup g f).rejections = s.rejections := by unfold modGroup; split <;> rfl
@[simp] theorem modGroup_answers (s : State) (g : Nat) (f : Group → Group) : (s.modGroup g f).answers = s.answers := by unfold modGroup; split <;> rfl
@[simp] theorem modGroup_nvme (s : State) (g : Nat) (f : Group → Group) : (s.modGroup g f).nvme = s.nvme := by unfold modGroup; split <;> rfl
@[simp] theorem modGroup_ports (s : State) (g : Nat) (f : Group → Group) : (s.modGroup g f).ports = s.ports := by unfold modGroup; split <;> rfl
@[simp] theorem modGroup_links (s : State) (g : Nat) (f : Group → Group) : (s.modGroup g f).links = s.links := by unfold modGroup; split <;> rfl
@[simp] theorem modGroup_peat (s : State) (g : Nat) (f : Group → Group) : (s.modGroup g f).peat = s.peat := by unfold modGroup; split <;> rfl
@[simp] theorem modGroup_hostOut (s : State) (g : Nat) (f : Group → Group) : (s.modGroup g f).hostOut = s.hostOut := by unfold modGroup; split <;> rfl
@[simp] theorem modGroup_hostWait (s : State) (g : Nat) (f : Group → Group) : (s.modGroup g f).hostWait = s.hostWait := by unfold modGroup; split <;> rfl
@[simp] theorem modGroup_chans (s : State) (g : Nat) (f : Group → Group) : (s.modGroup g f).chans = s.chans := by unfold modGroup; split <;> rfl
@[simp] theorem modGroup_boot (s : State) (g : Nat) (f : Group → Group) : (s.modGroup g f).boot = s.boot := by unfold modGroup; split <;> rfl
@[simp] theorem modGroup_cur (s : State) (g : Nat) (f : Group → Group) : (s.modGroup g f).cur = s.cur := by unfold modGroup; split <;> rfl
@[simp] theorem modGroup_due (s : State) (g : Nat) (f : Group → Group) : (s.modGroup g f).due = s.due := by unfold modGroup; split <;> rfl
@[simp] theorem modGroup_inputs (s : State) (g : Nat) (f : Group → Group) : (s.modGroup g f).inputs = s.inputs := by unfold modGroup; split <;> rfl
@[simp] theorem modGroup_tick (s : State) (g : Nat) (f : Group → Group) : (s.modGroup g f).tick = s.tick := by unfold modGroup; split <;> rfl
@[simp] theorem modGroup_fresh (s : State) (g : Nat) (f : Group → Group) : (s.modGroup g f).fresh = s.fresh := by unfold modGroup; split <;> rfl
@[simp] theorem modGroup_moving (s : State) (g : Nat) (f : Group → Group) : (s.modGroup g f).moving = s.moving := by unfold modGroup; split <;> rfl
@[simp] theorem modGroup_formed (s : State) (g : Nat) (f : Group → Group) : (s.modGroup g f).formed = s.formed := by unfold modGroup; split <;> rfl

@[simp] theorem modQueue_mem (s : State) (q : Nat) (f : StoreQ → StoreQ) : (s.modQueue q f).mem = s.mem := by unfold modQueue; split <;> rfl
@[simp] theorem modQueue_poison (s : State) (q : Nat) (f : StoreQ → StoreQ) : (s.modQueue q f).poison = s.poison := by unfold modQueue; split <;> rfl
@[simp] theorem modQueue_groups (s : State) (q : Nat) (f : StoreQ → StoreQ) : (s.modQueue q f).groups = s.groups := by unfold modQueue; split <;> rfl
@[simp] theorem modQueue_nextQueue (s : State) (q : Nat) (f : StoreQ → StoreQ) : (s.modQueue q f).nextQueue = s.nextQueue := by unfold modQueue; split <;> rfl
@[simp] theorem modQueue_cores (s : State) (q : Nat) (f : StoreQ → StoreQ) : (s.modQueue q f).cores = s.cores := by unfold modQueue; split <;> rfl
@[simp] theorem modQueue_caches (s : State) (q : Nat) (f : StoreQ → StoreQ) : (s.modQueue q f).caches = s.caches := by unfold modQueue; split <;> rfl
@[simp] theorem modQueue_clusters (s : State) (q : Nat) (f : StoreQ → StoreQ) : (s.modQueue q f).clusters = s.clusters := by unfold modQueue; split <;> rfl
@[simp] theorem modQueue_dies (s : State) (q : Nat) (f : StoreQ → StoreQ) : (s.modQueue q f).dies = s.dies := by unfold modQueue; split <;> rfl
@[simp] theorem modQueue_grids (s : State) (q : Nat) (f : StoreQ → StoreQ) : (s.modQueue q f).grids = s.grids := by unfold modQueue; split <;> rfl
@[simp] theorem modQueue_rejections (s : State) (q : Nat) (f : StoreQ → StoreQ) : (s.modQueue q f).rejections = s.rejections := by unfold modQueue; split <;> rfl
@[simp] theorem modQueue_answers (s : State) (q : Nat) (f : StoreQ → StoreQ) : (s.modQueue q f).answers = s.answers := by unfold modQueue; split <;> rfl
@[simp] theorem modQueue_nvme (s : State) (q : Nat) (f : StoreQ → StoreQ) : (s.modQueue q f).nvme = s.nvme := by unfold modQueue; split <;> rfl
@[simp] theorem modQueue_ports (s : State) (q : Nat) (f : StoreQ → StoreQ) : (s.modQueue q f).ports = s.ports := by unfold modQueue; split <;> rfl
@[simp] theorem modQueue_links (s : State) (q : Nat) (f : StoreQ → StoreQ) : (s.modQueue q f).links = s.links := by unfold modQueue; split <;> rfl
@[simp] theorem modQueue_peat (s : State) (q : Nat) (f : StoreQ → StoreQ) : (s.modQueue q f).peat = s.peat := by unfold modQueue; split <;> rfl
@[simp] theorem modQueue_hostOut (s : State) (q : Nat) (f : StoreQ → StoreQ) : (s.modQueue q f).hostOut = s.hostOut := by unfold modQueue; split <;> rfl
@[simp] theorem modQueue_hostWait (s : State) (q : Nat) (f : StoreQ → StoreQ) : (s.modQueue q f).hostWait = s.hostWait := by unfold modQueue; split <;> rfl
@[simp] theorem modQueue_chans (s : State) (q : Nat) (f : StoreQ → StoreQ) : (s.modQueue q f).chans = s.chans := by unfold modQueue; split <;> rfl
@[simp] theorem modQueue_boot (s : State) (q : Nat) (f : StoreQ → StoreQ) : (s.modQueue q f).boot = s.boot := by unfold modQueue; split <;> rfl
@[simp] theorem modQueue_cur (s : State) (q : Nat) (f : StoreQ → StoreQ) : (s.modQueue q f).cur = s.cur := by unfold modQueue; split <;> rfl
@[simp] theorem modQueue_due (s : State) (q : Nat) (f : StoreQ → StoreQ) : (s.modQueue q f).due = s.due := by unfold modQueue; split <;> rfl
@[simp] theorem modQueue_inputs (s : State) (q : Nat) (f : StoreQ → StoreQ) : (s.modQueue q f).inputs = s.inputs := by unfold modQueue; split <;> rfl
@[simp] theorem modQueue_tick (s : State) (q : Nat) (f : StoreQ → StoreQ) : (s.modQueue q f).tick = s.tick := by unfold modQueue; split <;> rfl
@[simp] theorem modQueue_fresh (s : State) (q : Nat) (f : StoreQ → StoreQ) : (s.modQueue q f).fresh = s.fresh := by unfold modQueue; split <;> rfl
@[simp] theorem modQueue_moving (s : State) (q : Nat) (f : StoreQ → StoreQ) : (s.modQueue q f).moving = s.moving := by unfold modQueue; split <;> rfl
@[simp] theorem modQueue_formed (s : State) (q : Nat) (f : StoreQ → StoreQ) : (s.modQueue q f).formed = s.formed := by unfold modQueue; split <;> rfl

@[simp] theorem modGrid_mem (s : State) (g : Nat) (f : Grid → Grid) : (s.modGrid g f).mem = s.mem := by unfold modGrid; split <;> rfl
@[simp] theorem modGrid_poison (s : State) (g : Nat) (f : Grid → Grid) : (s.modGrid g f).poison = s.poison := by unfold modGrid; split <;> rfl
@[simp] theorem modGrid_groups (s : State) (g : Nat) (f : Grid → Grid) : (s.modGrid g f).groups = s.groups := by unfold modGrid; split <;> rfl
@[simp] theorem modGrid_queues (s : State) (g : Nat) (f : Grid → Grid) : (s.modGrid g f).queues = s.queues := by unfold modGrid; split <;> rfl
@[simp] theorem modGrid_nextQueue (s : State) (g : Nat) (f : Grid → Grid) : (s.modGrid g f).nextQueue = s.nextQueue := by unfold modGrid; split <;> rfl
@[simp] theorem modGrid_cores (s : State) (g : Nat) (f : Grid → Grid) : (s.modGrid g f).cores = s.cores := by unfold modGrid; split <;> rfl
@[simp] theorem modGrid_caches (s : State) (g : Nat) (f : Grid → Grid) : (s.modGrid g f).caches = s.caches := by unfold modGrid; split <;> rfl
@[simp] theorem modGrid_clusters (s : State) (g : Nat) (f : Grid → Grid) : (s.modGrid g f).clusters = s.clusters := by unfold modGrid; split <;> rfl
@[simp] theorem modGrid_dies (s : State) (g : Nat) (f : Grid → Grid) : (s.modGrid g f).dies = s.dies := by unfold modGrid; split <;> rfl
@[simp] theorem modGrid_rejections (s : State) (g : Nat) (f : Grid → Grid) : (s.modGrid g f).rejections = s.rejections := by unfold modGrid; split <;> rfl
@[simp] theorem modGrid_answers (s : State) (g : Nat) (f : Grid → Grid) : (s.modGrid g f).answers = s.answers := by unfold modGrid; split <;> rfl
@[simp] theorem modGrid_nvme (s : State) (g : Nat) (f : Grid → Grid) : (s.modGrid g f).nvme = s.nvme := by unfold modGrid; split <;> rfl
@[simp] theorem modGrid_ports (s : State) (g : Nat) (f : Grid → Grid) : (s.modGrid g f).ports = s.ports := by unfold modGrid; split <;> rfl
@[simp] theorem modGrid_links (s : State) (g : Nat) (f : Grid → Grid) : (s.modGrid g f).links = s.links := by unfold modGrid; split <;> rfl
@[simp] theorem modGrid_peat (s : State) (g : Nat) (f : Grid → Grid) : (s.modGrid g f).peat = s.peat := by unfold modGrid; split <;> rfl
@[simp] theorem modGrid_hostOut (s : State) (g : Nat) (f : Grid → Grid) : (s.modGrid g f).hostOut = s.hostOut := by unfold modGrid; split <;> rfl
@[simp] theorem modGrid_hostWait (s : State) (g : Nat) (f : Grid → Grid) : (s.modGrid g f).hostWait = s.hostWait := by unfold modGrid; split <;> rfl
@[simp] theorem modGrid_chans (s : State) (g : Nat) (f : Grid → Grid) : (s.modGrid g f).chans = s.chans := by unfold modGrid; split <;> rfl
@[simp] theorem modGrid_boot (s : State) (g : Nat) (f : Grid → Grid) : (s.modGrid g f).boot = s.boot := by unfold modGrid; split <;> rfl
@[simp] theorem modGrid_cur (s : State) (g : Nat) (f : Grid → Grid) : (s.modGrid g f).cur = s.cur := by unfold modGrid; split <;> rfl
@[simp] theorem modGrid_due (s : State) (g : Nat) (f : Grid → Grid) : (s.modGrid g f).due = s.due := by unfold modGrid; split <;> rfl
@[simp] theorem modGrid_inputs (s : State) (g : Nat) (f : Grid → Grid) : (s.modGrid g f).inputs = s.inputs := by unfold modGrid; split <;> rfl
@[simp] theorem modGrid_tick (s : State) (g : Nat) (f : Grid → Grid) : (s.modGrid g f).tick = s.tick := by unfold modGrid; split <;> rfl
@[simp] theorem modGrid_fresh (s : State) (g : Nat) (f : Grid → Grid) : (s.modGrid g f).fresh = s.fresh := by unfold modGrid; split <;> rfl
@[simp] theorem modGrid_moving (s : State) (g : Nat) (f : Grid → Grid) : (s.modGrid g f).moving = s.moving := by unfold modGrid; split <;> rfl
@[simp] theorem modGrid_formed (s : State) (g : Nat) (f : Grid → Grid) : (s.modGrid g f).formed = s.formed := by unfold modGrid; split <;> rfl

@[simp] theorem modGang_mem (s : State) (g n : Nat) (f : Gang → Gang) : (s.modGang g n f).mem = s.mem := modGrid_mem ..
@[simp] theorem modGang_poison (s : State) (g n : Nat) (f : Gang → Gang) : (s.modGang g n f).poison = s.poison := modGrid_poison ..
@[simp] theorem modGang_groups (s : State) (g n : Nat) (f : Gang → Gang) : (s.modGang g n f).groups = s.groups := modGrid_groups ..
@[simp] theorem modGang_queues (s : State) (g n : Nat) (f : Gang → Gang) : (s.modGang g n f).queues = s.queues := modGrid_queues ..
@[simp] theorem modGang_nextQueue (s : State) (g n : Nat) (f : Gang → Gang) : (s.modGang g n f).nextQueue = s.nextQueue := modGrid_nextQueue ..
@[simp] theorem modGang_cores (s : State) (g n : Nat) (f : Gang → Gang) : (s.modGang g n f).cores = s.cores := modGrid_cores ..
@[simp] theorem modGang_caches (s : State) (g n : Nat) (f : Gang → Gang) : (s.modGang g n f).caches = s.caches := modGrid_caches ..
@[simp] theorem modGang_clusters (s : State) (g n : Nat) (f : Gang → Gang) : (s.modGang g n f).clusters = s.clusters := modGrid_clusters ..
@[simp] theorem modGang_dies (s : State) (g n : Nat) (f : Gang → Gang) : (s.modGang g n f).dies = s.dies := modGrid_dies ..
@[simp] theorem modGang_rejections (s : State) (g n : Nat) (f : Gang → Gang) : (s.modGang g n f).rejections = s.rejections := modGrid_rejections ..
@[simp] theorem modGang_answers (s : State) (g n : Nat) (f : Gang → Gang) : (s.modGang g n f).answers = s.answers := modGrid_answers ..
@[simp] theorem modGang_nvme (s : State) (g n : Nat) (f : Gang → Gang) : (s.modGang g n f).nvme = s.nvme := modGrid_nvme ..
@[simp] theorem modGang_ports (s : State) (g n : Nat) (f : Gang → Gang) : (s.modGang g n f).ports = s.ports := modGrid_ports ..
@[simp] theorem modGang_links (s : State) (g n : Nat) (f : Gang → Gang) : (s.modGang g n f).links = s.links := modGrid_links ..
@[simp] theorem modGang_peat (s : State) (g n : Nat) (f : Gang → Gang) : (s.modGang g n f).peat = s.peat := modGrid_peat ..
@[simp] theorem modGang_hostOut (s : State) (g n : Nat) (f : Gang → Gang) : (s.modGang g n f).hostOut = s.hostOut := modGrid_hostOut ..
@[simp] theorem modGang_hostWait (s : State) (g n : Nat) (f : Gang → Gang) : (s.modGang g n f).hostWait = s.hostWait := modGrid_hostWait ..
@[simp] theorem modGang_chans (s : State) (g n : Nat) (f : Gang → Gang) : (s.modGang g n f).chans = s.chans := modGrid_chans ..
@[simp] theorem modGang_boot (s : State) (g n : Nat) (f : Gang → Gang) : (s.modGang g n f).boot = s.boot := modGrid_boot ..
@[simp] theorem modGang_cur (s : State) (g n : Nat) (f : Gang → Gang) : (s.modGang g n f).cur = s.cur := modGrid_cur ..
@[simp] theorem modGang_due (s : State) (g n : Nat) (f : Gang → Gang) : (s.modGang g n f).due = s.due := modGrid_due ..
@[simp] theorem modGang_inputs (s : State) (g n : Nat) (f : Gang → Gang) : (s.modGang g n f).inputs = s.inputs := modGrid_inputs ..
@[simp] theorem modGang_tick (s : State) (g n : Nat) (f : Gang → Gang) : (s.modGang g n f).tick = s.tick := modGrid_tick ..
@[simp] theorem modGang_fresh (s : State) (g n : Nat) (f : Gang → Gang) : (s.modGang g n f).fresh = s.fresh := modGrid_fresh ..
@[simp] theorem modGang_moving (s : State) (g n : Nat) (f : Gang → Gang) : (s.modGang g n f).moving = s.moving := modGrid_moving ..
@[simp] theorem modGang_formed (s : State) (g n : Nat) (f : Gang → Gang) : (s.modGang g n f).formed = s.formed := modGrid_formed ..

@[simp] theorem addDue_mem (s : State) (e : Instr) : (s.addDue e).mem = s.mem := by unfold addDue; split <;> rfl
@[simp] theorem dropDue_mem (s : State) (e : Instr) : (s.dropDue e).mem = s.mem := rfl
@[simp] theorem addDue_poison (s : State) (e : Instr) : (s.addDue e).poison = s.poison := by unfold addDue; split <;> rfl
@[simp] theorem dropDue_poison (s : State) (e : Instr) : (s.dropDue e).poison = s.poison := rfl
@[simp] theorem addDue_groups (s : State) (e : Instr) : (s.addDue e).groups = s.groups := by unfold addDue; split <;> rfl
@[simp] theorem dropDue_groups (s : State) (e : Instr) : (s.dropDue e).groups = s.groups := rfl
@[simp] theorem addDue_queues (s : State) (e : Instr) : (s.addDue e).queues = s.queues := by unfold addDue; split <;> rfl
@[simp] theorem dropDue_queues (s : State) (e : Instr) : (s.dropDue e).queues = s.queues := rfl
@[simp] theorem addDue_nextQueue (s : State) (e : Instr) : (s.addDue e).nextQueue = s.nextQueue := by unfold addDue; split <;> rfl
@[simp] theorem dropDue_nextQueue (s : State) (e : Instr) : (s.dropDue e).nextQueue = s.nextQueue := rfl
@[simp] theorem addDue_cores (s : State) (e : Instr) : (s.addDue e).cores = s.cores := by unfold addDue; split <;> rfl
@[simp] theorem dropDue_cores (s : State) (e : Instr) : (s.dropDue e).cores = s.cores := rfl
@[simp] theorem addDue_caches (s : State) (e : Instr) : (s.addDue e).caches = s.caches := by unfold addDue; split <;> rfl
@[simp] theorem dropDue_caches (s : State) (e : Instr) : (s.dropDue e).caches = s.caches := rfl
@[simp] theorem addDue_clusters (s : State) (e : Instr) : (s.addDue e).clusters = s.clusters := by unfold addDue; split <;> rfl
@[simp] theorem dropDue_clusters (s : State) (e : Instr) : (s.dropDue e).clusters = s.clusters := rfl
@[simp] theorem addDue_dies (s : State) (e : Instr) : (s.addDue e).dies = s.dies := by unfold addDue; split <;> rfl
@[simp] theorem dropDue_dies (s : State) (e : Instr) : (s.dropDue e).dies = s.dies := rfl
@[simp] theorem addDue_grids (s : State) (e : Instr) : (s.addDue e).grids = s.grids := by unfold addDue; split <;> rfl
@[simp] theorem dropDue_grids (s : State) (e : Instr) : (s.dropDue e).grids = s.grids := rfl
@[simp] theorem addDue_rejections (s : State) (e : Instr) : (s.addDue e).rejections = s.rejections := by unfold addDue; split <;> rfl
@[simp] theorem dropDue_rejections (s : State) (e : Instr) : (s.dropDue e).rejections = s.rejections := rfl
@[simp] theorem addDue_answers (s : State) (e : Instr) : (s.addDue e).answers = s.answers := by unfold addDue; split <;> rfl
@[simp] theorem dropDue_answers (s : State) (e : Instr) : (s.dropDue e).answers = s.answers := rfl
@[simp] theorem addDue_nvme (s : State) (e : Instr) : (s.addDue e).nvme = s.nvme := by unfold addDue; split <;> rfl
@[simp] theorem dropDue_nvme (s : State) (e : Instr) : (s.dropDue e).nvme = s.nvme := rfl
@[simp] theorem addDue_ports (s : State) (e : Instr) : (s.addDue e).ports = s.ports := by unfold addDue; split <;> rfl
@[simp] theorem dropDue_ports (s : State) (e : Instr) : (s.dropDue e).ports = s.ports := rfl
@[simp] theorem addDue_links (s : State) (e : Instr) : (s.addDue e).links = s.links := by unfold addDue; split <;> rfl
@[simp] theorem dropDue_links (s : State) (e : Instr) : (s.dropDue e).links = s.links := rfl
@[simp] theorem addDue_peat (s : State) (e : Instr) : (s.addDue e).peat = s.peat := by unfold addDue; split <;> rfl
@[simp] theorem dropDue_peat (s : State) (e : Instr) : (s.dropDue e).peat = s.peat := rfl
@[simp] theorem addDue_hostOut (s : State) (e : Instr) : (s.addDue e).hostOut = s.hostOut := by unfold addDue; split <;> rfl
@[simp] theorem addDue_hostWait (s : State) (e : Instr) : (s.addDue e).hostWait = s.hostWait := by unfold addDue; split <;> rfl
@[simp] theorem dropDue_hostOut (s : State) (e : Instr) : (s.dropDue e).hostOut = s.hostOut := rfl
@[simp] theorem dropDue_hostWait (s : State) (e : Instr) : (s.dropDue e).hostWait = s.hostWait := rfl
@[simp] theorem addDue_chans (s : State) (e : Instr) : (s.addDue e).chans = s.chans := by unfold addDue; split <;> rfl
@[simp] theorem dropDue_chans (s : State) (e : Instr) : (s.dropDue e).chans = s.chans := rfl
@[simp] theorem addDue_boot (s : State) (e : Instr) : (s.addDue e).boot = s.boot := by unfold addDue; split <;> rfl
@[simp] theorem dropDue_boot (s : State) (e : Instr) : (s.dropDue e).boot = s.boot := rfl
@[simp] theorem addDue_cur (s : State) (e : Instr) : (s.addDue e).cur = s.cur := by unfold addDue; split <;> rfl
@[simp] theorem dropDue_cur (s : State) (e : Instr) : (s.dropDue e).cur = s.cur := rfl
@[simp] theorem addDue_inputs (s : State) (e : Instr) : (s.addDue e).inputs = s.inputs := by unfold addDue; split <;> rfl
@[simp] theorem dropDue_inputs (s : State) (e : Instr) : (s.dropDue e).inputs = s.inputs := rfl
@[simp] theorem addDue_tick (s : State) (e : Instr) : (s.addDue e).tick = s.tick := by unfold addDue; split <;> rfl
@[simp] theorem dropDue_tick (s : State) (e : Instr) : (s.dropDue e).tick = s.tick := rfl
@[simp] theorem addDue_fresh (s : State) (e : Instr) : (s.addDue e).fresh = s.fresh := by unfold addDue; split <;> rfl
@[simp] theorem addDue_moving (s : State) (e : Instr) : (s.addDue e).moving = s.moving := by unfold addDue; split <;> rfl
@[simp] theorem addDue_formed (s : State) (e : Instr) : (s.addDue e).formed = s.formed := by unfold addDue; split <;> rfl
@[simp] theorem dropDue_fresh (s : State) (e : Instr) : (s.dropDue e).fresh = s.fresh := rfl
@[simp] theorem dropDue_moving (s : State) (e : Instr) : (s.dropDue e).moving = s.moving := rfl
@[simp] theorem dropDue_formed (s : State) (e : Instr) : (s.dropDue e).formed = s.formed := rfl

@[simp] theorem writeByte_poison (s : State) (a : Nat) (b : Byte) : (s.writeByte a b).poison = s.poison := rfl
@[simp] theorem writeByte_groups (s : State) (a : Nat) (b : Byte) : (s.writeByte a b).groups = s.groups := rfl
@[simp] theorem writeByte_queues (s : State) (a : Nat) (b : Byte) : (s.writeByte a b).queues = s.queues := rfl
@[simp] theorem writeByte_nextQueue (s : State) (a : Nat) (b : Byte) : (s.writeByte a b).nextQueue = s.nextQueue := rfl
@[simp] theorem writeByte_cores (s : State) (a : Nat) (b : Byte) : (s.writeByte a b).cores = s.cores := rfl
@[simp] theorem writeByte_caches (s : State) (a : Nat) (b : Byte) : (s.writeByte a b).caches = s.caches := rfl
@[simp] theorem writeByte_clusters (s : State) (a : Nat) (b : Byte) : (s.writeByte a b).clusters = s.clusters := rfl
@[simp] theorem writeByte_dies (s : State) (a : Nat) (b : Byte) : (s.writeByte a b).dies = s.dies := rfl
@[simp] theorem writeByte_grids (s : State) (a : Nat) (b : Byte) : (s.writeByte a b).grids = s.grids := rfl
@[simp] theorem writeByte_rejections (s : State) (a : Nat) (b : Byte) : (s.writeByte a b).rejections = s.rejections := rfl
@[simp] theorem writeByte_answers (s : State) (a : Nat) (b : Byte) : (s.writeByte a b).answers = s.answers := rfl
@[simp] theorem writeByte_nvme (s : State) (a : Nat) (b : Byte) : (s.writeByte a b).nvme = s.nvme := rfl
@[simp] theorem writeByte_ports (s : State) (a : Nat) (b : Byte) : (s.writeByte a b).ports = s.ports := rfl
@[simp] theorem writeByte_links (s : State) (a : Nat) (b : Byte) : (s.writeByte a b).links = s.links := rfl
@[simp] theorem writeByte_peat (s : State) (a : Nat) (b : Byte) : (s.writeByte a b).peat = s.peat := rfl
@[simp] theorem writeByte_hostOut (s : State) (a : Nat) (b : Byte) : (s.writeByte a b).hostOut = s.hostOut := rfl
@[simp] theorem writeByte_hostWait (s : State) (a : Nat) (b : Byte) : (s.writeByte a b).hostWait = s.hostWait := rfl
@[simp] theorem writeByte_chans (s : State) (a : Nat) (b : Byte) : (s.writeByte a b).chans = s.chans := rfl
@[simp] theorem writeByte_boot (s : State) (a : Nat) (b : Byte) : (s.writeByte a b).boot = s.boot := rfl
@[simp] theorem writeByte_cur (s : State) (a : Nat) (b : Byte) : (s.writeByte a b).cur = s.cur := rfl
@[simp] theorem writeByte_due (s : State) (a : Nat) (b : Byte) : (s.writeByte a b).due = s.due := rfl
@[simp] theorem writeByte_inputs (s : State) (a : Nat) (b : Byte) : (s.writeByte a b).inputs = s.inputs := rfl
@[simp] theorem writeByte_tick (s : State) (a : Nat) (b : Byte) : (s.writeByte a b).tick = s.tick := rfl
@[simp] theorem writeByte_fresh (s : State) (a : Nat) (b : Byte) : (s.writeByte a b).fresh = s.fresh := rfl
@[simp] theorem writeByte_moving (s : State) (a : Nat) (b : Byte) : (s.writeByte a b).moving = s.moving := rfl
@[simp] theorem writeByte_formed (s : State) (a : Nat) (b : Byte) : (s.writeByte a b).formed = s.formed := rfl

@[simp] theorem writeBytes_poison (s : State) (a : Nat) (bs : List Byte) : (s.writeBytes a bs).poison = s.poison := by
  induction bs generalizing s a with
  | nil => rfl
  | cons b bs ih => simp [writeBytes, ih]
@[simp] theorem writeBytes_groups (s : State) (a : Nat) (bs : List Byte) : (s.writeBytes a bs).groups = s.groups := by
  induction bs generalizing s a with
  | nil => rfl
  | cons b bs ih => simp [writeBytes, ih]
@[simp] theorem writeBytes_queues (s : State) (a : Nat) (bs : List Byte) : (s.writeBytes a bs).queues = s.queues := by
  induction bs generalizing s a with
  | nil => rfl
  | cons b bs ih => simp [writeBytes, ih]
@[simp] theorem writeBytes_nextQueue (s : State) (a : Nat) (bs : List Byte) : (s.writeBytes a bs).nextQueue = s.nextQueue := by
  induction bs generalizing s a with
  | nil => rfl
  | cons b bs ih => simp [writeBytes, ih]
@[simp] theorem writeBytes_cores (s : State) (a : Nat) (bs : List Byte) : (s.writeBytes a bs).cores = s.cores := by
  induction bs generalizing s a with
  | nil => rfl
  | cons b bs ih => simp [writeBytes, ih]
@[simp] theorem writeBytes_caches (s : State) (a : Nat) (bs : List Byte) : (s.writeBytes a bs).caches = s.caches := by
  induction bs generalizing s a with
  | nil => rfl
  | cons b bs ih => simp [writeBytes, ih]
@[simp] theorem writeBytes_clusters (s : State) (a : Nat) (bs : List Byte) : (s.writeBytes a bs).clusters = s.clusters := by
  induction bs generalizing s a with
  | nil => rfl
  | cons b bs ih => simp [writeBytes, ih]
@[simp] theorem writeBytes_dies (s : State) (a : Nat) (bs : List Byte) : (s.writeBytes a bs).dies = s.dies := by
  induction bs generalizing s a with
  | nil => rfl
  | cons b bs ih => simp [writeBytes, ih]
@[simp] theorem writeBytes_grids (s : State) (a : Nat) (bs : List Byte) : (s.writeBytes a bs).grids = s.grids := by
  induction bs generalizing s a with
  | nil => rfl
  | cons b bs ih => simp [writeBytes, ih]
@[simp] theorem writeBytes_rejections (s : State) (a : Nat) (bs : List Byte) : (s.writeBytes a bs).rejections = s.rejections := by
  induction bs generalizing s a with
  | nil => rfl
  | cons b bs ih => simp [writeBytes, ih]
@[simp] theorem writeBytes_answers (s : State) (a : Nat) (bs : List Byte) : (s.writeBytes a bs).answers = s.answers := by
  induction bs generalizing s a with
  | nil => rfl
  | cons b bs ih => simp [writeBytes, ih]
@[simp] theorem writeBytes_nvme (s : State) (a : Nat) (bs : List Byte) : (s.writeBytes a bs).nvme = s.nvme := by
  induction bs generalizing s a with
  | nil => rfl
  | cons b bs ih => simp [writeBytes, ih]
@[simp] theorem writeBytes_ports (s : State) (a : Nat) (bs : List Byte) : (s.writeBytes a bs).ports = s.ports := by
  induction bs generalizing s a with
  | nil => rfl
  | cons b bs ih => simp [writeBytes, ih]
@[simp] theorem writeBytes_links (s : State) (a : Nat) (bs : List Byte) : (s.writeBytes a bs).links = s.links := by
  induction bs generalizing s a with
  | nil => rfl
  | cons b bs ih => simp [writeBytes, ih]
@[simp] theorem writeBytes_peat (s : State) (a : Nat) (bs : List Byte) : (s.writeBytes a bs).peat = s.peat := by
  induction bs generalizing s a with
  | nil => rfl
  | cons b bs ih => simp [writeBytes, ih]
@[simp] theorem writeBytes_hostOut (s : State) (a : Nat) (bs : List Byte) : (s.writeBytes a bs).hostOut = s.hostOut := by
  induction bs generalizing s a with
  | nil => rfl
  | cons b bs ih => simp [writeBytes, ih]
@[simp] theorem writeBytes_hostWait (s : State) (a : Nat) (bs : List Byte) : (s.writeBytes a bs).hostWait = s.hostWait := by
  induction bs generalizing s a with
  | nil => rfl
  | cons b bs ih => simp [writeBytes, ih]
@[simp] theorem writeBytes_chans (s : State) (a : Nat) (bs : List Byte) : (s.writeBytes a bs).chans = s.chans := by
  induction bs generalizing s a with
  | nil => rfl
  | cons b bs ih => simp [writeBytes, ih]
@[simp] theorem writeBytes_boot (s : State) (a : Nat) (bs : List Byte) : (s.writeBytes a bs).boot = s.boot := by
  induction bs generalizing s a with
  | nil => rfl
  | cons b bs ih => simp [writeBytes, ih]
@[simp] theorem writeBytes_cur (s : State) (a : Nat) (bs : List Byte) : (s.writeBytes a bs).cur = s.cur := by
  induction bs generalizing s a with
  | nil => rfl
  | cons b bs ih => simp [writeBytes, ih]
@[simp] theorem writeBytes_due (s : State) (a : Nat) (bs : List Byte) : (s.writeBytes a bs).due = s.due := by
  induction bs generalizing s a with
  | nil => rfl
  | cons b bs ih => simp [writeBytes, ih]
@[simp] theorem writeBytes_inputs (s : State) (a : Nat) (bs : List Byte) : (s.writeBytes a bs).inputs = s.inputs := by
  induction bs generalizing s a with
  | nil => rfl
  | cons b bs ih => simp [writeBytes, ih]
@[simp] theorem writeBytes_tick (s : State) (a : Nat) (bs : List Byte) : (s.writeBytes a bs).tick = s.tick := by
  induction bs generalizing s a with
  | nil => rfl
  | cons b bs ih => simp [writeBytes, ih]
@[simp] theorem writeBytes_fresh (s : State) (a : Nat) (bs : List Byte) : (s.writeBytes a bs).fresh = s.fresh := by
  induction bs generalizing s a with
  | nil => rfl
  | cons b bs ih => simp [writeBytes, ih]
@[simp] theorem writeBytes_moving (s : State) (a : Nat) (bs : List Byte) : (s.writeBytes a bs).moving = s.moving := by
  induction bs generalizing s a with
  | nil => rfl
  | cons b bs ih => simp [writeBytes, ih]
@[simp] theorem writeBytes_formed (s : State) (a : Nat) (bs : List Byte) : (s.writeBytes a bs).formed = s.formed := by
  induction bs generalizing s a with
  | nil => rfl
  | cons b bs ih => simp [writeBytes, ih]

/-! ### Parts -/

@[simp] theorem die_putDie (s : State) (d e : Nat) (x : Die) : (s.putDie d x).die e = if e = d then x else s.die e := by
  simp only [die, putDie, SMap.get_put]
@[simp] theorem die_modDie (s : State) (d e : Nat) (f : Die → Die) :
    (s.modDie d f).die e = if e = d then f (s.die d) else s.die e := die_putDie ..
@[simp] theorem cluster_putCluster (s : State) (c e : Nat) (x : Cluster) :
    (s.putCluster c x).cluster e = if e = c then x else s.cluster e := SMap.get_put ..
@[simp] theorem cluster_modCluster (s : State) (c e : Nat) (f : Cluster → Cluster) :
    (s.modCluster c f).cluster e = if e = c then f (s.cluster c) else s.cluster e := SMap.get_put ..
@[simp] theorem core_putCore (s : State) (k e : Nat) (x : Core) : (s.putCore k x).core e = if e = k then x else s.core e :=
  SMap.get_put ..
@[simp] theorem core_modCore (s : State) (k e : Nat) (f : Core → Core) :
    (s.modCore k f).core e = if e = k then f (s.core k) else s.core e := SMap.get_put ..
@[simp] theorem cache_putCache (s : State) (k e : Nat) (x : Cache) : (s.putCache k x).cache e = if e = k then x else s.cache e :=
  SMap.get_put ..
@[simp] theorem cache_modCache (s : State) (k e : Nat) (f : Cache → Cache) :
    (s.modCache k f).cache e = if e = k then f (s.cache k) else s.cache e := SMap.get_put ..
@[simp] theorem group?_putGroup (s : State) (g e : Nat) (x : Group) :
    (s.putGroup g x).group? e = if e = g then some x else s.group? e := SMap.find_put ..
@[simp] theorem queue?_putQueue (s : State) (q e : Nat) (x : StoreQ) :
    (s.putQueue q x).queue? e = if e = q then some x else s.queue? e := SMap.find_put ..
@[simp] theorem grid?_putGrid (s : State) (g e : Nat) (x : Grid) :
    (s.putGrid g x).grid? e = if e = g then some x else s.grid? e := SMap.find_put ..
@[simp] theorem group?_modGroup (s : State) (g e : Nat) (f : Group → Group) :
    (s.modGroup g f).group? e = if e = g then (s.group? g).map f else s.group? e := by
  unfold modGroup
  split
  · next x h => simp only [group?_putGroup, h, Option.map_some]
  · next h => split <;> simp_all
@[simp] theorem queue?_modQueue (s : State) (q e : Nat) (f : StoreQ → StoreQ) :
    (s.modQueue q f).queue? e = if e = q then (s.queue? q).map f else s.queue? e := by
  unfold modQueue
  split
  · next x h => simp only [queue?_putQueue, h, Option.map_some]
  · next h => split <;> simp_all
@[simp] theorem grid?_modGrid (s : State) (g e : Nat) (f : Grid → Grid) :
    (s.modGrid g f).grid? e = if e = g then (s.grid? g).map f else s.grid? e := by
  unfold modGrid
  split
  · next x h => simp only [grid?_putGrid, h, Option.map_some]
  · next h => split <;> simp_all

/-- An event set going is in flight, and no other event leaves or enters flight. -/
theorem mem_addDue (s : State) (e f : Instr) : f ∈ (s.addDue e).due ↔ f ∈ s.due ∨ f = e := by
  unfold addDue
  split
  · next h => exact ⟨.inl, fun hf => hf.elim id fun he => he ▸ h⟩
  · simp

end Sys2Proof.Machine.State
end

