-- ==== Sys2Proof/Laws/Issue.lean ====
section
/-!
SUPPORT. What issuing an instruction can do, said once: when it comes to its own effect, when it waits, when it traps,
and what the end of an instruction leaves in its group and in the rest of the module.
-/

namespace Sys2Proof.Machine

variable {s : State} {c : Ctx}

theorem ctx?_eq {s : State} {c : Ctx} (h : s.ctx? = some c) : s.group? c.gid = some c.g ∧ c.g.frags.find c.fid = some c.f := by
  unfold State.ctx? at h
  split at h
  · cases h
  · split at h
    · cases h
    · next g hg =>
      split at h
      · cases h
      · next f hf => cases h; exact ⟨hg, hf⟩

/-! ### The issue (R164 to R169) -/

theorem firstBad_eq_none {lanes : List Nat} {regs : List VRef} {g : Group} {bad : Nat → VRef → Bool}
    (h : ∀ l, ∀ r ∈ regs, bad l r = false) : firstBad lanes regs g bad = none := by
  simp only [firstBad, List.findSome?_eq_none_iff, Option.map_eq_none_iff, List.find?_eq_none]
  intro l _ r hr; simp [h l r hr]

theorem issueBy_goes {req : Ctx → Req} {eff : Ctx → State → State} (hc : s.ctx? = some c) (hw : c.f.windowOver = false)
    (ha : (req c).assigned = true) (hv : c.violation (req c).regs = none) (ho : c.outOfBounds (req c).regs = none)
    (hg : c.guarded (req c).guard ≠ 0) (hk : ∀ k, (req c).ctr = some k → s.counter c.gid c.g k < counterLimit k) :
    issueBy req eff s = .next (eff c s) := by
  simp only [issueBy, hc, hw, ha, hv, ho, hg, Bool.false_eq_true, if_false, Bool.not_true]
  split
  · next k hq => simp [hk k hq]
  · rfl

theorem windowOver_false (h : ∀ w ∈ c.f.windows, w.left ≠ 0) : c.f.windowOver = false := by
  simpa [Frag.windowOver] using h

theorem violation_none {regs : List Nat} (h : ∀ r ∈ regs, ∀ w ∈ c.f.windows, r ∉ w.regs) : c.violation (regs.map .v) = none := by
  have : firstBad c.activeLanes (regs.map VRef.v) c.g (fun l r => c.f.windows.any fun w => decide (r.num c.g l ∈ w.regs)) = none := by
    apply firstBad_eq_none
    intro l r hr
    obtain ⟨n, hn, rfl⟩ := List.mem_map.1 hr
    exact List.any_eq_false.2 fun w hw hd => h n hn w hw (of_decide_eq_true hd)
  simp [Ctx.violation, this]

theorem outOfBounds_none {regs : List Nat} (h : ∀ r ∈ regs, r < c.g.regs) : c.outOfBounds (regs.map .v) = none := by
  apply firstBad_eq_none
  intro l r hr
  obtain ⟨n, hn, rfl⟩ := List.mem_map.1 hr
  simp [VRef.ok, VRef.num, h n hn]

/-- An instruction that issues does its own effect. -/
theorem Issues.goes {regs : List Nat} {guard : Nat} {ctr : Option Nat} {req : Ctx → Req} {eff : Ctx → State → State}
    (h : Issues s c regs guard ctr) (hq : (req c).assigned = true) (hr : (req c).regs = regs.map .v) (hg : (req c).guard = guard)
    (hk : (req c).ctr = ctr) : issueBy req eff s = .next (eff c s) := by
  refine issueBy_goes h.resident (windowOver_false h.windows) hq ?_ ?_ (by rw [hg]; exact h.guarded) (by rw [hk]; exact h.room)
  · rw [hr]; exact violation_none h.settled
  · rw [hr]; exact outOfBounds_none h.exist

/-- The same for an instruction whose requirements do not depend on the fragment. -/
theorem Issues.issue {regs : List Nat} {guard len : Nat} {ctr : Option Nat} {eff : Ctx → State → State}
    (h : Issues s c regs guard ctr) : issue ⟨true, regs.map .v, guard, ctr, len⟩ eff s = .next (eff c s) :=
  h.goes rfl rfl rfl rfl

theorem Issues.run {regs : List Nat} {q : Req} {eff : Ctx → State → State} (h : Issues s c regs q.guard q.ctr)
    (ha : q.assigned = true) (hr : q.regs = regs.map .v) : Machine.issue q eff s = .next (eff c s) :=
  h.goes (req := fun _ => q) ha hr rfl rfl

theorem Issues.plain {guardless : Ctx → State → State} (h : Issues s c [] 0 none) :
    Machine.issue (plainReq true) guardless s = .next (guardless c s) := h.goes rfl rfl rfl rfl

/-- R167: an instruction whose guard holds in no lane only counts. -/
theorem issue_guardedOff {regs : List Nat} {q : Req} {eff : Ctx → State → State} (hc : s.ctx? = some c)
    (hw : ∀ w ∈ c.f.windows, w.left ≠ 0) (hq : q.assigned = true) (hr : q.regs = regs.map .v) (he : ∀ r ∈ regs, r < c.g.regs)
    (hv : ∀ r ∈ regs, ∀ w ∈ c.f.windows, r ∉ w.regs) (hg : c.guarded q.guard = 0) :
    Machine.issue q eff s = .next (s.commit c q.len c.g) := by
  simp only [Machine.issue, issueBy, hc, windowOver_false hw, hq, hr, violation_none hv, outOfBounds_none he, hg, Bool.false_eq_true,
    if_false, Bool.not_true, if_true]

/-- R169: an unassigned sub traps before anything else but an open window that has run out. -/
theorem issue_unassigned {q : Req} {eff : Ctx → State → State} (hc : s.ctx? = some c) (hw : ∀ w ∈ c.f.windows, w.left ≠ 0)
    (hq : q.assigned = false) : Machine.issue q eff s = .next (s.trap c 0x03 0 c.iword.toNat) := by
  simp [Machine.issue, issueBy, hc, windowOver_false hw, hq]

/-! ### The end of an instruction -/

theorem countWindows_rest (g : Group) (fid : Nat) : g.countWindows fid = { g with frags := (g.countWindows fid).frags } := by
  unfold Group.countWindows
  split
  · rfl
  · split <;> rfl

theorem countWindows_find (g : Group) (fid k : Nat) :
    ((g.countWindows fid).frags.find k).map Frag.still = (g.frags.find k).map Frag.still := by
  unfold Group.countWindows
  split
  · rfl
  · split
    · rfl
    · next f _ _ =>
      refine (congrArg (Option.map Frag.still) (SMap.find_map (fun _ (x : Frag) => { x with windows := x.windows.map fun w =>
        if (f.windows.any fun v => v.op == w.op) = true then { w with left := w.left - 1 } else w }) g.frags k)).trans ?_
      rw [Option.map_map]
      congr 1
      funext x
      simp only [Function.comp, Frag.still, List.map_map]
      congr 1
      refine List.map_congr_left fun w _ => ?_
      simp only [Function.comp]
      split <;> rfl

theorem Frag.kept_of_still {f f' : Frag} (h : f.still = f'.still) : f.kept = f'.kept := by
  have h1 := congrArg Frag.mask h; have h2 := congrArg Frag.fmt h; have h3 := congrArg Frag.join h; have h4 := congrArg Frag.call h
  simp only [still] at h1 h2 h3 h4
  simp [kept, h1, h2, h3, h4]

theorem kept_of_still {o o' : Option Frag} (h : o.map Frag.still = o'.map Frag.still) : o.map Frag.kept = o'.map Frag.kept := by
  cases o <;> cases o' <;> simp_all
  exact Frag.kept_of_still h

theorem modFrag_rest (g : Group) (fid : Nat) (f : Frag → Frag) : g.modFrag fid f = { g with frags := (g.modFrag fid f).frags } := by
  unfold Group.modFrag; split <;> rfl

theorem modFrag_find (g : Group) (fid k : Nat) (f : Frag → Frag) :
    (g.modFrag fid f).frags.find k = if k = fid then (g.frags.find fid).map f else g.frags.find k := by
  unfold Group.modFrag
  split
  · next x h => simp only [SMap.find_put, h, Option.map_some]
  · next h => split <;> simp_all

/-- What the end of a clause leaves: its core's turn, the age of the fragment, and nothing else. -/
theorem endClause_spec (s : State) (gid fid : Nat) (y : Bool) :
    (s.endClause gid fid y) = { s with groups := (s.endClause gid fid y).groups, cores := (s.endClause gid fid y).cores, fresh := (s.endClause gid fid y).fresh }
      ∧ (∀ k, k ≠ gid → (s.endClause gid fid y).group? k = s.group? k)
      ∧ (∀ k, { (s.endClause gid fid y).core k with turn := none } = { s.core k with turn := none })
      ∧ (∀ g, s.group? gid = some g → ∃ frs, (s.endClause gid fid y).group? gid = some { g with frags := frs }
          ∧ ∀ k, (frs.find k) = (g.frags.find k).map fun f => if k = fid then
              (if (y || decide (8 ≤ f.run + 1)) = true then { f with run := 0, stamp := s.fresh } else { f with run := f.run + 1 }) else f) := by
  have hc : ∀ k, { (s.modCore (gidCore gid) fun k => if k.turn = some (gid, fid) then { k with turn := none } else k).core k with turn := none }
      = { s.core k with turn := none } := by
    intro k; simp only [State.core_modCore]; split
    · next h => subst h; split <;> rfl
    · rfl
  unfold State.endClause
  dsimp only
  have hg : (s.modCore (gidCore gid) fun k => if k.turn = some (gid, fid) then { k with turn := none } else k).group? gid = s.group? gid := rfl
  rw [hg]
  split
  · next h => refine ⟨rfl, fun k _ => rfl, hc, fun g hg' => ?_⟩; simp [h] at hg'
  · next g h =>
    split
    · next hf =>
      refine ⟨rfl, fun k _ => rfl, hc, fun g' hg' => ?_⟩
      cases h.symm.trans hg'
      refine ⟨g.frags, by simp [State.group?] at *; exact h, fun k => ?_⟩
      split
      · next h => subst h; simp [hf]
      · simp
    · next f hf =>
      split
      · next hy =>
        refine ⟨rfl, fun k hk => SMap.find_put_ne _ _ hk, hc, fun g' hg' => ?_⟩
        cases h.symm.trans hg'
        refine ⟨_, SMap.find_put_self _ _ _, fun k => ?_⟩
        rw [SMap.find_put]
        split
        · next h => subst h; simp only [hf, Option.map_some, hy, if_true]; rfl
        · simp
      · next hy =>
        refine ⟨rfl, fun k hk => SMap.find_put_ne _ _ hk, hc, fun g' hg' => ?_⟩
        cases h.symm.trans hg'
        refine ⟨_, SMap.find_put_self _ _ _, fun k => ?_⟩
        rw [SMap.find_put]
        split
        · next h => subst h; simp only [hf, Option.map_some, hy]; rfl
        · simp
/-- What `commit` leaves: the fragment stands `len` bytes further on and its group is the one given. -/
theorem commit_done (len : Nat) (g : Group) {f : Frag} (hf : g.frags.find c.fid = some f) :
    Done s (s.commit c len g) c (c.after len) g := by
  unfold State.commit
  dsimp only
  generalize hends : c.f.pastEnd (c.pc + len) = ends
  generalize hg1 : (g.countWindows c.fid).modFrag c.fid (fun f => f.goTo (c.f.pc + BitVec.ofNat 64 len) ends) = g1
  have hrest : g1 = { g with frags := g1.frags } := by
    rw [← hg1, modFrag_rest, countWindows_rest]
  have hin : g1.instrs = g.instrs := by rw [hrest]
  have hfind : ∀ k, k ≠ c.fid → (g1.frags.find k).map Frag.still = (g.frags.find k).map Frag.still := by
    intro k hk; rw [← hg1, modFrag_find, if_neg hk, countWindows_find]
  obtain ⟨f1, h1, hk1⟩ : ∃ f1, (g.countWindows c.fid).frags.find c.fid = some f1 ∧ f1.kept = f.kept := by
    have := countWindows_find g c.fid c.fid
    rw [hf] at this
    cases h : (g.countWindows c.fid).frags.find c.fid with
    | none => simp [h] at this
    | some f1 => exact ⟨f1, rfl, Frag.kept_of_still (by simpa [h] using this)⟩
  have hown : g1.frags.find c.fid = some (f1.goTo (c.after len) ends) := by
    rw [← hg1, modFrag_find, if_pos rfl, h1]; rfl
  have hs1 : (s.putGroup c.gid { g1 with instrs := g1.instrs + 1 }).group? c.gid = some { g1 with instrs := g1.instrs + 1 } := by
    simp
  split
  · obtain ⟨e1, e2, e3, e4⟩ := endClause_spec (s.putGroup c.gid { g1 with instrs := g1.instrs + 1 }) c.gid c.fid (c.f.header.getLsbD 7)
    obtain ⟨frs, e5, e6⟩ := e4 _ hs1
    refine ⟨?_, fun a => ?_, fun k hk => (e2 k hk).trans (by simp [hk]), fun k => (e3 k).trans rfl, frs, ?_, fun k hk => ?_, ?_, ?_⟩
    · conv_lhs => rw [e1]
      rfl
    · rw [e1]; rfl
    · rw [e5, hrest]
    · rw [e6, ← hfind k hk]; simp [hk]
    · rw [e6]; simp only [hown, hf, if_true, Option.map_some]
      split <;> exact congrArg some hk1
    · rw [e6]; simp only [hown, if_true, Option.map_some]
      split <;> rfl
  · refine ⟨rfl, fun _ => rfl, fun k hk => by simp [hk], fun _ => rfl, g1.frags, ?_, hfind, ?_, ?_⟩
    · rw [hs1, hrest]
    · rw [hown, hf]; exact congrArg some hk1
    · rw [hown]; rfl

/-- What a branch leaves: the fragment stands at the address given, about to begin a clause. -/
theorem commitTo_done (a : Dword) (y : Bool) (g : Group) {f : Frag} (hf : g.frags.find c.fid = some f) :
    Done s (s.commitTo c a y g) c a g := by
  unfold State.commitTo
  dsimp only
  generalize hg1 : (g.countWindows c.fid).modFrag c.fid (fun f => f.goTo a true) = g1
  have hrest : g1 = { g with frags := g1.frags } := by
    rw [← hg1, modFrag_rest, countWindows_rest]
  have hfind : ∀ k, k ≠ c.fid → (g1.frags.find k).map Frag.still = (g.frags.find k).map Frag.still := by
    intro k hk; rw [← hg1, modFrag_find, if_neg hk, countWindows_find]
  obtain ⟨f1, h1, hk1⟩ : ∃ f1, (g.countWindows c.fid).frags.find c.fid = some f1 ∧ f1.kept = f.kept := by
    have := countWindows_find g c.fid c.fid
    rw [hf] at this
    cases h : (g.countWindows c.fid).frags.find c.fid with
    | none => simp [h] at this
    | some f1 => exact ⟨f1, rfl, Frag.kept_of_still (by simpa [h] using this)⟩
  have hown : g1.frags.find c.fid = some (f1.goTo a true) := by
    rw [← hg1, modFrag_find, if_pos rfl, h1]; rfl
  have hs1 : (s.putGroup c.gid { g1 with instrs := g1.instrs + 1 }).group? c.gid = some { g1 with instrs := g1.instrs + 1 } := by
    simp
  obtain ⟨e1, e2, e3, e4⟩ := endClause_spec (s.putGroup c.gid { g1 with instrs := g1.instrs + 1 }) c.gid c.fid (y || c.f.header.getLsbD 7)
  obtain ⟨frs, e5, e6⟩ := e4 _ hs1
  refine ⟨?_, fun a => ?_, fun k hk => (e2 k hk).trans (by simp [hk]), fun k => (e3 k).trans rfl, frs, ?_, fun k hk => ?_, ?_, ?_⟩
  · conv_lhs => rw [e1]
    rfl
  · rw [e1]; rfl
  · rw [e5, hrest]
  · rw [e6, ← hfind k hk]; simp [hk]
  · rw [e6]; simp only [hown, hf, if_true, Option.map_some]
    split <;> exact congrArg some hk1
  · rw [e6]; simp only [hown, if_true, Option.map_some]
    split <;> rfl

end Sys2Proof.Machine
end

