-- ==== Sys2Proof/Laws/Memory.lean ====
section
/-!
SUPPORT. The laws of memory: a byte written is the byte read, every other byte is as it was, and every memory
operation keeps the canonical form.
-/

namespace Sys2Proof.Machine

/-- A byte after a write of one byte. -/
theorem State.readByte_writeByte (s : State) (a x : Nat) (b : Byte) :
    (s.writeByte a b).readByte x = if x = a then b else s.readByte x := by
  unfold readByte writeByte
  split
  · next h => subst h; simp [SMap.get_set]
  · next h =>
    simp only [SMap.set]
    split
    · simp [SMap.get_eq_find, SMap.find_erase, h]
    · simp [SMap.get_eq_find, SMap.find_put, h]

@[simp] theorem State.readByte_writeByte_self (s : State) (a : Nat) (b : Byte) : (s.writeByte a b).readByte a = b := by
  simp [readByte_writeByte]

/-- A byte after a write of several bytes: the byte written there, or what it was. -/
theorem State.readByte_writeBytes (s : State) (a x : Nat) (bs : List Byte) :
    (s.writeBytes a bs).readByte x = if a ≤ x ∧ x < a + bs.length then bs.getD (x - a) 0 else s.readByte x := by
  induction bs generalizing s a with
  | nil => simp [writeBytes]
  | cons b bs ih =>
    simp only [writeBytes, ih, readByte_writeByte, List.length_cons]
    by_cases h : x = a
    · subst h; simp
    · by_cases h1 : a + 1 ≤ x ∧ x < a + 1 + bs.length
      · rw [if_pos h1, if_pos (by omega)]
        obtain ⟨k, hk⟩ : ∃ k, x - a = k + 1 := ⟨x - a - 1, by omega⟩
        rw [hk, List.getD_cons_succ]; congr 1; omega
      · rw [if_neg h1, if_neg h, if_neg (by omega)]

/-- Every byte outside those written reads as before. -/
theorem State.readByte_writeBytes_ne (s : State) {a x : Nat} {bs : List Byte} (h : ¬(a ≤ x ∧ x < a + bs.length)) :
    (s.writeBytes a bs).readByte x = s.readByte x := by rw [readByte_writeBytes, if_neg h]

theorem State.writeByte_wf {s : State} (h : Memory.wf s.mem = true) (a : Nat) (b : Byte) : Memory.wf (s.writeByte a b).mem = true :=
  SMap.wf_set h a b

theorem State.writeBytes_wf {s : State} (h : Memory.wf s.mem = true) (a : Nat) (bs : List Byte) :
    Memory.wf (s.writeBytes a bs).mem = true := by
  induction bs generalizing s a with
  | nil => exact h
  | cons b bs ih => exact ih (writeByte_wf h a b) (a + 1)

theorem State.writeNat_wf {s : State} (h : Memory.wf s.mem = true) (a n v : Nat) : Memory.wf (s.writeNat a n v).mem = true :=
  writeBytes_wf h a _

theorem State.zeroRange_wf {s : State} (h : Memory.wf s.mem = true) (lo hi : Nat) : Memory.wf (s.zeroRange lo hi).mem = true :=
  SMap.wf_dropRange h lo hi

/-- Bytes written one by one at rising addresses are the bytes written together. -/
theorem State.foldl_writeByte_zipIdx (s : State) (pa k : Nat) (bs : List Byte) :
    ((bs.zipIdx k).map fun e => (pa + e.2, e.1)).foldl (fun s w => s.writeByte w.1 w.2) s = s.writeBytes (pa + k) bs := by
  induction bs generalizing s k with
  | nil => rfl
  | cons b bs ih => simp only [List.zipIdx_cons, List.map_cons, List.foldl_cons, ih, writeBytes, Nat.add_assoc]

/-- What a write of bytes does to memory depends on memory alone. -/
theorem State.writeBytes_mem_congr {s t : State} (h : s.mem = t.mem) (a : Nat) (bs : List Byte) :
    (s.writeBytes a bs).mem = (t.writeBytes a bs).mem := by
  induction bs generalizing s t a with
  | nil => exact h
  | cons b bs ih => exact ih (by simp only [writeByte, h]) (a + 1)

/-- A device's write reaches memory as a write of its bytes. -/
theorem State.deviceWrite_mem (s : State) (a : Nat) (bs : List Byte) : (s.deviceWrite a bs).mem = (s.writeBytes a bs).mem := by
  have h : ∀ t : State, t.mem = s.mem →
      (((bs.zipIdx 0).map fun e => (a + e.2, e.1)).foldl (fun s w => s.writeByte w.1 w.2) t).mem = (s.writeBytes a bs).mem := by
    intro t ht
    rw [foldl_writeByte_zipIdx]
    exact writeBytes_mem_congr ht a bs
  unfold deviceWrite writeHome
  simp only
  split
  · exact h _ rfl
  · exact h _ rfl

theorem State.deviceWrite_wf {s : State} (h : Memory.wf s.mem = true) (a : Nat) (bs : List Byte) :
    Memory.wf (s.deviceWrite a bs).mem = true := by rw [deviceWrite_mem]; exact writeBytes_wf h a bs

/-- A byte reads after a device's write as after a write of its bytes. -/
theorem State.readByte_deviceWrite (s : State) (a x : Nat) (bs : List Byte) :
    (s.deviceWrite a bs).readByte x = if a ≤ x ∧ x < a + bs.length then bs.getD (x - a) 0 else s.readByte x := by
  rw [← readByte_writeBytes]
  simp only [readByte, deviceWrite_mem]

theorem leBytes_length (n v : Nat) : (leBytes n v).length = n := by
  induction n generalizing v with
  | zero => rfl
  | succ n ih => simp [leBytes, ih]

/-- R2: a value's bytes, read back, are the value modulo its size. -/
theorem leNat_leBytes (n v : Nat) : leNat (leBytes n v) = v % 256 ^ n := by
  induction n generalizing v with
  | zero => simp [leBytes, leNat, Nat.mod_one]
  | succ n ih =>
    have : (2 : Nat) ^ 8 = 256 := rfl
    rw [leBytes, leNat, ih, BitVec.toNat_ofNat, this, Nat.pow_succ, Nat.mul_comm (256 ^ n) 256, Nat.mod_mul]

end Sys2Proof.Machine
end

