-- ==== Sys2Proof/Laws/PerInstr.lean ====
section
/-!
SUPPORT. The words of the instructions, one lemma for each constructor of `Instr`: the encoding of an instruction, with its
literal, decodes to it (R160 to R162); a device step has no word.
-/

namespace Sys2Proof.Laws.RoundTrip

open Sys2Proof

/-- R161, R162: an instruction that has a word has one of 32 bits, and the word, with its literal, decodes to it. -/
def Statement (i : Instr) : Prop :=
  i.hasWord = true → i.wellFormed = true →
    ∃ w, encodeNat i = some w ∧ w < 2 ^ 32 ∧ decode (BitVec.ofNat 32 w) (literalOf i) = .ok i

/-- A device step has no word. -/
theorem no_word {i : Instr} (h : encodeNat i = none) : Statement i := by
  intro hw
  simp [Instr.hasWord, h] at hw

/-- The sum of what stands below the opcode. -/
theorem low_cons (lo v : Nat) (p : Nat) (hp : 2 ^ lo = p) (fs : List (Nat × Nat)) :
    (((lo, v) :: fs).map fun f => f.2 * 2 ^ f.1).sum = v * p + (fs.map fun f => f.2 * 2 ^ f.1).sum := by
  rw [List.map_cons, List.sum_cons, hp]

/-- A word of an opcode and what stands below it is decoded by what its opcode names. -/
theorem of_word {i : Instr} (op low : Nat) {fs : List (Nat × Nat)} (he : encodeNat i = some (mkWord op fs))
    (hs : (fs.map fun f => f.2 * 2 ^ f.1).sum = low) (ho : op < 256) (hl : low < 16777216)
    (hd : ∀ w, w = op * 16777216 + low → w / 2 ^ 24 % 256 = op → decodeNat w (literalOf i) = .ok i) : Statement i := by
  intro _ _
  have hm : mkWord op fs = op * 16777216 + low := by rw [mkWord, hs]; omega
  have h : op * 16777216 + low < 2 ^ 32 := by omega
  refine ⟨_, he, hm ▸ h, ?_⟩
  rw [hm, decode, BitVec.toNat_ofNat, Nat.mod_eq_of_lt h]
  exact hd _ rfl (by omega)

/-- A field of `q` values from bit weight `p` reads back the operand that stands in it, below `hi` and above `low`. -/
theorem fld_at {n w lo : Nat} {x : BitVec n} (p q hi low : Nat) (hp : 2 ^ lo = p) (hq : 2 ^ n = q) (h : w = (hi * q + x.toNat) * p + low)
    (hl : low < p) : fld w lo n = x := by
  subst hp hq
  apply BitVec.eq_of_toNat_eq
  rw [fld, BitVec.toNat_ofNat, h, Nat.add_comm, Nat.add_mul_div_right _ _ (Nat.two_pow_pos lo), Nat.div_eq_of_lt hl, Nat.zero_add,
    Nat.add_comm, Nat.add_mul_mod_self_right, Nat.mod_eq_of_lt x.isLt]

/-- A field in which nothing stands is 0. -/
theorem rsv_at {w lo n : Nat} (p q hi low : Nat) (hp : 2 ^ lo = p) (hq : 2 ^ n = q) (h : w = hi * q * p + low) (hl : low < p) :
    rsv w lo n = true := by
  subst hp hq
  rw [rsv, h, Nat.add_comm, Nat.add_mul_div_right _ _ (Nat.two_pow_pos lo), Nat.div_eq_of_lt hl, Nat.zero_add, Nat.mul_mod_left]
  rfl

/-- An instruction whose rsvd fields are 0 is not rejected. -/
theorem guard_eq {ok : Bool} {op : Nat} {i j : Instr} (h : ok = true) (e : j = i) : guardRsvd ok op j = .ok i := by
  rw [h, e, guardRsvd, if_pos rfl]

theorem nop : Statement (.nop) := by
  refine of_word 0 (0) rfl rfl (by decide) (by omega) fun w hw ho => ?_
  have r0 : rsv w 0 24 = true := rsv_at 1 16777216 (0) (0) rfl rfl hw (by omega)
  rw [decodeNat, ho]
  exact guard_eq r0 rfl
theorem sadd (a0 a1 a2) : Statement (.sadd a0 a1 a2) := by
  have h0 : a0.toNat < 64 := a0.isLt
  have h1 : a1.toNat < 64 := a1.isLt
  have h2 : a2.toNat < 64 := a2.isLt
  refine of_word 1 (a0.toNat * 262144 + (a1.toNat * 4096 + (a2.toNat * 64 + 0))) rfl (by rw [low_cons 18 _ 262144 rfl, low_cons 12 _ 4096 rfl, low_cons 6 _ 64 rfl]; rfl) (by decide) (by omega) fun w hw ho => ?_
  have f0 : fld w 18 6 = a0 := fld_at 262144 64 (1) (a1.toNat * 4096 + a2.toNat * 64) rfl rfl (by rw [hw]; ring) (by omega)
  have f1 : fld w 12 6 = a1 := fld_at 4096 64 (64 + a0.toNat * 1) (a2.toNat * 64) rfl rfl (by rw [hw]; ring) (by omega)
  have f2 : fld w 6 6 = a2 := fld_at 64 64 (4096 + a0.toNat * 64 + a1.toNat * 1) (0) rfl rfl (by rw [hw]; ring) (by omega)
  have r0 : rsv w 0 6 = true := rsv_at 1 64 (262144 + a0.toNat * 4096 + a1.toNat * 64 + a2.toNat * 1) (0) rfl rfl (by rw [hw]; ring) (by omega)
  rw [decodeNat, ho]
  exact guard_eq r0 (by rw [f0, f1, f2])
theorem ssub (a0 a1 a2) : Statement (.ssub a0 a1 a2) := by
  have h0 : a0.toNat < 64 := a0.isLt
  have h1 : a1.toNat < 64 := a1.isLt
  have h2 : a2.toNat < 64 := a2.isLt
  refine of_word 2 (a0.toNat * 262144 + (a1.toNat * 4096 + (a2.toNat * 64 + 0))) rfl (by rw [low_cons 18 _ 262144 rfl, low_cons 12 _ 4096 rfl, low_cons 6 _ 64 rfl]; rfl) (by decide) (by omega) fun w hw ho => ?_
  have f0 : fld w 18 6 = a0 := fld_at 262144 64 (2) (a1.toNat * 4096 + a2.toNat * 64) rfl rfl (by rw [hw]; ring) (by omega)
  have f1 : fld w 12 6 = a1 := fld_at 4096 64 (128 + a0.toNat * 1) (a2.toNat * 64) rfl rfl (by rw [hw]; ring) (by omega)
  have f2 : fld w 6 6 = a2 := fld_at 64 64 (8192 + a0.toNat * 64 + a1.toNat * 1) (0) rfl rfl (by rw [hw]; ring) (by omega)
  have r0 : rsv w 0 6 = true := rsv_at 1 64 (524288 + a0.toNat * 4096 + a1.toNat * 64 + a2.toNat * 1) (0) rfl rfl (by rw [hw]; ring) (by omega)
  rw [decodeNat, ho]
  exact guard_eq r0 (by rw [f0, f1, f2])
theorem smul (a0 a1 a2) : Statement (.smul a0 a1 a2) := by
  have h0 : a0.toNat < 64 := a0.isLt
  have h1 : a1.toNat < 64 := a1.isLt
  have h2 : a2.toNat < 64 := a2.isLt
  refine of_word 3 (a0.toNat * 262144 + (a1.toNat * 4096 + (a2.toNat * 64 + 0))) rfl (by rw [low_cons 18 _ 262144 rfl, low_cons 12 _ 4096 rfl, low_cons 6 _ 64 rfl]; rfl) (by decide) (by omega) fun w hw ho => ?_
  have f0 : fld w 18 6 = a0 := fld_at 262144 64 (3) (a1.toNat * 4096 + a2.toNat * 64) rfl rfl (by rw [hw]; ring) (by omega)
  have f1 : fld w 12 6 = a1 := fld_at 4096 64 (192 + a0.toNat * 1) (a2.toNat * 64) rfl rfl (by rw [hw]; ring) (by omega)
  have f2 : fld w 6 6 = a2 := fld_at 64 64 (12288 + a0.toNat * 64 + a1.toNat * 1) (0) rfl rfl (by rw [hw]; ring) (by omega)
  have r0 : rsv w 0 6 = true := rsv_at 1 64 (786432 + a0.toNat * 4096 + a1.toNat * 64 + a2.toNat * 1) (0) rfl rfl (by rw [hw]; ring) (by omega)
  rw [decodeNat, ho]
  exact guard_eq r0 (by rw [f0, f1, f2])
theorem smulh (a0 a1 a2 a3) : Statement (.smulh a0 a1 a2 a3) := by
  have h0 : a0.toNat < 64 := a0.isLt
  have h1 : a1.toNat < 64 := a1.isLt
  have h2 : a2.toNat < 64 := a2.isLt
  have h3 : a3.toNat < 64 := a3.isLt
  refine of_word 4 (a0.toNat * 262144 + (a1.toNat * 4096 + (a2.toNat * 64 + (a3.toNat * 1 + 0)))) rfl (by rw [low_cons 18 _ 262144 rfl, low_cons 12 _ 4096 rfl, low_cons 6 _ 64 rfl, low_cons 0 _ 1 rfl]; rfl) (by decide) (by omega) fun w hw ho => ?_
  have f0 : fld w 18 6 = a0 := fld_at 262144 64 (4) (a1.toNat * 4096 + a2.toNat * 64 + a3.toNat * 1) rfl rfl (by rw [hw]; ring) (by omega)
  have f1 : fld w 12 6 = a1 := fld_at 4096 64 (256 + a0.toNat * 1) (a2.toNat * 64 + a3.toNat * 1) rfl rfl (by rw [hw]; ring) (by omega)
  have f2 : fld w 6 6 = a2 := fld_at 64 64 (16384 + a0.toNat * 64 + a1.toNat * 1) (a3.toNat * 1) rfl rfl (by rw [hw]; ring) (by omega)
  have f3 : fld w 0 6 = a3 := fld_at 1 64 (1048576 + a0.toNat * 4096 + a1.toNat * 64 + a2.toNat * 1) (0) rfl rfl (by rw [hw]; ring) (by omega)
  rw [decodeNat, ho]
  exact congrArg Except.ok (by rw [f0, f1, f2, f3])
theorem sand (a0 a1 a2) : Statement (.sand a0 a1 a2) := by
  have h0 : a0.toNat < 64 := a0.isLt
  have h1 : a1.toNat < 64 := a1.isLt
  have h2 : a2.toNat < 64 := a2.isLt
  refine of_word 5 (a0.toNat * 262144 + (a1.toNat * 4096 + (a2.toNat * 64 + 0))) rfl (by rw [low_cons 18 _ 262144 rfl, low_cons 12 _ 4096 rfl, low_cons 6 _ 64 rfl]; rfl) (by decide) (by omega) fun w hw ho => ?_
  have f0 : fld w 18 6 = a0 := fld_at 262144 64 (5) (a1.toNat * 4096 + a2.toNat * 64) rfl rfl (by rw [hw]; ring) (by omega)
  have f1 : fld w 12 6 = a1 := fld_at 4096 64 (320 + a0.toNat * 1) (a2.toNat * 64) rfl rfl (by rw [hw]; ring) (by omega)
  have f2 : fld w 6 6 = a2 := fld_at 64 64 (20480 + a0.toNat * 64 + a1.toNat * 1) (0) rfl rfl (by rw [hw]; ring) (by omega)
  have r0 : rsv w 0 6 = true := rsv_at 1 64 (1310720 + a0.toNat * 4096 + a1.toNat * 64 + a2.toNat * 1) (0) rfl rfl (by rw [hw]; ring) (by omega)
  rw [decodeNat, ho]
  exact guard_eq r0 (by rw [f0, f1, f2])
theorem sor (a0 a1 a2) : Statement (.sor a0 a1 a2) := by
  have h0 : a0.toNat < 64 := a0.isLt
  have h1 : a1.toNat < 64 := a1.isLt
  have h2 : a2.toNat < 64 := a2.isLt
  refine of_word 6 (a0.toNat * 262144 + (a1.toNat * 4096 + (a2.toNat * 64 + 0))) rfl (by rw [low_cons 18 _ 262144 rfl, low_cons 12 _ 4096 rfl, low_cons 6 _ 64 rfl]; rfl) (by decide) (by omega) fun w hw ho => ?_
  have f0 : fld w 18 6 = a0 := fld_at 262144 64 (6) (a1.toNat * 4096 + a2.toNat * 64) rfl rfl (by rw [hw]; ring) (by omega)
  have f1 : fld w 12 6 = a1 := fld_at 4096 64 (384 + a0.toNat * 1) (a2.toNat * 64) rfl rfl (by rw [hw]; ring) (by omega)
  have f2 : fld w 6 6 = a2 := fld_at 64 64 (24576 + a0.toNat * 64 + a1.toNat * 1) (0) rfl rfl (by rw [hw]; ring) (by omega)
  have r0 : rsv w 0 6 = true := rsv_at 1 64 (1572864 + a0.toNat * 4096 + a1.toNat * 64 + a2.toNat * 1) (0) rfl rfl (by rw [hw]; ring) (by omega)
  rw [decodeNat, ho]
  exact guard_eq r0 (by rw [f0, f1, f2])
theorem sxor (a0 a1 a2) : Statement (.sxor a0 a1 a2) := by
  have h0 : a0.toNat < 64 := a0.isLt
  have h1 : a1.toNat < 64 := a1.isLt
  have h2 : a2.toNat < 64 := a2.isLt
  refine of_word 7 (a0.toNat * 262144 + (a1.toNat * 4096 + (a2.toNat * 64 + 0))) rfl (by rw [low_cons 18 _ 262144 rfl, low_cons 12 _ 4096 rfl, low_cons 6 _ 64 rfl]; rfl) (by decide) (by omega) fun w hw ho => ?_
  have f0 : fld w 18 6 = a0 := fld_at 262144 64 (7) (a1.toNat * 4096 + a2.toNat * 64) rfl rfl (by rw [hw]; ring) (by omega)
  have f1 : fld w 12 6 = a1 := fld_at 4096 64 (448 + a0.toNat * 1) (a2.toNat * 64) rfl rfl (by rw [hw]; ring) (by omega)
  have f2 : fld w 6 6 = a2 := fld_at 64 64 (28672 + a0.toNat * 64 + a1.toNat * 1) (0) rfl rfl (by rw [hw]; ring) (by omega)
  have r0 : rsv w 0 6 = true := rsv_at 1 64 (1835008 + a0.toNat * 4096 + a1.toNat * 64 + a2.toNat * 1) (0) rfl rfl (by rw [hw]; ring) (by omega)
  rw [decodeNat, ho]
  exact guard_eq r0 (by rw [f0, f1, f2])
theorem sshl (a0 a1 a2) : Statement (.sshl a0 a1 a2) := by
  have h0 : a0.toNat < 64 := a0.isLt
  have h1 : a1.toNat < 64 := a1.isLt
  have h2 : a2.toNat < 64 := a2.isLt
  refine of_word 8 (a0.toNat * 262144 + (a1.toNat * 4096 + (a2.toNat * 64 + 0))) rfl (by rw [low_cons 18 _ 262144 rfl, low_cons 12 _ 4096 rfl, low_cons 6 _ 64 rfl]; rfl) (by decide) (by omega) fun w hw ho => ?_
  have f0 : fld w 18 6 = a0 := fld_at 262144 64 (8) (a1.toNat * 4096 + a2.toNat * 64) rfl rfl (by rw [hw]; ring) (by omega)
  have f1 : fld w 12 6 = a1 := fld_at 4096 64 (512 + a0.toNat * 1) (a2.toNat * 64) rfl rfl (by rw [hw]; ring) (by omega)
  have f2 : fld w 6 6 = a2 := fld_at 64 64 (32768 + a0.toNat * 64 + a1.toNat * 1) (0) rfl rfl (by rw [hw]; ring) (by omega)
  have r0 : rsv w 0 6 = true := rsv_at 1 64 (2097152 + a0.toNat * 4096 + a1.toNat * 64 + a2.toNat * 1) (0) rfl rfl (by rw [hw]; ring) (by omega)
  rw [decodeNat, ho]
  exact guard_eq r0 (by rw [f0, f1, f2])
theorem sshr (a0 a1 a2 a3) : Statement (.sshr a0 a1 a2 a3) := by
  have h0 : a0.toNat < 64 := a0.isLt
  have h1 : a1.toNat < 64 := a1.isLt
  have h2 : a2.toNat < 64 := a2.isLt
  have h3 : a3.toNat < 64 := a3.isLt
  refine of_word 9 (a0.toNat * 262144 + (a1.toNat * 4096 + (a2.toNat * 64 + (a3.toNat * 1 + 0)))) rfl (by rw [low_cons 18 _ 262144 rfl, low_cons 12 _ 4096 rfl, low_cons 6 _ 64 rfl, low_cons 0 _ 1 rfl]; rfl) (by decide) (by omega) fun w hw ho => ?_
  have f0 : fld w 18 6 = a0 := fld_at 262144 64 (9) (a1.toNat * 4096 + a2.toNat * 64 + a3.toNat * 1) rfl rfl (by rw [hw]; ring) (by omega)
  have f1 : fld w 12 6 = a1 := fld_at 4096 64 (576 + a0.toNat * 1) (a2.toNat * 64 + a3.toNat * 1) rfl rfl (by rw [hw]; ring) (by omega)
  have f2 : fld w 6 6 = a2 := fld_at 64 64 (36864 + a0.toNat * 64 + a1.toNat * 1) (a3.toNat * 1) rfl rfl (by rw [hw]; ring) (by omega)
  have f3 : fld w 0 6 = a3 := fld_at 1 64 (2359296 + a0.toNat * 4096 + a1.toNat * 64 + a2.toNat * 1) (0) rfl rfl (by rw [hw]; ring) (by omega)
  rw [decodeNat, ho]
  exact congrArg Except.ok (by rw [f0, f1, f2, f3])
theorem smin (a0 a1 a2 a3) : Statement (.smin a0 a1 a2 a3) := by
  have h0 : a0.toNat < 64 := a0.isLt
  have h1 : a1.toNat < 64 := a1.isLt
  have h2 : a2.toNat < 64 := a2.isLt
  have h3 : a3.toNat < 64 := a3.isLt
  refine of_word 10 (a0.toNat * 262144 + (a1.toNat * 4096 + (a2.toNat * 64 + (a3.toNat * 1 + 0)))) rfl (by rw [low_cons 18 _ 262144 rfl, low_cons 12 _ 4096 rfl, low_cons 6 _ 64 rfl, low_cons 0 _ 1 rfl]; rfl) (by decide) (by omega) fun w hw ho => ?_
  have f0 : fld w 18 6 = a0 := fld_at 262144 64 (10) (a1.toNat * 4096 + a2.toNat * 64 + a3.toNat * 1) rfl rfl (by rw [hw]; ring) (by omega)
  have f1 : fld w 12 6 = a1 := fld_at 4096 64 (640 + a0.toNat * 1) (a2.toNat * 64 + a3.toNat * 1) rfl rfl (by rw [hw]; ring) (by omega)
  have f2 : fld w 6 6 = a2 := fld_at 64 64 (40960 + a0.toNat * 64 + a1.toNat * 1) (a3.toNat * 1) rfl rfl (by rw [hw]; ring) (by omega)
  have f3 : fld w 0 6 = a3 := fld_at 1 64 (2621440 + a0.toNat * 4096 + a1.toNat * 64 + a2.toNat * 1) (0) rfl rfl (by rw [hw]; ring) (by omega)
  rw [decodeNat, ho]
  exact congrArg Except.ok (by rw [f0, f1, f2, f3])
theorem smax (a0 a1 a2 a3) : Statement (.smax a0 a1 a2 a3) := by
  have h0 : a0.toNat < 64 := a0.isLt
  have h1 : a1.toNat < 64 := a1.isLt
  have h2 : a2.toNat < 64 := a2.isLt
  have h3 : a3.toNat < 64 := a3.isLt
  refine of_word 11 (a0.toNat * 262144 + (a1.toNat * 4096 + (a2.toNat * 64 + (a3.toNat * 1 + 0)))) rfl (by rw [low_cons 18 _ 262144 rfl, low_cons 12 _ 4096 rfl, low_cons 6 _ 64 rfl, low_cons 0 _ 1 rfl]; rfl) (by decide) (by omega) fun w hw ho => ?_
  have f0 : fld w 18 6 = a0 := fld_at 262144 64 (11) (a1.toNat * 4096 + a2.toNat * 64 + a3.toNat * 1) rfl rfl (by rw [hw]; ring) (by omega)
  have f1 : fld w 12 6 = a1 := fld_at 4096 64 (704 + a0.toNat * 1) (a2.toNat * 64 + a3.toNat * 1) rfl rfl (by rw [hw]; ring) (by omega)
  have f2 : fld w 6 6 = a2 := fld_at 64 64 (45056 + a0.toNat * 64 + a1.toNat * 1) (a3.toNat * 1) rfl rfl (by rw [hw]; ring) (by omega)
  have f3 : fld w 0 6 = a3 := fld_at 1 64 (2883584 + a0.toNat * 4096 + a1.toNat * 64 + a2.toNat * 1) (0) rfl rfl (by rw [hw]; ring) (by omega)
  rw [decodeNat, ho]
  exact congrArg Except.ok (by rw [f0, f1, f2, f3])
theorem scmp (a0 a1 a2 a3) : Statement (.scmp a0 a1 a2 a3) := by
  have h0 : a0.toNat < 64 := a0.isLt
  have h1 : a1.toNat < 64 := a1.isLt
  have h2 : a2.toNat < 64 := a2.isLt
  have h3 : a3.toNat < 64 := a3.isLt
  refine of_word 12 (a0.toNat * 262144 + (a1.toNat * 4096 + (a2.toNat * 64 + (a3.toNat * 1 + 0)))) rfl (by rw [low_cons 18 _ 262144 rfl, low_cons 12 _ 4096 rfl, low_cons 6 _ 64 rfl, low_cons 0 _ 1 rfl]; rfl) (by decide) (by omega) fun w hw ho => ?_
  have f0 : fld w 18 6 = a0 := fld_at 262144 64 (12) (a1.toNat * 4096 + a2.toNat * 64 + a3.toNat * 1) rfl rfl (by rw [hw]; ring) (by omega)
  have f1 : fld w 12 6 = a1 := fld_at 4096 64 (768 + a0.toNat * 1) (a2.toNat * 64 + a3.toNat * 1) rfl rfl (by rw [hw]; ring) (by omega)
  have f2 : fld w 6 6 = a2 := fld_at 64 64 (49152 + a0.toNat * 64 + a1.toNat * 1) (a3.toNat * 1) rfl rfl (by rw [hw]; ring) (by omega)
  have f3 : fld w 0 6 = a3 := fld_at 1 64 (3145728 + a0.toNat * 4096 + a1.toNat * 64 + a2.toNat * 1) (0) rfl rfl (by rw [hw]; ring) (by omega)
  rw [decodeNat, ho]
  exact congrArg Except.ok (by rw [f0, f1, f2, f3])
theorem ssel (a0 a1 a2 a3) : Statement (.ssel a0 a1 a2 a3) := by
  have h0 : a0.toNat < 64 := a0.isLt
  have h1 : a1.toNat < 64 := a1.isLt
  have h2 : a2.toNat < 64 := a2.isLt
  have h3 : a3.toNat < 64 := a3.isLt
  refine of_word 13 (a0.toNat * 262144 + (a1.toNat * 4096 + (a2.toNat * 64 + (a3.toNat * 1 + 0)))) rfl (by rw [low_cons 18 _ 262144 rfl, low_cons 12 _ 4096 rfl, low_cons 6 _ 64 rfl, low_cons 0 _ 1 rfl]; rfl) (by decide) (by omega) fun w hw ho => ?_
  have f0 : fld w 18 6 = a0 := fld_at 262144 64 (13) (a1.toNat * 4096 + a2.toNat * 64 + a3.toNat * 1) rfl rfl (by rw [hw]; ring) (by omega)
  have f1 : fld w 12 6 = a1 := fld_at 4096 64 (832 + a0.toNat * 1) (a2.toNat * 64 + a3.toNat * 1) rfl rfl (by rw [hw]; ring) (by omega)
  have f2 : fld w 6 6 = a2 := fld_at 64 64 (53248 + a0.toNat * 64 + a1.toNat * 1) (a3.toNat * 1) rfl rfl (by rw [hw]; ring) (by omega)
  have f3 : fld w 0 6 = a3 := fld_at 1 64 (3407872 + a0.toNat * 4096 + a1.toNat * 64 + a2.toNat * 1) (0) rfl rfl (by rw [hw]; ring) (by omega)
  rw [decodeNat, ho]
  exact congrArg Except.ok (by rw [f0, f1, f2, f3])
theorem sclz (a0 a1) : Statement (.sclz a0 a1) := by
  have h0 : a0.toNat < 64 := a0.isLt
  have h1 : a1.toNat < 64 := a1.isLt
  refine of_word 14 (a0.toNat * 262144 + (a1.toNat * 4096 + 0)) rfl (by rw [low_cons 18 _ 262144 rfl, low_cons 12 _ 4096 rfl]; rfl) (by decide) (by omega) fun w hw ho => ?_
  have f0 : fld w 18 6 = a0 := fld_at 262144 64 (14) (a1.toNat * 4096) rfl rfl (by rw [hw]; ring) (by omega)
  have f1 : fld w 12 6 = a1 := fld_at 4096 64 (896 + a0.toNat * 1) (0) rfl rfl (by rw [hw]; ring) (by omega)
  have r0 : rsv w 0 12 = true := rsv_at 1 4096 (57344 + a0.toNat * 64 + a1.toNat * 1) (0) rfl rfl (by rw [hw]; ring) (by omega)
  rw [decodeNat, ho]
  exact guard_eq r0 (by rw [f0, f1])
theorem spop (a0 a1) : Statement (.spop a0 a1) := by
  have h0 : a0.toNat < 64 := a0.isLt
  have h1 : a1.toNat < 64 := a1.isLt
  refine of_word 15 (a0.toNat * 262144 + (a1.toNat * 4096 + 0)) rfl (by rw [low_cons 18 _ 262144 rfl, low_cons 12 _ 4096 rfl]; rfl) (by decide) (by omega) fun w hw ho => ?_
  have f0 : fld w 18 6 = a0 := fld_at 262144 64 (15) (a1.toNat * 4096) rfl rfl (by rw [hw]; ring) (by omega)
  have f1 : fld w 12 6 = a1 := fld_at 4096 64 (960 + a0.toNat * 1) (0) rfl rfl (by rw [hw]; ring) (by omega)
  have r0 : rsv w 0 12 = true := rsv_at 1 4096 (61440 + a0.toNat * 64 + a1.toNat * 1) (0) rfl rfl (by rw [hw]; ring) (by omega)
  rw [decodeNat, ho]
  exact guard_eq r0 (by rw [f0, f1])
theorem saddi (a0 a1) : Statement (.saddi a0 a1) := by
  have h0 : a0.toNat < 64 := a0.isLt
  have h1 : a1.toNat < 262144 := a1.isLt
  refine of_word 16 (a0.toNat * 262144 + (a1.toNat * 1 + 0)) rfl (by rw [low_cons 18 _ 262144 rfl, low_cons 0 _ 1 rfl]; rfl) (by decide) (by omega) fun w hw ho => ?_
  have f0 : fld w 18 6 = a0 := fld_at 262144 64 (16) (a1.toNat * 1) rfl rfl (by rw [hw]; ring) (by omega)
  have f1 : fld w 0 18 = a1 := fld_at 1 262144 (1024 + a0.toNat * 1) (0) rfl rfl (by rw [hw]; ring) (by omega)
  rw [decodeNat, ho]
  exact congrArg Except.ok (by rw [f0, f1])
theorem smovi (a0 a1) : Statement (.smovi a0 a1) := by
  have h0 : a0.toNat < 64 := a0.isLt
  have h1 : a1.toNat < 262144 := a1.isLt
  refine of_word 17 (a0.toNat * 262144 + (a1.toNat * 1 + 0)) rfl (by rw [low_cons 18 _ 262144 rfl, low_cons 0 _ 1 rfl]; rfl) (by decide) (by omega) fun w hw ho => ?_
  have f0 : fld w 18 6 = a0 := fld_at 262144 64 (17) (a1.toNat * 1) rfl rfl (by rw [hw]; ring) (by omega)
  have f1 : fld w 0 18 = a1 := fld_at 1 262144 (1088 + a0.toNat * 1) (0) rfl rfl (by rw [hw]; ring) (by omega)
  rw [decodeNat, ho]
  exact congrArg Except.ok (by rw [f0, f1])
theorem slui (a0 a1) : Statement (.slui a0 a1) := by
  have h0 : a0.toNat < 64 := a0.isLt
  have h1 : a1.toNat < 262144 := a1.isLt
  refine of_word 18 (a0.toNat * 262144 + (a1.toNat * 1 + 0)) rfl (by rw [low_cons 18 _ 262144 rfl, low_cons 0 _ 1 rfl]; rfl) (by decide) (by omega) fun w hw ho => ?_
  have f0 : fld w 18 6 = a0 := fld_at 262144 64 (18) (a1.toNat * 1) rfl rfl (by rw [hw]; ring) (by omega)
  have f1 : fld w 0 18 = a1 := fld_at 1 262144 (1152 + a0.toNat * 1) (0) rfl rfl (by rw [hw]; ring) (by omega)
  rw [decodeNat, ho]
  exact congrArg Except.ok (by rw [f0, f1])
theorem smovl (a0 a1) : Statement (.smovl a0 a1) := by
  have h0 : a0.toNat < 64 := a0.isLt
  refine of_word 19 (a0.toNat * 262144 + 0) rfl (by rw [low_cons 18 _ 262144 rfl]; rfl) (by decide) (by omega) fun w hw ho => ?_
  have f0 : fld w 18 6 = a0 := fld_at 262144 64 (19) (0) rfl rfl (by rw [hw]; ring) (by omega)
  have r0 : rsv w 0 18 = true := rsv_at 1 262144 (1216 + a0.toNat * 1) (0) rfl rfl (by rw [hw]; ring) (by omega)
  rw [decodeNat, ho]
  exact guard_eq r0 (by rw [f0])
theorem smovhl (a0 a1) : Statement (.smovhl a0 a1) := by
  have h0 : a0.toNat < 64 := a0.isLt
  refine of_word 20 (a0.toNat * 262144 + 0) rfl (by rw [low_cons 18 _ 262144 rfl]; rfl) (by decide) (by omega) fun w hw ho => ?_
  have f0 : fld w 18 6 = a0 := fld_at 262144 64 (20) (0) rfl rfl (by rw [hw]; ring) (by omega)
  have r0 : rsv w 0 18 = true := rsv_at 1 262144 (1280 + a0.toNat * 1) (0) rfl rfl (by rw [hw]; ring) (by omega)
  rw [decodeNat, ho]
  exact guard_eq r0 (by rw [f0])
theorem saddl (a0 a1 a2) : Statement (.saddl a0 a1 a2) := by
  have h0 : a0.toNat < 64 := a0.isLt
  have h1 : a1.toNat < 64 := a1.isLt
  refine of_word 21 (a0.toNat * 262144 + (a1.toNat * 4096 + 0)) rfl (by rw [low_cons 18 _ 262144 rfl, low_cons 12 _ 4096 rfl]; rfl) (by decide) (by omega) fun w hw ho => ?_
  have f0 : fld w 18 6 = a0 := fld_at 262144 64 (21) (a1.toNat * 4096) rfl rfl (by rw [hw]; ring) (by omega)
  have f1 : fld w 12 6 = a1 := fld_at 4096 64 (1344 + a0.toNat * 1) (0) rfl rfl (by rw [hw]; ring) (by omega)
  have r0 : rsv w 0 12 = true := rsv_at 1 4096 (86016 + a0.toNat * 64 + a1.toNat * 1) (0) rfl rfl (by rw [hw]; ring) (by omega)
  rw [decodeNat, ho]
  exact guard_eq r0 (by rw [f0, f1])
theorem sld (a0 a1 a2 a3 a4 a5) : Statement (.sld a0 a1 a2 a3 a4 a5) := by
  have h0 : a0.toNat < 64 := a0.isLt
  have h1 : a1.toNat < 64 := a1.isLt
  have h2 : a2.toNat < 64 := a2.isLt
  have h3 : a3.toNat < 8 := a3.isLt
  have h4 : a4.toNat < 2 := a4.isLt
  have h5 : a5.toNat < 4 := a5.isLt
  refine of_word 22 (a0.toNat * 262144 + (a1.toNat * 4096 + (a2.toNat * 64 + (a3.toNat * 8 + (a4.toNat * 4 + (a5.toNat * 1 + 0)))))) rfl (by rw [low_cons 18 _ 262144 rfl, low_cons 12 _ 4096 rfl, low_cons 6 _ 64 rfl, low_cons 3 _ 8 rfl, low_cons 2 _ 4 rfl, low_cons 0 _ 1 rfl]; rfl) (by decide) (by omega) fun w hw ho => ?_
  have f0 : fld w 18 6 = a0 := fld_at 262144 64 (22) (a1.toNat * 4096 + a2.toNat * 64 + a3.toNat * 8 + a4.toNat * 4 + a5.toNat * 1) rfl rfl (by rw [hw]; ring) (by omega)
  have f1 : fld w 12 6 = a1 := fld_at 4096 64 (1408 + a0.toNat * 1) (a2.toNat * 64 + a3.toNat * 8 + a4.toNat * 4 + a5.toNat * 1) rfl rfl (by rw [hw]; ring) (by omega)
  have f2 : fld w 6 6 = a2 := fld_at 64 64 (90112 + a0.toNat * 64 + a1.toNat * 1) (a3.toNat * 8 + a4.toNat * 4 + a5.toNat * 1) rfl rfl (by rw [hw]; ring) (by omega)
  have f3 : fld w 3 3 = a3 := fld_at 8 8 (5767168 + a0.toNat * 4096 + a1.toNat * 64 + a2.toNat * 1) (a4.toNat * 4 + a5.toNat * 1) rfl rfl (by rw [hw]; ring) (by omega)
  have f4 : fld w 2 1 = a4 := fld_at 4 2 (46137344 + a0.toNat * 32768 + a1.toNat * 512 + a2.toNat * 8 + a3.toNat * 1) (a5.toNat * 1) rfl rfl (by rw [hw]; ring) (by omega)
  have f5 : fld w 0 2 = a5 := fld_at 1 4 (92274688 + a0.toNat * 65536 + a1.toNat * 1024 + a2.toNat * 16 + a3.toNat * 2 + a4.toNat * 1) (0) rfl rfl (by rw [hw]; ring) (by omega)
  rw [decodeNat, ho]
  exact congrArg Except.ok (by rw [f0, f1, f2, f3, f4, f5])
theorem sst (a0 a1 a2 a3 a4) : Statement (.sst a0 a1 a2 a3 a4) := by
  have h0 : a0.toNat < 64 := a0.isLt
  have h1 : a1.toNat < 64 := a1.isLt
  have h2 : a2.toNat < 64 := a2.isLt
  have h3 : a3.toNat < 8 := a3.isLt
  have h4 : a4.toNat < 4 := a4.isLt
  refine of_word 23 (a0.toNat * 262144 + (a1.toNat * 4096 + (a2.toNat * 64 + (a3.toNat * 8 + (a4.toNat * 1 + 0))))) rfl (by rw [low_cons 18 _ 262144 rfl, low_cons 12 _ 4096 rfl, low_cons 6 _ 64 rfl, low_cons 3 _ 8 rfl, low_cons 0 _ 1 rfl]; rfl) (by decide) (by omega) fun w hw ho => ?_
  have f0 : fld w 18 6 = a0 := fld_at 262144 64 (23) (a1.toNat * 4096 + a2.toNat * 64 + a3.toNat * 8 + a4.toNat * 1) rfl rfl (by rw [hw]; ring) (by omega)
  have f1 : fld w 12 6 = a1 := fld_at 4096 64 (1472 + a0.toNat * 1) (a2.toNat * 64 + a3.toNat * 8 + a4.toNat * 1) rfl rfl (by rw [hw]; ring) (by omega)
  have f2 : fld w 6 6 = a2 := fld_at 64 64 (94208 + a0.toNat * 64 + a1.toNat * 1) (a3.toNat * 8 + a4.toNat * 1) rfl rfl (by rw [hw]; ring) (by omega)
  have f3 : fld w 3 3 = a3 := fld_at 8 8 (6029312 + a0.toNat * 4096 + a1.toNat * 64 + a2.toNat * 1) (a4.toNat * 1) rfl rfl (by rw [hw]; ring) (by omega)
  have f4 : fld w 0 2 = a4 := fld_at 1 4 (96468992 + a0.toNat * 65536 + a1.toNat * 1024 + a2.toNat * 16 + a3.toNat * 2) (0) rfl rfl (by rw [hw]; ring) (by omega)
  have r0 : rsv w 2 1 = true := rsv_at 4 2 (48234496 + a0.toNat * 32768 + a1.toNat * 512 + a2.toNat * 8 + a3.toNat * 1) (a4.toNat * 1) rfl rfl (by rw [hw]; ring) (by omega)
  rw [decodeNat, ho]
  exact guard_eq r0 (by rw [f0, f1, f2, f3, f4])
theorem br (a0) : Statement (.br a0) := by
  have h0 : a0.toNat < 2097152 := a0.isLt
  refine of_word 24 (a0.toNat * 1 + 0) rfl (by rw [low_cons 0 _ 1 rfl]; rfl) (by decide) (by omega) fun w hw ho => ?_
  have f0 : fld w 0 21 = a0 := fld_at 1 2097152 (192) (0) rfl rfl (by rw [hw]; ring) (by omega)
  have r0 : rsv w 21 3 = true := rsv_at 2097152 8 (24) (a0.toNat * 1) rfl rfl (by rw [hw]; ring) (by omega)
  rw [decodeNat, ho]
  exact guard_eq r0 (by rw [f0])
theorem brc (a0 a1) : Statement (.brc a0 a1) := by
  have h0 : a0.toNat < 8 := a0.isLt
  have h1 : a1.toNat < 2097152 := a1.isLt
  refine of_word 25 (a0.toNat * 2097152 + (a1.toNat * 1 + 0)) rfl (by rw [low_cons 21 _ 2097152 rfl, low_cons 0 _ 1 rfl]; rfl) (by decide) (by omega) fun w hw ho => ?_
  have f0 : fld w 21 3 = a0 := fld_at 2097152 8 (25) (a1.toNat * 1) rfl rfl (by rw [hw]; ring) (by omega)
  have f1 : fld w 0 21 = a1 := fld_at 1 2097152 (200 + a0.toNat * 1) (0) rfl rfl (by rw [hw]; ring) (by omega)
  rw [decodeNat, ho]
  exact congrArg Except.ok (by rw [f0, f1])
theorem brv (a0 a1 a2) : Statement (.brv a0 a1 a2) := by
  have h0 : a0.toNat < 8 := a0.isLt
  have h1 : a1.toNat < 2097152 := a1.isLt
  refine of_word 26 (a0.toNat * 2097152 + (a1.toNat * 1 + 0)) rfl (by rw [low_cons 21 _ 2097152 rfl, low_cons 0 _ 1 rfl]; rfl) (by decide) (by omega) fun w hw ho => ?_
  have f0 : fld w 21 3 = a0 := fld_at 2097152 8 (26) (a1.toNat * 1) rfl rfl (by rw [hw]; ring) (by omega)
  have f1 : fld w 0 21 = a1 := fld_at 1 2097152 (208 + a0.toNat * 1) (0) rfl rfl (by rw [hw]; ring) (by omega)
  rw [decodeNat, ho]
  exact congrArg Except.ok (by rw [f0, f1])
theorem join : Statement (.join) := by
  refine of_word 27 (0) rfl rfl (by decide) (by omega) fun w hw ho => ?_
  have r0 : rsv w 0 24 = true := rsv_at 1 16777216 (27) (0) rfl rfl hw (by omega)
  rw [decodeNat, ho]
  exact guard_eq r0 rfl
theorem call (a0) : Statement (.call a0) := by
  have h0 : a0.toNat < 2097152 := a0.isLt
  refine of_word 28 (a0.toNat * 1 + 0) rfl (by rw [low_cons 0 _ 1 rfl]; rfl) (by decide) (by omega) fun w hw ho => ?_
  have f0 : fld w 0 21 = a0 := fld_at 1 2097152 (224) (0) rfl rfl (by rw [hw]; ring) (by omega)
  have r0 : rsv w 21 3 = true := rsv_at 2097152 8 (28) (a0.toNat * 1) rfl rfl (by rw [hw]; ring) (by omega)
  rw [decodeNat, ho]
  exact guard_eq r0 (by rw [f0])
theorem ret (a0) : Statement (.ret a0) := by
  have h0 : a0.toNat < 64 := a0.isLt
  refine of_word 29 (a0.toNat * 4096 + 0) rfl (by rw [low_cons 12 _ 4096 rfl]; rfl) (by decide) (by omega) fun w hw ho => ?_
  have f0 : fld w 12 6 = a0 := fld_at 4096 64 (1856) (0) rfl rfl (by rw [hw]; ring) (by omega)
  have r0 : rsv w 0 12 = true := rsv_at 1 4096 (118784 + a0.toNat * 1) (0) rfl rfl (by rw [hw]; ring) (by omega)
  have r1 : rsv w 18 6 = true := rsv_at 262144 64 (29) (a0.toNat * 4096) rfl rfl (by rw [hw]; ring) (by omega)
  rw [decodeNat, ho]
  exact guard_eq (by rw [r0, r1]; rfl) (by rw [f0])
theorem jmp (a0) : Statement (.jmp a0) := by
  have h0 : a0.toNat < 64 := a0.isLt
  refine of_word 30 (a0.toNat * 4096 + 0) rfl (by rw [low_cons 12 _ 4096 rfl]; rfl) (by decide) (by omega) fun w hw ho => ?_
  have f0 : fld w 12 6 = a0 := fld_at 4096 64 (1920) (0) rfl rfl (by rw [hw]; ring) (by omega)
  have r0 : rsv w 0 12 = true := rsv_at 1 4096 (122880 + a0.toNat * 1) (0) rfl rfl (by rw [hw]; ring) (by omega)
  have r1 : rsv w 18 6 = true := rsv_at 262144 64 (30) (a0.toNat * 4096) rfl rfl (by rw [hw]; ring) (by omega)
  rw [decodeNat, ho]
  exact guard_eq (by rw [r0, r1]; rfl) (by rw [f0])
theorem yield : Statement (.yield) := by
  refine of_word 31 (0) rfl rfl (by decide) (by omega) fun w hw ho => ?_
  have r0 : rsv w 0 24 = true := rsv_at 1 16777216 (31) (0) rfl rfl hw (by omega)
  rw [decodeNat, ho]
  exact guard_eq r0 rfl
theorem fmtset (a0 a1 a2) : Statement (.fmtset a0 a1 a2) := by
  have h0 : a0.toNat < 64 := a0.isLt
  have h1 : a1.toNat < 64 := a1.isLt
  have h2 : a2.toNat < 64 := a2.isLt
  refine of_word 32 (a0.toNat * 262144 + (a1.toNat * 4096 + (a2.toNat * 64 + 0))) rfl (by rw [low_cons 18 _ 262144 rfl, low_cons 12 _ 4096 rfl, low_cons 6 _ 64 rfl]; rfl) (by decide) (by omega) fun w hw ho => ?_
  have f0 : fld w 18 6 = a0 := fld_at 262144 64 (32) (a1.toNat * 4096 + a2.toNat * 64) rfl rfl (by rw [hw]; ring) (by omega)
  have f1 : fld w 12 6 = a1 := fld_at 4096 64 (2048 + a0.toNat * 1) (a2.toNat * 64) rfl rfl (by rw [hw]; ring) (by omega)
  have f2 : fld w 6 6 = a2 := fld_at 64 64 (131072 + a0.toNat * 64 + a1.toNat * 1) (0) rfl rfl (by rw [hw]; ring) (by omega)
  have r0 : rsv w 0 6 = true := rsv_at 1 64 (8388608 + a0.toNat * 4096 + a1.toNat * 64 + a2.toNat * 1) (0) rfl rfl (by rw [hw]; ring) (by omega)
  rw [decodeNat, ho]
  exact guard_eq r0 (by rw [f0, f1, f2])
theorem fmtget (a0) : Statement (.fmtget a0) := by
  have h0 : a0.toNat < 64 := a0.isLt
  refine of_word 33 (a0.toNat * 262144 + 0) rfl (by rw [low_cons 18 _ 262144 rfl]; rfl) (by decide) (by omega) fun w hw ho => ?_
  have f0 : fld w 18 6 = a0 := fld_at 262144 64 (33) (0) rfl rfl (by rw [hw]; ring) (by omega)
  have r0 : rsv w 0 18 = true := rsv_at 1 262144 (2112 + a0.toNat * 1) (0) rfl rfl (by rw [hw]; ring) (by omega)
  rw [decodeNat, ho]
  exact guard_eq r0 (by rw [f0])
theorem rdsrScalar (a0 a1) : Statement (.rdsrScalar a0 a1) := by
  have h0 : a0.toNat < 64 := a0.isLt
  have h1 : a1.toNat < 64 := a1.isLt
  refine of_word 34 (a0.toNat * 262144 + (a1.toNat * 1 + 0)) rfl (by rw [low_cons 18 _ 262144 rfl, low_cons 0 _ 1 rfl]; rfl) (by decide) (by omega) fun w hw ho => ?_
  have f0 : fld w 18 6 = a0 := fld_at 262144 64 (34) (a1.toNat * 1) rfl rfl (by rw [hw]; ring) (by omega)
  have f1 : fld w 0 6 = a1 := fld_at 1 64 (8912896 + a0.toNat * 4096) (0) rfl rfl (by rw [hw]; ring) (by omega)
  have r0 : rsv w 6 12 = true := rsv_at 64 4096 (2176 + a0.toNat * 1) (a1.toNat * 1) rfl rfl (by rw [hw]; ring) (by omega)
  rw [decodeNat, ho]
  exact guard_eq r0 (by rw [f0, f1])
theorem rdsrLane (a0 a1 a2) : Statement (.rdsrLane a0 a1 a2) := by
  have h0 : a0.toNat < 8 := a0.isLt
  have h1 : a1.toNat < 128 := a1.isLt
  have h2 : a2.toNat < 128 := a2.isLt
  refine of_word 35 (a0.toNat * 2097152 + (a1.toNat * 16384 + (a2.toNat * 1 + 0))) rfl (by rw [low_cons 21 _ 2097152 rfl, low_cons 14 _ 16384 rfl, low_cons 0 _ 1 rfl]; rfl) (by decide) (by omega) fun w hw ho => ?_
  have f0 : fld w 21 3 = a0 := fld_at 2097152 8 (35) (a1.toNat * 16384 + a2.toNat * 1) rfl rfl (by rw [hw]; ring) (by omega)
  have f1 : fld w 14 7 = a1 := fld_at 16384 128 (280 + a0.toNat * 1) (a2.toNat * 1) rfl rfl (by rw [hw]; ring) (by omega)
  have f2 : fld w 0 7 = a2 := fld_at 1 128 (4587520 + a0.toNat * 16384 + a1.toNat * 128) (0) rfl rfl (by rw [hw]; ring) (by omega)
  have r0 : rsv w 7 7 = true := rsv_at 128 128 (35840 + a0.toNat * 128 + a1.toNat * 1) (a2.toNat * 1) rfl rfl (by rw [hw]; ring) (by omega)
  rw [decodeNat, ho]
  exact guard_eq r0 (by rw [f0, f1, f2])
theorem wrsr (a0 a1) : Statement (.wrsr a0 a1) := by
  have h0 : a0.toNat < 64 := a0.isLt
  have h1 : a1.toNat < 64 := a1.isLt
  refine of_word 36 (a0.toNat * 4096 + (a1.toNat * 1 + 0)) rfl (by rw [low_cons 12 _ 4096 rfl, low_cons 0 _ 1 rfl]; rfl) (by decide) (by omega) fun w hw ho => ?_
  have f0 : fld w 12 6 = a0 := fld_at 4096 64 (2304) (a1.toNat * 1) rfl rfl (by rw [hw]; ring) (by omega)
  have f1 : fld w 0 6 = a1 := fld_at 1 64 (9437184 + a0.toNat * 64) (0) rfl rfl (by rw [hw]; ring) (by omega)
  have r0 : rsv w 6 6 = true := rsv_at 64 64 (147456 + a0.toNat * 1) (a1.toNat * 1) rfl rfl (by rw [hw]; ring) (by omega)
  have r1 : rsv w 18 6 = true := rsv_at 262144 64 (36) (a0.toNat * 4096 + a1.toNat * 1) rfl rfl (by rw [hw]; ring) (by omega)
  rw [decodeNat, ho]
  exact guard_eq (by rw [r0, r1]; rfl) (by rw [f0, f1])
theorem idxset (a0 a1) : Statement (.idxset a0 a1) := by
  have h0 : a0.toNat < 64 := a0.isLt
  have h1 : a1.toNat < 4 := a1.isLt
  refine of_word 37 (a0.toNat * 4096 + (a1.toNat * 1 + 0)) rfl (by rw [low_cons 12 _ 4096 rfl, low_cons 0 _ 1 rfl]; rfl) (by decide) (by omega) fun w hw ho => ?_
  have f0 : fld w 12 6 = a0 := fld_at 4096 64 (2368) (a1.toNat * 1) rfl rfl (by rw [hw]; ring) (by omega)
  have f1 : fld w 0 2 = a1 := fld_at 1 4 (155189248 + a0.toNat * 1024) (0) rfl rfl (by rw [hw]; ring) (by omega)
  have r0 : rsv w 2 10 = true := rsv_at 4 1024 (151552 + a0.toNat * 1) (a1.toNat * 1) rfl rfl (by rw [hw]; ring) (by omega)
  have r1 : rsv w 18 6 = true := rsv_at 262144 64 (37) (a0.toNat * 4096 + a1.toNat * 1) rfl rfl (by rw [hw]; ring) (by omega)
  rw [decodeNat, ho]
  exact guard_eq (by rw [r0, r1]; rfl) (by rw [f0, f1])
theorem launch (a0 a1 a2 a3) : Statement (.launch a0 a1 a2 a3) := by
  have h0 : a0.toNat < 8 := a0.isLt
  have h1 : a1.toNat < 128 := a1.isLt
  have h2 : a2.toNat < 128 := a2.isLt
  have h3 : a3.toNat < 128 := a3.isLt
  refine of_word 38 (a0.toNat * 2097152 + (a1.toNat * 16384 + (a2.toNat * 128 + (a3.toNat * 1 + 0)))) rfl (by rw [low_cons 21 _ 2097152 rfl, low_cons 14 _ 16384 rfl, low_cons 7 _ 128 rfl, low_cons 0 _ 1 rfl]; rfl) (by decide) (by omega) fun w hw ho => ?_
  have f0 : fld w 21 3 = a0 := fld_at 2097152 8 (38) (a1.toNat * 16384 + a2.toNat * 128 + a3.toNat * 1) rfl rfl (by rw [hw]; ring) (by omega)
  have f1 : fld w 14 7 = a1 := fld_at 16384 128 (304 + a0.toNat * 1) (a2.toNat * 128 + a3.toNat * 1) rfl rfl (by rw [hw]; ring) (by omega)
  have f2 : fld w 7 7 = a2 := fld_at 128 128 (38912 + a0.toNat * 128 + a1.toNat * 1) (a3.toNat * 1) rfl rfl (by rw [hw]; ring) (by omega)
  have f3 : fld w 0 7 = a3 := fld_at 1 128 (4980736 + a0.toNat * 16384 + a1.toNat * 128 + a2.toNat * 1) (0) rfl rfl (by rw [hw]; ring) (by omega)
  rw [decodeNat, ho]
  exact congrArg Except.ok (by rw [f0, f1, f2, f3])
theorem barGrp : Statement (.barGrp) := by
  refine of_word 39 (0) rfl rfl (by decide) (by omega) fun w hw ho => ?_
  have r0 : rsv w 0 24 = true := rsv_at 1 16777216 (39) (0) rfl rfl hw (by omega)
  rw [decodeNat, ho]
  exact guard_eq r0 rfl
theorem barGang : Statement (.barGang) := by
  refine of_word 40 (0) rfl rfl (by decide) (by omega) fun w hw ho => ?_
  have r0 : rsv w 0 24 = true := rsv_at 1 16777216 (40) (0) rfl rfl hw (by omega)
  rw [decodeNat, ho]
  exact guard_eq r0 rfl
theorem exit : Statement (.exit) := by
  refine of_word 41 (0) rfl rfl (by decide) (by omega) fun w hw ho => ?_
  have r0 : rsv w 0 24 = true := rsv_at 1 16777216 (41) (0) rfl rfl hw (by omega)
  rw [decodeNat, ho]
  exact guard_eq r0 rfl
theorem sysc (a0 a1 a2) : Statement (.sysc a0 a1 a2) := by
  have h0 : a0.toNat < 8 := a0.isLt
  have h1 : a1.toNat < 128 := a1.isLt
  have h2 : a2.toNat < 128 := a2.isLt
  refine of_word 42 (a0.toNat * 2097152 + (a1.toNat * 128 + (a2.toNat * 1 + 0))) rfl (by rw [low_cons 21 _ 2097152 rfl, low_cons 7 _ 128 rfl, low_cons 0 _ 1 rfl]; rfl) (by decide) (by omega) fun w hw ho => ?_
  have f0 : fld w 21 3 = a0 := fld_at 2097152 8 (42) (a1.toNat * 128 + a2.toNat * 1) rfl rfl (by rw [hw]; ring) (by omega)
  have f1 : fld w 7 7 = a1 := fld_at 128 128 (43008 + a0.toNat * 128) (a2.toNat * 1) rfl rfl (by rw [hw]; ring) (by omega)
  have f2 : fld w 0 7 = a2 := fld_at 1 128 (5505024 + a0.toNat * 16384 + a1.toNat * 1) (0) rfl rfl (by rw [hw]; ring) (by omega)
  have r0 : rsv w 14 7 = true := rsv_at 16384 128 (336 + a0.toNat * 1) (a1.toNat * 128 + a2.toNat * 1) rfl rfl (by rw [hw]; ring) (by omega)
  rw [decodeNat, ho]
  exact guard_eq r0 (by rw [f0, f1, f2])
theorem brk (a0) : Statement (.brk a0) := by
  have h0 : a0.toNat < 262144 := a0.isLt
  refine of_word 43 (a0.toNat * 1 + 0) rfl (by rw [low_cons 0 _ 1 rfl]; rfl) (by decide) (by omega) fun w hw ho => ?_
  have f0 : fld w 0 18 = a0 := fld_at 1 262144 (2752) (0) rfl rfl (by rw [hw]; ring) (by omega)
  have r0 : rsv w 18 6 = true := rsv_at 262144 64 (43) (a0.toNat * 1) rfl rfl (by rw [hw]; ring) (by omega)
  rw [decodeNat, ho]
  exact guard_eq r0 (by rw [f0])
theorem trapi (a0 a1) : Statement (.trapi a0 a1) := by
  have h0 : a0.toNat < 64 := a0.isLt
  have h1 : a1.toNat < 262144 := a1.isLt
  refine of_word 44 (a0.toNat * 262144 + (a1.toNat * 1 + 0)) rfl (by rw [low_cons 18 _ 262144 rfl, low_cons 0 _ 1 rfl]; rfl) (by decide) (by omega) fun w hw ho => ?_
  have f0 : fld w 18 6 = a0 := fld_at 262144 64 (44) (a1.toNat * 1) rfl rfl (by rw [hw]; ring) (by omega)
  have f1 : fld w 0 18 = a1 := fld_at 1 262144 (2816 + a0.toNat * 1) (0) rfl rfl (by rw [hw]; ring) (by omega)
  rw [decodeNat, ho]
  exact congrArg Except.ok (by rw [f0, f1])
theorem vadd (a0 a1 a2 a3) : Statement (.vadd a0 a1 a2 a3) := by
  have h0 : a0.toNat < 8 := a0.isLt
  have h1 : a1.toNat < 128 := a1.isLt
  have h2 : a2.toNat < 128 := a2.isLt
  have h3 : a3.toNat < 128 := a3.isLt
  refine of_word 64 (a0.toNat * 2097152 + (a1.toNat * 16384 + (a2.toNat * 128 + (a3.toNat * 1 + 0)))) rfl (by rw [low_cons 21 _ 2097152 rfl, low_cons 14 _ 16384 rfl, low_cons 7 _ 128 rfl, low_cons 0 _ 1 rfl]; rfl) (by decide) (by omega) fun w hw ho => ?_
  have f0 : fld w 21 3 = a0 := fld_at 2097152 8 (64) (a1.toNat * 16384 + a2.toNat * 128 + a3.toNat * 1) rfl rfl (by rw [hw]; ring) (by omega)
  have f1 : fld w 14 7 = a1 := fld_at 16384 128 (512 + a0.toNat * 1) (a2.toNat * 128 + a3.toNat * 1) rfl rfl (by rw [hw]; ring) (by omega)
  have f2 : fld w 7 7 = a2 := fld_at 128 128 (65536 + a0.toNat * 128 + a1.toNat * 1) (a3.toNat * 1) rfl rfl (by rw [hw]; ring) (by omega)
  have f3 : fld w 0 7 = a3 := fld_at 1 128 (8388608 + a0.toNat * 16384 + a1.toNat * 128 + a2.toNat * 1) (0) rfl rfl (by rw [hw]; ring) (by omega)
  rw [decodeNat, ho]
  exact congrArg Except.ok (by rw [f0, f1, f2, f3])
theorem vsub (a0 a1 a2 a3) : Statement (.vsub a0 a1 a2 a3) := by
  have h0 : a0.toNat < 8 := a0.isLt
  have h1 : a1.toNat < 128 := a1.isLt
  have h2 : a2.toNat < 128 := a2.isLt
  have h3 : a3.toNat < 128 := a3.isLt
  refine of_word 65 (a0.toNat * 2097152 + (a1.toNat * 16384 + (a2.toNat * 128 + (a3.toNat * 1 + 0)))) rfl (by rw [low_cons 21 _ 2097152 rfl, low_cons 14 _ 16384 rfl, low_cons 7 _ 128 rfl, low_cons 0 _ 1 rfl]; rfl) (by decide) (by omega) fun w hw ho => ?_
  have f0 : fld w 21 3 = a0 := fld_at 2097152 8 (65) (a1.toNat * 16384 + a2.toNat * 128 + a3.toNat * 1) rfl rfl (by rw [hw]; ring) (by omega)
  have f1 : fld w 14 7 = a1 := fld_at 16384 128 (520 + a0.toNat * 1) (a2.toNat * 128 + a3.toNat * 1) rfl rfl (by rw [hw]; ring) (by omega)
  have f2 : fld w 7 7 = a2 := fld_at 128 128 (66560 + a0.toNat * 128 + a1.toNat * 1) (a3.toNat * 1) rfl rfl (by rw [hw]; ring) (by omega)
  have f3 : fld w 0 7 = a3 := fld_at 1 128 (8519680 + a0.toNat * 16384 + a1.toNat * 128 + a2.toNat * 1) (0) rfl rfl (by rw [hw]; ring) (by omega)
  rw [decodeNat, ho]
  exact congrArg Except.ok (by rw [f0, f1, f2, f3])
theorem vmul (a0 a1 a2 a3) : Statement (.vmul a0 a1 a2 a3) := by
  have h0 : a0.toNat < 8 := a0.isLt
  have h1 : a1.toNat < 128 := a1.isLt
  have h2 : a2.toNat < 128 := a2.isLt
  have h3 : a3.toNat < 128 := a3.isLt
  refine of_word 66 (a0.toNat * 2097152 + (a1.toNat * 16384 + (a2.toNat * 128 + (a3.toNat * 1 + 0)))) rfl (by rw [low_cons 21 _ 2097152 rfl, low_cons 14 _ 16384 rfl, low_cons 7 _ 128 rfl, low_cons 0 _ 1 rfl]; rfl) (by decide) (by omega) fun w hw ho => ?_
  have f0 : fld w 21 3 = a0 := fld_at 2097152 8 (66) (a1.toNat * 16384 + a2.toNat * 128 + a3.toNat * 1) rfl rfl (by rw [hw]; ring) (by omega)
  have f1 : fld w 14 7 = a1 := fld_at 16384 128 (528 + a0.toNat * 1) (a2.toNat * 128 + a3.toNat * 1) rfl rfl (by rw [hw]; ring) (by omega)
  have f2 : fld w 7 7 = a2 := fld_at 128 128 (67584 + a0.toNat * 128 + a1.toNat * 1) (a3.toNat * 1) rfl rfl (by rw [hw]; ring) (by omega)
  have f3 : fld w 0 7 = a3 := fld_at 1 128 (8650752 + a0.toNat * 16384 + a1.toNat * 128 + a2.toNat * 1) (0) rfl rfl (by rw [hw]; ring) (by omega)
  rw [decodeNat, ho]
  exact congrArg Except.ok (by rw [f0, f1, f2, f3])
theorem vmulh (a0 a1 a2 a3) : Statement (.vmulh a0 a1 a2 a3) := by
  have h0 : a0.toNat < 8 := a0.isLt
  have h1 : a1.toNat < 128 := a1.isLt
  have h2 : a2.toNat < 128 := a2.isLt
  have h3 : a3.toNat < 128 := a3.isLt
  refine of_word 67 (a0.toNat * 2097152 + (a1.toNat * 16384 + (a2.toNat * 128 + (a3.toNat * 1 + 0)))) rfl (by rw [low_cons 21 _ 2097152 rfl, low_cons 14 _ 16384 rfl, low_cons 7 _ 128 rfl, low_cons 0 _ 1 rfl]; rfl) (by decide) (by omega) fun w hw ho => ?_
  have f0 : fld w 21 3 = a0 := fld_at 2097152 8 (67) (a1.toNat * 16384 + a2.toNat * 128 + a3.toNat * 1) rfl rfl (by rw [hw]; ring) (by omega)
  have f1 : fld w 14 7 = a1 := fld_at 16384 128 (536 + a0.toNat * 1) (a2.toNat * 128 + a3.toNat * 1) rfl rfl (by rw [hw]; ring) (by omega)
  have f2 : fld w 7 7 = a2 := fld_at 128 128 (68608 + a0.toNat * 128 + a1.toNat * 1) (a3.toNat * 1) rfl rfl (by rw [hw]; ring) (by omega)
  have f3 : fld w 0 7 = a3 := fld_at 1 128 (8781824 + a0.toNat * 16384 + a1.toNat * 128 + a2.toNat * 1) (0) rfl rfl (by rw [hw]; ring) (by omega)
  rw [decodeNat, ho]
  exact congrArg Except.ok (by rw [f0, f1, f2, f3])
theorem vmad (a0 a1 a2 a3) : Statement (.vmad a0 a1 a2 a3) := by
  have h0 : a0.toNat < 8 := a0.isLt
  have h1 : a1.toNat < 128 := a1.isLt
  have h2 : a2.toNat < 128 := a2.isLt
  have h3 : a3.toNat < 128 := a3.isLt
  refine of_word 68 (a0.toNat * 2097152 + (a1.toNat * 16384 + (a2.toNat * 128 + (a3.toNat * 1 + 0)))) rfl (by rw [low_cons 21 _ 2097152 rfl, low_cons 14 _ 16384 rfl, low_cons 7 _ 128 rfl, low_cons 0 _ 1 rfl]; rfl) (by decide) (by omega) fun w hw ho => ?_
  have f0 : fld w 21 3 = a0 := fld_at 2097152 8 (68) (a1.toNat * 16384 + a2.toNat * 128 + a3.toNat * 1) rfl rfl (by rw [hw]; ring) (by omega)
  have f1 : fld w 14 7 = a1 := fld_at 16384 128 (544 + a0.toNat * 1) (a2.toNat * 128 + a3.toNat * 1) rfl rfl (by rw [hw]; ring) (by omega)
  have f2 : fld w 7 7 = a2 := fld_at 128 128 (69632 + a0.toNat * 128 + a1.toNat * 1) (a3.toNat * 1) rfl rfl (by rw [hw]; ring) (by omega)
  have f3 : fld w 0 7 = a3 := fld_at 1 128 (8912896 + a0.toNat * 16384 + a1.toNat * 128 + a2.toNat * 1) (0) rfl rfl (by rw [hw]; ring) (by omega)
  rw [decodeNat, ho]
  exact congrArg Except.ok (by rw [f0, f1, f2, f3])
theorem vmin (a0 a1 a2 a3) : Statement (.vmin a0 a1 a2 a3) := by
  have h0 : a0.toNat < 8 := a0.isLt
  have h1 : a1.toNat < 128 := a1.isLt
  have h2 : a2.toNat < 128 := a2.isLt
  have h3 : a3.toNat < 128 := a3.isLt
  refine of_word 69 (a0.toNat * 2097152 + (a1.toNat * 16384 + (a2.toNat * 128 + (a3.toNat * 1 + 0)))) rfl (by rw [low_cons 21 _ 2097152 rfl, low_cons 14 _ 16384 rfl, low_cons 7 _ 128 rfl, low_cons 0 _ 1 rfl]; rfl) (by decide) (by omega) fun w hw ho => ?_
  have f0 : fld w 21 3 = a0 := fld_at 2097152 8 (69) (a1.toNat * 16384 + a2.toNat * 128 + a3.toNat * 1) rfl rfl (by rw [hw]; ring) (by omega)
  have f1 : fld w 14 7 = a1 := fld_at 16384 128 (552 + a0.toNat * 1) (a2.toNat * 128 + a3.toNat * 1) rfl rfl (by rw [hw]; ring) (by omega)
  have f2 : fld w 7 7 = a2 := fld_at 128 128 (70656 + a0.toNat * 128 + a1.toNat * 1) (a3.toNat * 1) rfl rfl (by rw [hw]; ring) (by omega)
  have f3 : fld w 0 7 = a3 := fld_at 1 128 (9043968 + a0.toNat * 16384 + a1.toNat * 128 + a2.toNat * 1) (0) rfl rfl (by rw [hw]; ring) (by omega)
  rw [decodeNat, ho]
  exact congrArg Except.ok (by rw [f0, f1, f2, f3])
theorem vmax (a0 a1 a2 a3) : Statement (.vmax a0 a1 a2 a3) := by
  have h0 : a0.toNat < 8 := a0.isLt
  have h1 : a1.toNat < 128 := a1.isLt
  have h2 : a2.toNat < 128 := a2.isLt
  have h3 : a3.toNat < 128 := a3.isLt
  refine of_word 70 (a0.toNat * 2097152 + (a1.toNat * 16384 + (a2.toNat * 128 + (a3.toNat * 1 + 0)))) rfl (by rw [low_cons 21 _ 2097152 rfl, low_cons 14 _ 16384 rfl, low_cons 7 _ 128 rfl, low_cons 0 _ 1 rfl]; rfl) (by decide) (by omega) fun w hw ho => ?_
  have f0 : fld w 21 3 = a0 := fld_at 2097152 8 (70) (a1.toNat * 16384 + a2.toNat * 128 + a3.toNat * 1) rfl rfl (by rw [hw]; ring) (by omega)
  have f1 : fld w 14 7 = a1 := fld_at 16384 128 (560 + a0.toNat * 1) (a2.toNat * 128 + a3.toNat * 1) rfl rfl (by rw [hw]; ring) (by omega)
  have f2 : fld w 7 7 = a2 := fld_at 128 128 (71680 + a0.toNat * 128 + a1.toNat * 1) (a3.toNat * 1) rfl rfl (by rw [hw]; ring) (by omega)
  have f3 : fld w 0 7 = a3 := fld_at 1 128 (9175040 + a0.toNat * 16384 + a1.toNat * 128 + a2.toNat * 1) (0) rfl rfl (by rw [hw]; ring) (by omega)
  rw [decodeNat, ho]
  exact congrArg Except.ok (by rw [f0, f1, f2, f3])
theorem vabs (a0 a1 a2) : Statement (.vabs a0 a1 a2) := by
  have h0 : a0.toNat < 8 := a0.isLt
  have h1 : a1.toNat < 128 := a1.isLt
  have h2 : a2.toNat < 128 := a2.isLt
  refine of_word 71 (a0.toNat * 2097152 + (a1.toNat * 16384 + (a2.toNat * 128 + 0))) rfl (by rw [low_cons 21 _ 2097152 rfl, low_cons 14 _ 16384 rfl, low_cons 7 _ 128 rfl]; rfl) (by decide) (by omega) fun w hw ho => ?_
  have f0 : fld w 21 3 = a0 := fld_at 2097152 8 (71) (a1.toNat * 16384 + a2.toNat * 128) rfl rfl (by rw [hw]; ring) (by omega)
  have f1 : fld w 14 7 = a1 := fld_at 16384 128 (568 + a0.toNat * 1) (a2.toNat * 128) rfl rfl (by rw [hw]; ring) (by omega)
  have f2 : fld w 7 7 = a2 := fld_at 128 128 (72704 + a0.toNat * 128 + a1.toNat * 1) (0) rfl rfl (by rw [hw]; ring) (by omega)
  have r0 : rsv w 0 7 = true := rsv_at 1 128 (9306112 + a0.toNat * 16384 + a1.toNat * 128 + a2.toNat * 1) (0) rfl rfl (by rw [hw]; ring) (by omega)
  rw [decodeNat, ho]
  exact guard_eq r0 (by rw [f0, f1, f2])
theorem vand (a0 a1 a2 a3) : Statement (.vand a0 a1 a2 a3) := by
  have h0 : a0.toNat < 8 := a0.isLt
  have h1 : a1.toNat < 128 := a1.isLt
  have h2 : a2.toNat < 128 := a2.isLt
  have h3 : a3.toNat < 128 := a3.isLt
  refine of_word 72 (a0.toNat * 2097152 + (a1.toNat * 16384 + (a2.toNat * 128 + (a3.toNat * 1 + 0)))) rfl (by rw [low_cons 21 _ 2097152 rfl, low_cons 14 _ 16384 rfl, low_cons 7 _ 128 rfl, low_cons 0 _ 1 rfl]; rfl) (by decide) (by omega) fun w hw ho => ?_
  have f0 : fld w 21 3 = a0 := fld_at 2097152 8 (72) (a1.toNat * 16384 + a2.toNat * 128 + a3.toNat * 1) rfl rfl (by rw [hw]; ring) (by omega)
  have f1 : fld w 14 7 = a1 := fld_at 16384 128 (576 + a0.toNat * 1) (a2.toNat * 128 + a3.toNat * 1) rfl rfl (by rw [hw]; ring) (by omega)
  have f2 : fld w 7 7 = a2 := fld_at 128 128 (73728 + a0.toNat * 128 + a1.toNat * 1) (a3.toNat * 1) rfl rfl (by rw [hw]; ring) (by omega)
  have f3 : fld w 0 7 = a3 := fld_at 1 128 (9437184 + a0.toNat * 16384 + a1.toNat * 128 + a2.toNat * 1) (0) rfl rfl (by rw [hw]; ring) (by omega)
  rw [decodeNat, ho]
  exact congrArg Except.ok (by rw [f0, f1, f2, f3])
theorem vor (a0 a1 a2 a3) : Statement (.vor a0 a1 a2 a3) := by
  have h0 : a0.toNat < 8 := a0.isLt
  have h1 : a1.toNat < 128 := a1.isLt
  have h2 : a2.toNat < 128 := a2.isLt
  have h3 : a3.toNat < 128 := a3.isLt
  refine of_word 73 (a0.toNat * 2097152 + (a1.toNat * 16384 + (a2.toNat * 128 + (a3.toNat * 1 + 0)))) rfl (by rw [low_cons 21 _ 2097152 rfl, low_cons 14 _ 16384 rfl, low_cons 7 _ 128 rfl, low_cons 0 _ 1 rfl]; rfl) (by decide) (by omega) fun w hw ho => ?_
  have f0 : fld w 21 3 = a0 := fld_at 2097152 8 (73) (a1.toNat * 16384 + a2.toNat * 128 + a3.toNat * 1) rfl rfl (by rw [hw]; ring) (by omega)
  have f1 : fld w 14 7 = a1 := fld_at 16384 128 (584 + a0.toNat * 1) (a2.toNat * 128 + a3.toNat * 1) rfl rfl (by rw [hw]; ring) (by omega)
  have f2 : fld w 7 7 = a2 := fld_at 128 128 (74752 + a0.toNat * 128 + a1.toNat * 1) (a3.toNat * 1) rfl rfl (by rw [hw]; ring) (by omega)
  have f3 : fld w 0 7 = a3 := fld_at 1 128 (9568256 + a0.toNat * 16384 + a1.toNat * 128 + a2.toNat * 1) (0) rfl rfl (by rw [hw]; ring) (by omega)
  rw [decodeNat, ho]
  exact congrArg Except.ok (by rw [f0, f1, f2, f3])
theorem vxor (a0 a1 a2 a3) : Statement (.vxor a0 a1 a2 a3) := by
  have h0 : a0.toNat < 8 := a0.isLt
  have h1 : a1.toNat < 128 := a1.isLt
  have h2 : a2.toNat < 128 := a2.isLt
  have h3 : a3.toNat < 128 := a3.isLt
  refine of_word 74 (a0.toNat * 2097152 + (a1.toNat * 16384 + (a2.toNat * 128 + (a3.toNat * 1 + 0)))) rfl (by rw [low_cons 21 _ 2097152 rfl, low_cons 14 _ 16384 rfl, low_cons 7 _ 128 rfl, low_cons 0 _ 1 rfl]; rfl) (by decide) (by omega) fun w hw ho => ?_
  have f0 : fld w 21 3 = a0 := fld_at 2097152 8 (74) (a1.toNat * 16384 + a2.toNat * 128 + a3.toNat * 1) rfl rfl (by rw [hw]; ring) (by omega)
  have f1 : fld w 14 7 = a1 := fld_at 16384 128 (592 + a0.toNat * 1) (a2.toNat * 128 + a3.toNat * 1) rfl rfl (by rw [hw]; ring) (by omega)
  have f2 : fld w 7 7 = a2 := fld_at 128 128 (75776 + a0.toNat * 128 + a1.toNat * 1) (a3.toNat * 1) rfl rfl (by rw [hw]; ring) (by omega)
  have f3 : fld w 0 7 = a3 := fld_at 1 128 (9699328 + a0.toNat * 16384 + a1.toNat * 128 + a2.toNat * 1) (0) rfl rfl (by rw [hw]; ring) (by omega)
  rw [decodeNat, ho]
  exact congrArg Except.ok (by rw [f0, f1, f2, f3])
theorem vnot (a0 a1 a2) : Statement (.vnot a0 a1 a2) := by
  have h0 : a0.toNat < 8 := a0.isLt
  have h1 : a1.toNat < 128 := a1.isLt
  have h2 : a2.toNat < 128 := a2.isLt
  refine of_word 75 (a0.toNat * 2097152 + (a1.toNat * 16384 + (a2.toNat * 128 + 0))) rfl (by rw [low_cons 21 _ 2097152 rfl, low_cons 14 _ 16384 rfl, low_cons 7 _ 128 rfl]; rfl) (by decide) (by omega) fun w hw ho => ?_
  have f0 : fld w 21 3 = a0 := fld_at 2097152 8 (75) (a1.toNat * 16384 + a2.toNat * 128) rfl rfl (by rw [hw]; ring) (by omega)
  have f1 : fld w 14 7 = a1 := fld_at 16384 128 (600 + a0.toNat * 1) (a2.toNat * 128) rfl rfl (by rw [hw]; ring) (by omega)
  have f2 : fld w 7 7 = a2 := fld_at 128 128 (76800 + a0.toNat * 128 + a1.toNat * 1) (0) rfl rfl (by rw [hw]; ring) (by omega)
  have r0 : rsv w 0 7 = true := rsv_at 1 128 (9830400 + a0.toNat * 16384 + a1.toNat * 128 + a2.toNat * 1) (0) rfl rfl (by rw [hw]; ring) (by omega)
  rw [decodeNat, ho]
  exact guard_eq r0 (by rw [f0, f1, f2])
theorem vshl (a0 a1 a2 a3) : Statement (.vshl a0 a1 a2 a3) := by
  have h0 : a0.toNat < 8 := a0.isLt
  have h1 : a1.toNat < 128 := a1.isLt
  have h2 : a2.toNat < 128 := a2.isLt
  have h3 : a3.toNat < 128 := a3.isLt
  refine of_word 76 (a0.toNat * 2097152 + (a1.toNat * 16384 + (a2.toNat * 128 + (a3.toNat * 1 + 0)))) rfl (by rw [low_cons 21 _ 2097152 rfl, low_cons 14 _ 16384 rfl, low_cons 7 _ 128 rfl, low_cons 0 _ 1 rfl]; rfl) (by decide) (by omega) fun w hw ho => ?_
  have f0 : fld w 21 3 = a0 := fld_at 2097152 8 (76) (a1.toNat * 16384 + a2.toNat * 128 + a3.toNat * 1) rfl rfl (by rw [hw]; ring) (by omega)
  have f1 : fld w 14 7 = a1 := fld_at 16384 128 (608 + a0.toNat * 1) (a2.toNat * 128 + a3.toNat * 1) rfl rfl (by rw [hw]; ring) (by omega)
  have f2 : fld w 7 7 = a2 := fld_at 128 128 (77824 + a0.toNat * 128 + a1.toNat * 1) (a3.toNat * 1) rfl rfl (by rw [hw]; ring) (by omega)
  have f3 : fld w 0 7 = a3 := fld_at 1 128 (9961472 + a0.toNat * 16384 + a1.toNat * 128 + a2.toNat * 1) (0) rfl rfl (by rw [hw]; ring) (by omega)
  rw [decodeNat, ho]
  exact congrArg Except.ok (by rw [f0, f1, f2, f3])
theorem vshr (a0 a1 a2 a3) : Statement (.vshr a0 a1 a2 a3) := by
  have h0 : a0.toNat < 8 := a0.isLt
  have h1 : a1.toNat < 128 := a1.isLt
  have h2 : a2.toNat < 128 := a2.isLt
  have h3 : a3.toNat < 128 := a3.isLt
  refine of_word 77 (a0.toNat * 2097152 + (a1.toNat * 16384 + (a2.toNat * 128 + (a3.toNat * 1 + 0)))) rfl (by rw [low_cons 21 _ 2097152 rfl, low_cons 14 _ 16384 rfl, low_cons 7 _ 128 rfl, low_cons 0 _ 1 rfl]; rfl) (by decide) (by omega) fun w hw ho => ?_
  have f0 : fld w 21 3 = a0 := fld_at 2097152 8 (77) (a1.toNat * 16384 + a2.toNat * 128 + a3.toNat * 1) rfl rfl (by rw [hw]; ring) (by omega)
  have f1 : fld w 14 7 = a1 := fld_at 16384 128 (616 + a0.toNat * 1) (a2.toNat * 128 + a3.toNat * 1) rfl rfl (by rw [hw]; ring) (by omega)
  have f2 : fld w 7 7 = a2 := fld_at 128 128 (78848 + a0.toNat * 128 + a1.toNat * 1) (a3.toNat * 1) rfl rfl (by rw [hw]; ring) (by omega)
  have f3 : fld w 0 7 = a3 := fld_at 1 128 (10092544 + a0.toNat * 16384 + a1.toNat * 128 + a2.toNat * 1) (0) rfl rfl (by rw [hw]; ring) (by omega)
  rw [decodeNat, ho]
  exact congrArg Except.ok (by rw [f0, f1, f2, f3])
theorem vsar (a0 a1 a2 a3) : Statement (.vsar a0 a1 a2 a3) := by
  have h0 : a0.toNat < 8 := a0.isLt
  have h1 : a1.toNat < 128 := a1.isLt
  have h2 : a2.toNat < 128 := a2.isLt
  have h3 : a3.toNat < 128 := a3.isLt
  refine of_word 78 (a0.toNat * 2097152 + (a1.toNat * 16384 + (a2.toNat * 128 + (a3.toNat * 1 + 0)))) rfl (by rw [low_cons 21 _ 2097152 rfl, low_cons 14 _ 16384 rfl, low_cons 7 _ 128 rfl, low_cons 0 _ 1 rfl]; rfl) (by decide) (by omega) fun w hw ho => ?_
  have f0 : fld w 21 3 = a0 := fld_at 2097152 8 (78) (a1.toNat * 16384 + a2.toNat * 128 + a3.toNat * 1) rfl rfl (by rw [hw]; ring) (by omega)
  have f1 : fld w 14 7 = a1 := fld_at 16384 128 (624 + a0.toNat * 1) (a2.toNat * 128 + a3.toNat * 1) rfl rfl (by rw [hw]; ring) (by omega)
  have f2 : fld w 7 7 = a2 := fld_at 128 128 (79872 + a0.toNat * 128 + a1.toNat * 1) (a3.toNat * 1) rfl rfl (by rw [hw]; ring) (by omega)
  have f3 : fld w 0 7 = a3 := fld_at 1 128 (10223616 + a0.toNat * 16384 + a1.toNat * 128 + a2.toNat * 1) (0) rfl rfl (by rw [hw]; ring) (by omega)
  rw [decodeNat, ho]
  exact congrArg Except.ok (by rw [f0, f1, f2, f3])
theorem vrot (a0 a1 a2 a3) : Statement (.vrot a0 a1 a2 a3) := by
  have h0 : a0.toNat < 8 := a0.isLt
  have h1 : a1.toNat < 128 := a1.isLt
  have h2 : a2.toNat < 128 := a2.isLt
  have h3 : a3.toNat < 128 := a3.isLt
  refine of_word 79 (a0.toNat * 2097152 + (a1.toNat * 16384 + (a2.toNat * 128 + (a3.toNat * 1 + 0)))) rfl (by rw [low_cons 21 _ 2097152 rfl, low_cons 14 _ 16384 rfl, low_cons 7 _ 128 rfl, low_cons 0 _ 1 rfl]; rfl) (by decide) (by omega) fun w hw ho => ?_
  have f0 : fld w 21 3 = a0 := fld_at 2097152 8 (79) (a1.toNat * 16384 + a2.toNat * 128 + a3.toNat * 1) rfl rfl (by rw [hw]; ring) (by omega)
  have f1 : fld w 14 7 = a1 := fld_at 16384 128 (632 + a0.toNat * 1) (a2.toNat * 128 + a3.toNat * 1) rfl rfl (by rw [hw]; ring) (by omega)
  have f2 : fld w 7 7 = a2 := fld_at 128 128 (80896 + a0.toNat * 128 + a1.toNat * 1) (a3.toNat * 1) rfl rfl (by rw [hw]; ring) (by omega)
  have f3 : fld w 0 7 = a3 := fld_at 1 128 (10354688 + a0.toNat * 16384 + a1.toNat * 128 + a2.toNat * 1) (0) rfl rfl (by rw [hw]; ring) (by omega)
  rw [decodeNat, ho]
  exact congrArg Except.ok (by rw [f0, f1, f2, f3])
theorem vpopc (a0 a1 a2) : Statement (.vpopc a0 a1 a2) := by
  have h0 : a0.toNat < 8 := a0.isLt
  have h1 : a1.toNat < 128 := a1.isLt
  have h2 : a2.toNat < 128 := a2.isLt
  refine of_word 80 (a0.toNat * 2097152 + (a1.toNat * 16384 + (a2.toNat * 128 + 0))) rfl (by rw [low_cons 21 _ 2097152 rfl, low_cons 14 _ 16384 rfl, low_cons 7 _ 128 rfl]; rfl) (by decide) (by omega) fun w hw ho => ?_
  have f0 : fld w 21 3 = a0 := fld_at 2097152 8 (80) (a1.toNat * 16384 + a2.toNat * 128) rfl rfl (by rw [hw]; ring) (by omega)
  have f1 : fld w 14 7 = a1 := fld_at 16384 128 (640 + a0.toNat * 1) (a2.toNat * 128) rfl rfl (by rw [hw]; ring) (by omega)
  have f2 : fld w 7 7 = a2 := fld_at 128 128 (81920 + a0.toNat * 128 + a1.toNat * 1) (0) rfl rfl (by rw [hw]; ring) (by omega)
  have r0 : rsv w 0 7 = true := rsv_at 1 128 (10485760 + a0.toNat * 16384 + a1.toNat * 128 + a2.toNat * 1) (0) rfl rfl (by rw [hw]; ring) (by omega)
  rw [decodeNat, ho]
  exact guard_eq r0 (by rw [f0, f1, f2])
theorem vclz (a0 a1 a2) : Statement (.vclz a0 a1 a2) := by
  have h0 : a0.toNat < 8 := a0.isLt
  have h1 : a1.toNat < 128 := a1.isLt
  have h2 : a2.toNat < 128 := a2.isLt
  refine of_word 81 (a0.toNat * 2097152 + (a1.toNat * 16384 + (a2.toNat * 128 + 0))) rfl (by rw [low_cons 21 _ 2097152 rfl, low_cons 14 _ 16384 rfl, low_cons 7 _ 128 rfl]; rfl) (by decide) (by omega) fun w hw ho => ?_
  have f0 : fld w 21 3 = a0 := fld_at 2097152 8 (81) (a1.toNat * 16384 + a2.toNat * 128) rfl rfl (by rw [hw]; ring) (by omega)
  have f1 : fld w 14 7 = a1 := fld_at 16384 128 (648 + a0.toNat * 1) (a2.toNat * 128) rfl rfl (by rw [hw]; ring) (by omega)
  have f2 : fld w 7 7 = a2 := fld_at 128 128 (82944 + a0.toNat * 128 + a1.toNat * 1) (0) rfl rfl (by rw [hw]; ring) (by omega)
  have r0 : rsv w 0 7 = true := rsv_at 1 128 (10616832 + a0.toNat * 16384 + a1.toNat * 128 + a2.toNat * 1) (0) rfl rfl (by rw [hw]; ring) (by omega)
  rw [decodeNat, ho]
  exact guard_eq r0 (by rw [f0, f1, f2])
theorem vcmp (a0 a1 a2 a3 a4) : Statement (.vcmp a0 a1 a2 a3 a4) := by
  have h0 : a0.toNat < 8 := a0.isLt
  have h1 : a1.toNat < 16 := a1.isLt
  have h2 : a2.toNat < 8 := a2.isLt
  have h3 : a3.toNat < 128 := a3.isLt
  have h4 : a4.toNat < 128 := a4.isLt
  refine of_word 82 (a0.toNat * 2097152 + (a1.toNat * 131072 + (a2.toNat * 16384 + (a3.toNat * 128 + (a4.toNat * 1 + 0))))) rfl (by rw [low_cons 21 _ 2097152 rfl, low_cons 17 _ 131072 rfl, low_cons 14 _ 16384 rfl, low_cons 7 _ 128 rfl, low_cons 0 _ 1 rfl]; rfl) (by decide) (by omega) fun w hw ho => ?_
  have f0 : fld w 21 3 = a0 := fld_at 2097152 8 (82) (a1.toNat * 131072 + a2.toNat * 16384 + a3.toNat * 128 + a4.toNat * 1) rfl rfl (by rw [hw]; ring) (by omega)
  have f1 : fld w 17 4 = a1 := fld_at 131072 16 (656 + a0.toNat * 1) (a2.toNat * 16384 + a3.toNat * 128 + a4.toNat * 1) rfl rfl (by rw [hw]; ring) (by omega)
  have f2 : fld w 14 3 = a2 := fld_at 16384 8 (10496 + a0.toNat * 16 + a1.toNat * 1) (a3.toNat * 128 + a4.toNat * 1) rfl rfl (by rw [hw]; ring) (by omega)
  have f3 : fld w 7 7 = a3 := fld_at 128 128 (83968 + a0.toNat * 128 + a1.toNat * 8 + a2.toNat * 1) (a4.toNat * 1) rfl rfl (by rw [hw]; ring) (by omega)
  have f4 : fld w 0 7 = a4 := fld_at 1 128 (10747904 + a0.toNat * 16384 + a1.toNat * 1024 + a2.toNat * 128 + a3.toNat * 1) (0) rfl rfl (by rw [hw]; ring) (by omega)
  rw [decodeNat, ho]
  exact congrArg Except.ok (by rw [f0, f1, f2, f3, f4])
theorem vsel (a0 a1 a2 a3) : Statement (.vsel a0 a1 a2 a3) := by
  have h0 : a0.toNat < 8 := a0.isLt
  have h1 : a1.toNat < 128 := a1.isLt
  have h2 : a2.toNat < 128 := a2.isLt
  have h3 : a3.toNat < 128 := a3.isLt
  refine of_word 83 (a0.toNat * 2097152 + (a1.toNat * 16384 + (a2.toNat * 128 + (a3.toNat * 1 + 0)))) rfl (by rw [low_cons 21 _ 2097152 rfl, low_cons 14 _ 16384 rfl, low_cons 7 _ 128 rfl, low_cons 0 _ 1 rfl]; rfl) (by decide) (by omega) fun w hw ho => ?_
  have f0 : fld w 21 3 = a0 := fld_at 2097152 8 (83) (a1.toNat * 16384 + a2.toNat * 128 + a3.toNat * 1) rfl rfl (by rw [hw]; ring) (by omega)
  have f1 : fld w 14 7 = a1 := fld_at 16384 128 (664 + a0.toNat * 1) (a2.toNat * 128 + a3.toNat * 1) rfl rfl (by rw [hw]; ring) (by omega)
  have f2 : fld w 7 7 = a2 := fld_at 128 128 (84992 + a0.toNat * 128 + a1.toNat * 1) (a3.toNat * 1) rfl rfl (by rw [hw]; ring) (by omega)
  have f3 : fld w 0 7 = a3 := fld_at 1 128 (10878976 + a0.toNat * 16384 + a1.toNat * 128 + a2.toNat * 1) (0) rfl rfl (by rw [hw]; ring) (by omega)
  rw [decodeNat, ho]
  exact congrArg Except.ok (by rw [f0, f1, f2, f3])
theorem vmov (a0 a1 a2) : Statement (.vmov a0 a1 a2) := by
  have h0 : a0.toNat < 8 := a0.isLt
  have h1 : a1.toNat < 128 := a1.isLt
  have h2 : a2.toNat < 128 := a2.isLt
  refine of_word 84 (a0.toNat * 2097152 + (a1.toNat * 16384 + (a2.toNat * 128 + 0))) rfl (by rw [low_cons 21 _ 2097152 rfl, low_cons 14 _ 16384 rfl, low_cons 7 _ 128 rfl]; rfl) (by decide) (by omega) fun w hw ho => ?_
  have f0 : fld w 21 3 = a0 := fld_at 2097152 8 (84) (a1.toNat * 16384 + a2.toNat * 128) rfl rfl (by rw [hw]; ring) (by omega)
  have f1 : fld w 14 7 = a1 := fld_at 16384 128 (672 + a0.toNat * 1) (a2.toNat * 128) rfl rfl (by rw [hw]; ring) (by omega)
  have f2 : fld w 7 7 = a2 := fld_at 128 128 (86016 + a0.toNat * 128 + a1.toNat * 1) (0) rfl rfl (by rw [hw]; ring) (by omega)
  have r0 : rsv w 0 7 = true := rsv_at 1 128 (11010048 + a0.toNat * 16384 + a1.toNat * 128 + a2.toNat * 1) (0) rfl rfl (by rw [hw]; ring) (by omega)
  rw [decodeNat, ho]
  exact guard_eq r0 (by rw [f0, f1, f2])
theorem vmovx (a0 a1 a2 a3 a4) : Statement (.vmovx a0 a1 a2 a3 a4) := by
  have h0 : a0.toNat < 8 := a0.isLt
  have h1 : a1.toNat < 128 := a1.isLt
  have h2 : a2.toNat < 2 := a2.isLt
  have h3 : a3.toNat < 4 := a3.isLt
  have h4 : a4.toNat < 128 := a4.isLt
  refine of_word 85 (a0.toNat * 2097152 + (a1.toNat * 16384 + (a2.toNat * 512 + (a3.toNat * 128 + (a4.toNat * 1 + 0))))) rfl (by rw [low_cons 21 _ 2097152 rfl, low_cons 14 _ 16384 rfl, low_cons 9 _ 512 rfl, low_cons 7 _ 128 rfl, low_cons 0 _ 1 rfl]; rfl) (by decide) (by omega) fun w hw ho => ?_
  have f0 : fld w 21 3 = a0 := fld_at 2097152 8 (85) (a1.toNat * 16384 + a2.toNat * 512 + a3.toNat * 128 + a4.toNat * 1) rfl rfl (by rw [hw]; ring) (by omega)
  have f1 : fld w 14 7 = a1 := fld_at 16384 128 (680 + a0.toNat * 1) (a2.toNat * 512 + a3.toNat * 128 + a4.toNat * 1) rfl rfl (by rw [hw]; ring) (by omega)
  have f2 : fld w 9 1 = a2 := fld_at 512 2 (1392640 + a0.toNat * 2048 + a1.toNat * 16) (a3.toNat * 128 + a4.toNat * 1) rfl rfl (by rw [hw]; ring) (by omega)
  have f3 : fld w 7 2 = a3 := fld_at 128 4 (2785280 + a0.toNat * 4096 + a1.toNat * 32 + a2.toNat * 1) (a4.toNat * 1) rfl rfl (by rw [hw]; ring) (by omega)
  have f4 : fld w 0 7 = a4 := fld_at 1 128 (11141120 + a0.toNat * 16384 + a1.toNat * 128 + a2.toNat * 4 + a3.toNat * 1) (0) rfl rfl (by rw [hw]; ring) (by omega)
  have r0 : rsv w 10 4 = true := rsv_at 1024 16 (87040 + a0.toNat * 128 + a1.toNat * 1) (a2.toNat * 512 + a3.toNat * 128 + a4.toNat * 1) rfl rfl (by rw [hw]; ring) (by omega)
  rw [decodeNat, ho]
  exact guard_eq r0 (by rw [f0, f1, f2, f3, f4])
theorem vclmul (a0 a1 a2 a3) : Statement (.vclmul a0 a1 a2 a3) := by
  have h0 : a0.toNat < 8 := a0.isLt
  have h1 : a1.toNat < 128 := a1.isLt
  have h2 : a2.toNat < 128 := a2.isLt
  have h3 : a3.toNat < 128 := a3.isLt
  refine of_word 86 (a0.toNat * 2097152 + (a1.toNat * 16384 + (a2.toNat * 128 + (a3.toNat * 1 + 0)))) rfl (by rw [low_cons 21 _ 2097152 rfl, low_cons 14 _ 16384 rfl, low_cons 7 _ 128 rfl, low_cons 0 _ 1 rfl]; rfl) (by decide) (by omega) fun w hw ho => ?_
  have f0 : fld w 21 3 = a0 := fld_at 2097152 8 (86) (a1.toNat * 16384 + a2.toNat * 128 + a3.toNat * 1) rfl rfl (by rw [hw]; ring) (by omega)
  have f1 : fld w 14 7 = a1 := fld_at 16384 128 (688 + a0.toNat * 1) (a2.toNat * 128 + a3.toNat * 1) rfl rfl (by rw [hw]; ring) (by omega)
  have f2 : fld w 7 7 = a2 := fld_at 128 128 (88064 + a0.toNat * 128 + a1.toNat * 1) (a3.toNat * 1) rfl rfl (by rw [hw]; ring) (by omega)
  have f3 : fld w 0 7 = a3 := fld_at 1 128 (11272192 + a0.toNat * 16384 + a1.toNat * 128 + a2.toNat * 1) (0) rfl rfl (by rw [hw]; ring) (by omega)
  rw [decodeNat, ho]
  exact congrArg Except.ok (by rw [f0, f1, f2, f3])
theorem vclmulh (a0 a1 a2 a3) : Statement (.vclmulh a0 a1 a2 a3) := by
  have h0 : a0.toNat < 8 := a0.isLt
  have h1 : a1.toNat < 128 := a1.isLt
  have h2 : a2.toNat < 128 := a2.isLt
  have h3 : a3.toNat < 128 := a3.isLt
  refine of_word 87 (a0.toNat * 2097152 + (a1.toNat * 16384 + (a2.toNat * 128 + (a3.toNat * 1 + 0)))) rfl (by rw [low_cons 21 _ 2097152 rfl, low_cons 14 _ 16384 rfl, low_cons 7 _ 128 rfl, low_cons 0 _ 1 rfl]; rfl) (by decide) (by omega) fun w hw ho => ?_
  have f0 : fld w 21 3 = a0 := fld_at 2097152 8 (87) (a1.toNat * 16384 + a2.toNat * 128 + a3.toNat * 1) rfl rfl (by rw [hw]; ring) (by omega)
  have f1 : fld w 14 7 = a1 := fld_at 16384 128 (696 + a0.toNat * 1) (a2.toNat * 128 + a3.toNat * 1) rfl rfl (by rw [hw]; ring) (by omega)
  have f2 : fld w 7 7 = a2 := fld_at 128 128 (89088 + a0.toNat * 128 + a1.toNat * 1) (a3.toNat * 1) rfl rfl (by rw [hw]; ring) (by omega)
  have f3 : fld w 0 7 = a3 := fld_at 1 128 (11403264 + a0.toNat * 16384 + a1.toNat * 128 + a2.toNat * 1) (0) rfl rfl (by rw [hw]; ring) (by omega)
  rw [decodeNat, ho]
  exact congrArg Except.ok (by rw [f0, f1, f2, f3])
theorem vreq (a0 a1 a2 a3) : Statement (.vreq a0 a1 a2 a3) := by
  have h0 : a0.toNat < 8 := a0.isLt
  have h1 : a1.toNat < 128 := a1.isLt
  have h2 : a2.toNat < 128 := a2.isLt
  have h3 : a3.toNat < 128 := a3.isLt
  refine of_word 88 (a0.toNat * 2097152 + (a1.toNat * 16384 + (a2.toNat * 128 + (a3.toNat * 1 + 0)))) rfl (by rw [low_cons 21 _ 2097152 rfl, low_cons 14 _ 16384 rfl, low_cons 7 _ 128 rfl, low_cons 0 _ 1 rfl]; rfl) (by decide) (by omega) fun w hw ho => ?_
  have f0 : fld w 21 3 = a0 := fld_at 2097152 8 (88) (a1.toNat * 16384 + a2.toNat * 128 + a3.toNat * 1) rfl rfl (by rw [hw]; ring) (by omega)
  have f1 : fld w 14 7 = a1 := fld_at 16384 128 (704 + a0.toNat * 1) (a2.toNat * 128 + a3.toNat * 1) rfl rfl (by rw [hw]; ring) (by omega)
  have f2 : fld w 7 7 = a2 := fld_at 128 128 (90112 + a0.toNat * 128 + a1.toNat * 1) (a3.toNat * 1) rfl rfl (by rw [hw]; ring) (by omega)
  have f3 : fld w 0 7 = a3 := fld_at 1 128 (11534336 + a0.toNat * 16384 + a1.toNat * 128 + a2.toNat * 1) (0) rfl rfl (by rw [hw]; ring) (by omega)
  rw [decodeNat, ho]
  exact congrArg Except.ok (by rw [f0, f1, f2, f3])
theorem vshfl (a0 a1 a2 a3) : Statement (.vshfl a0 a1 a2 a3) := by
  have h0 : a0.toNat < 8 := a0.isLt
  have h1 : a1.toNat < 128 := a1.isLt
  have h2 : a2.toNat < 128 := a2.isLt
  have h3 : a3.toNat < 128 := a3.isLt
  refine of_word 89 (a0.toNat * 2097152 + (a1.toNat * 16384 + (a2.toNat * 128 + (a3.toNat * 1 + 0)))) rfl (by rw [low_cons 21 _ 2097152 rfl, low_cons 14 _ 16384 rfl, low_cons 7 _ 128 rfl, low_cons 0 _ 1 rfl]; rfl) (by decide) (by omega) fun w hw ho => ?_
  have f0 : fld w 21 3 = a0 := fld_at 2097152 8 (89) (a1.toNat * 16384 + a2.toNat * 128 + a3.toNat * 1) rfl rfl (by rw [hw]; ring) (by omega)
  have f1 : fld w 14 7 = a1 := fld_at 16384 128 (712 + a0.toNat * 1) (a2.toNat * 128 + a3.toNat * 1) rfl rfl (by rw [hw]; ring) (by omega)
  have f2 : fld w 7 7 = a2 := fld_at 128 128 (91136 + a0.toNat * 128 + a1.toNat * 1) (a3.toNat * 1) rfl rfl (by rw [hw]; ring) (by omega)
  have f3 : fld w 0 7 = a3 := fld_at 1 128 (11665408 + a0.toNat * 16384 + a1.toNat * 128 + a2.toNat * 1) (0) rfl rfl (by rw [hw]; ring) (by omega)
  rw [decodeNat, ho]
  exact congrArg Except.ok (by rw [f0, f1, f2, f3])
theorem vbcst (a0 a1 a2 a3) : Statement (.vbcst a0 a1 a2 a3) := by
  have h0 : a0.toNat < 8 := a0.isLt
  have h1 : a1.toNat < 128 := a1.isLt
  have h2 : a2.toNat < 128 := a2.isLt
  have h3 : a3.toNat < 2 := a3.isLt
  refine of_word 90 (a0.toNat * 2097152 + (a1.toNat * 16384 + (a2.toNat * 128 + (a3.toNat * 1 + 0)))) rfl (by rw [low_cons 21 _ 2097152 rfl, low_cons 14 _ 16384 rfl, low_cons 7 _ 128 rfl, low_cons 0 _ 1 rfl]; rfl) (by decide) (by omega) fun w hw ho => ?_
  have f0 : fld w 21 3 = a0 := fld_at 2097152 8 (90) (a1.toNat * 16384 + a2.toNat * 128 + a3.toNat * 1) rfl rfl (by rw [hw]; ring) (by omega)
  have f1 : fld w 14 7 = a1 := fld_at 16384 128 (720 + a0.toNat * 1) (a2.toNat * 128 + a3.toNat * 1) rfl rfl (by rw [hw]; ring) (by omega)
  have f2 : fld w 7 7 = a2 := fld_at 128 128 (92160 + a0.toNat * 128 + a1.toNat * 1) (a3.toNat * 1) rfl rfl (by rw [hw]; ring) (by omega)
  have f3 : fld w 0 1 = a3 := fld_at 1 2 (754974720 + a0.toNat * 1048576 + a1.toNat * 8192 + a2.toNat * 64) (0) rfl rfl (by rw [hw]; ring) (by omega)
  have r0 : rsv w 1 6 = true := rsv_at 2 64 (11796480 + a0.toNat * 16384 + a1.toNat * 128 + a2.toNat * 1) (a3.toNat * 1) rfl rfl (by rw [hw]; ring) (by omega)
  rw [decodeNat, ho]
  exact guard_eq r0 (by rw [f0, f1, f2, f3])
theorem vvote (a0 a1 a2 a3 a4) : Statement (.vvote a0 a1 a2 a3 a4) := by
  have h0 : a0.toNat < 8 := a0.isLt
  have h1 : a1.toNat < 128 := a1.isLt
  have h2 : a2.toNat < 4 := a2.isLt
  have h3 : a3.toNat < 8 := a3.isLt
  have h4 : a4.toNat < 128 := a4.isLt
  refine of_word 91 (a0.toNat * 2097152 + (a1.toNat * 16384 + (a2.toNat * 1024 + (a3.toNat * 128 + (a4.toNat * 1 + 0))))) rfl (by rw [low_cons 21 _ 2097152 rfl, low_cons 14 _ 16384 rfl, low_cons 10 _ 1024 rfl, low_cons 7 _ 128 rfl, low_cons 0 _ 1 rfl]; rfl) (by decide) (by omega) fun w hw ho => ?_
  have f0 : fld w 21 3 = a0 := fld_at 2097152 8 (91) (a1.toNat * 16384 + a2.toNat * 1024 + a3.toNat * 128 + a4.toNat * 1) rfl rfl (by rw [hw]; ring) (by omega)
  have f1 : fld w 14 7 = a1 := fld_at 16384 128 (728 + a0.toNat * 1) (a2.toNat * 1024 + a3.toNat * 128 + a4.toNat * 1) rfl rfl (by rw [hw]; ring) (by omega)
  have f2 : fld w 10 2 = a2 := fld_at 1024 4 (372736 + a0.toNat * 512 + a1.toNat * 4) (a3.toNat * 128 + a4.toNat * 1) rfl rfl (by rw [hw]; ring) (by omega)
  have f3 : fld w 7 3 = a3 := fld_at 128 8 (1490944 + a0.toNat * 2048 + a1.toNat * 16 + a2.toNat * 1) (a4.toNat * 1) rfl rfl (by rw [hw]; ring) (by omega)
  have f4 : fld w 0 7 = a4 := fld_at 1 128 (11927552 + a0.toNat * 16384 + a1.toNat * 128 + a2.toNat * 8 + a3.toNat * 1) (0) rfl rfl (by rw [hw]; ring) (by omega)
  have r0 : rsv w 12 2 = true := rsv_at 4096 4 (93184 + a0.toNat * 128 + a1.toNat * 1) (a2.toNat * 1024 + a3.toNat * 128 + a4.toNat * 1) rfl rfl (by rw [hw]; ring) (by omega)
  rw [decodeNat, ho]
  exact guard_eq r0 (by rw [f0, f1, f2, f3, f4])
theorem vvoteW (a0 a1 a2 a3 a4) : Statement (.vvoteW a0 a1 a2 a3 a4) := by
  have h0 : a0.toNat < 8 := a0.isLt
  have h1 : a1.toNat < 128 := a1.isLt
  have h2 : a2.toNat < 4 := a2.isLt
  have h3 : a3.toNat < 8 := a3.isLt
  have h4 : a4.toNat < 128 := a4.isLt
  refine of_word 92 (a0.toNat * 2097152 + (a1.toNat * 16384 + (a2.toNat * 1024 + (a3.toNat * 128 + (a4.toNat * 1 + 0))))) rfl (by rw [low_cons 21 _ 2097152 rfl, low_cons 14 _ 16384 rfl, low_cons 10 _ 1024 rfl, low_cons 7 _ 128 rfl, low_cons 0 _ 1 rfl]; rfl) (by decide) (by omega) fun w hw ho => ?_
  have f0 : fld w 21 3 = a0 := fld_at 2097152 8 (92) (a1.toNat * 16384 + a2.toNat * 1024 + a3.toNat * 128 + a4.toNat * 1) rfl rfl (by rw [hw]; ring) (by omega)
  have f1 : fld w 14 7 = a1 := fld_at 16384 128 (736 + a0.toNat * 1) (a2.toNat * 1024 + a3.toNat * 128 + a4.toNat * 1) rfl rfl (by rw [hw]; ring) (by omega)
  have f2 : fld w 10 2 = a2 := fld_at 1024 4 (376832 + a0.toNat * 512 + a1.toNat * 4) (a3.toNat * 128 + a4.toNat * 1) rfl rfl (by rw [hw]; ring) (by omega)
  have f3 : fld w 7 3 = a3 := fld_at 128 8 (1507328 + a0.toNat * 2048 + a1.toNat * 16 + a2.toNat * 1) (a4.toNat * 1) rfl rfl (by rw [hw]; ring) (by omega)
  have f4 : fld w 0 7 = a4 := fld_at 1 128 (12058624 + a0.toNat * 16384 + a1.toNat * 128 + a2.toNat * 8 + a3.toNat * 1) (0) rfl rfl (by rw [hw]; ring) (by omega)
  have r0 : rsv w 12 2 = true := rsv_at 4096 4 (94208 + a0.toNat * 128 + a1.toNat * 1) (a2.toNat * 1024 + a3.toNat * 128 + a4.toNat * 1) rfl rfl (by rw [hw]; ring) (by omega)
  rw [decodeNat, ho]
  exact guard_eq r0 (by rw [f0, f1, f2, f3, f4])
theorem vcomp (a0 a1 a2 a3) : Statement (.vcomp a0 a1 a2 a3) := by
  have h0 : a0.toNat < 128 := a0.isLt
  have h1 : a1.toNat < 128 := a1.isLt
  have h2 : a2.toNat < 2 := a2.isLt
  have h3 : a3.toNat < 8 := a3.isLt
  refine of_word 93 (a0.toNat * 16384 + (a1.toNat * 128 + (a2.toNat * 8 + (a3.toNat * 1 + 0)))) rfl (by rw [low_cons 14 _ 16384 rfl, low_cons 7 _ 128 rfl, low_cons 3 _ 8 rfl, low_cons 0 _ 1 rfl]; rfl) (by decide) (by omega) fun w hw ho => ?_
  have f0 : fld w 14 7 = a0 := fld_at 16384 128 (744) (a1.toNat * 128 + a2.toNat * 8 + a3.toNat * 1) rfl rfl (by rw [hw]; ring) (by omega)
  have f1 : fld w 7 7 = a1 := fld_at 128 128 (95232 + a0.toNat * 1) (a2.toNat * 8 + a3.toNat * 1) rfl rfl (by rw [hw]; ring) (by omega)
  have f2 : fld w 3 1 = a2 := fld_at 8 2 (97517568 + a0.toNat * 1024 + a1.toNat * 8) (a3.toNat * 1) rfl rfl (by rw [hw]; ring) (by omega)
  have f3 : fld w 0 3 = a3 := fld_at 1 8 (195035136 + a0.toNat * 2048 + a1.toNat * 16 + a2.toNat * 1) (0) rfl rfl (by rw [hw]; ring) (by omega)
  have r0 : rsv w 4 3 = true := rsv_at 16 8 (12189696 + a0.toNat * 128 + a1.toNat * 1) (a2.toNat * 8 + a3.toNat * 1) rfl rfl (by rw [hw]; ring) (by omega)
  have r1 : rsv w 21 3 = true := rsv_at 2097152 8 (93) (a0.toNat * 16384 + a1.toNat * 128 + a2.toNat * 8 + a3.toNat * 1) rfl rfl (by rw [hw]; ring) (by omega)
  rw [decodeNat, ho]
  exact guard_eq (by rw [r0, r1]; rfl) (by rw [f0, f1, f2, f3])
theorem vexp (a0 a1 a2 a3) : Statement (.vexp a0 a1 a2 a3) := by
  have h0 : a0.toNat < 128 := a0.isLt
  have h1 : a1.toNat < 128 := a1.isLt
  have h2 : a2.toNat < 2 := a2.isLt
  have h3 : a3.toNat < 8 := a3.isLt
  refine of_word 94 (a0.toNat * 16384 + (a1.toNat * 128 + (a2.toNat * 8 + (a3.toNat * 1 + 0)))) rfl (by rw [low_cons 14 _ 16384 rfl, low_cons 7 _ 128 rfl, low_cons 3 _ 8 rfl, low_cons 0 _ 1 rfl]; rfl) (by decide) (by omega) fun w hw ho => ?_
  have f0 : fld w 14 7 = a0 := fld_at 16384 128 (752) (a1.toNat * 128 + a2.toNat * 8 + a3.toNat * 1) rfl rfl (by rw [hw]; ring) (by omega)
  have f1 : fld w 7 7 = a1 := fld_at 128 128 (96256 + a0.toNat * 1) (a2.toNat * 8 + a3.toNat * 1) rfl rfl (by rw [hw]; ring) (by omega)
  have f2 : fld w 3 1 = a2 := fld_at 8 2 (98566144 + a0.toNat * 1024 + a1.toNat * 8) (a3.toNat * 1) rfl rfl (by rw [hw]; ring) (by omega)
  have f3 : fld w 0 3 = a3 := fld_at 1 8 (197132288 + a0.toNat * 2048 + a1.toNat * 16 + a2.toNat * 1) (0) rfl rfl (by rw [hw]; ring) (by omega)
  have r0 : rsv w 4 3 = true := rsv_at 16 8 (12320768 + a0.toNat * 128 + a1.toNat * 1) (a2.toNat * 8 + a3.toNat * 1) rfl rfl (by rw [hw]; ring) (by omega)
  have r1 : rsv w 21 3 = true := rsv_at 2097152 8 (94) (a0.toNat * 16384 + a1.toNat * 128 + a2.toNat * 8 + a3.toNat * 1) rfl rfl (by rw [hw]; ring) (by omega)
  rw [decodeNat, ho]
  exact guard_eq (by rw [r0, r1]; rfl) (by rw [f0, f1, f2, f3])
theorem vscan (a0 a1 a2 a3 a4) : Statement (.vscan a0 a1 a2 a3 a4) := by
  have h0 : a0.toNat < 8 := a0.isLt
  have h1 : a1.toNat < 128 := a1.isLt
  have h2 : a2.toNat < 128 := a2.isLt
  have h3 : a3.toNat < 2 := a3.isLt
  have h4 : a4.toNat < 8 := a4.isLt
  refine of_word 95 (a0.toNat * 2097152 + (a1.toNat * 16384 + (a2.toNat * 128 + (a3.toNat * 8 + (a4.toNat * 1 + 0))))) rfl (by rw [low_cons 21 _ 2097152 rfl, low_cons 14 _ 16384 rfl, low_cons 7 _ 128 rfl, low_cons 3 _ 8 rfl, low_cons 0 _ 1 rfl]; rfl) (by decide) (by omega) fun w hw ho => ?_
  have f0 : fld w 21 3 = a0 := fld_at 2097152 8 (95) (a1.toNat * 16384 + a2.toNat * 128 + a3.toNat * 8 + a4.toNat * 1) rfl rfl (by rw [hw]; ring) (by omega)
  have f1 : fld w 14 7 = a1 := fld_at 16384 128 (760 + a0.toNat * 1) (a2.toNat * 128 + a3.toNat * 8 + a4.toNat * 1) rfl rfl (by rw [hw]; ring) (by omega)
  have f2 : fld w 7 7 = a2 := fld_at 128 128 (97280 + a0.toNat * 128 + a1.toNat * 1) (a3.toNat * 8 + a4.toNat * 1) rfl rfl (by rw [hw]; ring) (by omega)
  have f3 : fld w 3 1 = a3 := fld_at 8 2 (99614720 + a0.toNat * 131072 + a1.toNat * 1024 + a2.toNat * 8) (a4.toNat * 1) rfl rfl (by rw [hw]; ring) (by omega)
  have f4 : fld w 0 3 = a4 := fld_at 1 8 (199229440 + a0.toNat * 262144 + a1.toNat * 2048 + a2.toNat * 16 + a3.toNat * 1) (0) rfl rfl (by rw [hw]; ring) (by omega)
  have r0 : rsv w 4 3 = true := rsv_at 16 8 (12451840 + a0.toNat * 16384 + a1.toNat * 128 + a2.toNat * 1) (a3.toNat * 8 + a4.toNat * 1) rfl rfl (by rw [hw]; ring) (by omega)
  rw [decodeNat, ho]
  exact guard_eq r0 (by rw [f0, f1, f2, f3, f4])
theorem vaddi (a0 a1 a2 a3) : Statement (.vaddi a0 a1 a2 a3) := by
  have h0 : a0.toNat < 8 := a0.isLt
  have h1 : a1.toNat < 128 := a1.isLt
  have h2 : a2.toNat < 128 := a2.isLt
  have h3 : a3.toNat < 128 := a3.isLt
  refine of_word 96 (a0.toNat * 2097152 + (a1.toNat * 16384 + (a2.toNat * 128 + (a3.toNat * 1 + 0)))) rfl (by rw [low_cons 21 _ 2097152 rfl, low_cons 14 _ 16384 rfl, low_cons 7 _ 128 rfl, low_cons 0 _ 1 rfl]; rfl) (by decide) (by omega) fun w hw ho => ?_
  have f0 : fld w 21 3 = a0 := fld_at 2097152 8 (96) (a1.toNat * 16384 + a2.toNat * 128 + a3.toNat * 1) rfl rfl (by rw [hw]; ring) (by omega)
  have f1 : fld w 14 7 = a1 := fld_at 16384 128 (768 + a0.toNat * 1) (a2.toNat * 128 + a3.toNat * 1) rfl rfl (by rw [hw]; ring) (by omega)
  have f2 : fld w 7 7 = a2 := fld_at 128 128 (98304 + a0.toNat * 128 + a1.toNat * 1) (a3.toNat * 1) rfl rfl (by rw [hw]; ring) (by omega)
  have f3 : fld w 0 7 = a3 := fld_at 1 128 (12582912 + a0.toNat * 16384 + a1.toNat * 128 + a2.toNat * 1) (0) rfl rfl (by rw [hw]; ring) (by omega)
  rw [decodeNat, ho]
  exact congrArg Except.ok (by rw [f0, f1, f2, f3])
theorem vshli (a0 a1 a2 a3) : Statement (.vshli a0 a1 a2 a3) := by
  have h0 : a0.toNat < 8 := a0.isLt
  have h1 : a1.toNat < 128 := a1.isLt
  have h2 : a2.toNat < 128 := a2.isLt
  have h3 : a3.toNat < 128 := a3.isLt
  refine of_word 97 (a0.toNat * 2097152 + (a1.toNat * 16384 + (a2.toNat * 128 + (a3.toNat * 1 + 0)))) rfl (by rw [low_cons 21 _ 2097152 rfl, low_cons 14 _ 16384 rfl, low_cons 7 _ 128 rfl, low_cons 0 _ 1 rfl]; rfl) (by decide) (by omega) fun w hw ho => ?_
  have f0 : fld w 21 3 = a0 := fld_at 2097152 8 (97) (a1.toNat * 16384 + a2.toNat * 128 + a3.toNat * 1) rfl rfl (by rw [hw]; ring) (by omega)
  have f1 : fld w 14 7 = a1 := fld_at 16384 128 (776 + a0.toNat * 1) (a2.toNat * 128 + a3.toNat * 1) rfl rfl (by rw [hw]; ring) (by omega)
  have f2 : fld w 7 7 = a2 := fld_at 128 128 (99328 + a0.toNat * 128 + a1.toNat * 1) (a3.toNat * 1) rfl rfl (by rw [hw]; ring) (by omega)
  have f3 : fld w 0 7 = a3 := fld_at 1 128 (12713984 + a0.toNat * 16384 + a1.toNat * 128 + a2.toNat * 1) (0) rfl rfl (by rw [hw]; ring) (by omega)
  rw [decodeNat, ho]
  exact congrArg Except.ok (by rw [f0, f1, f2, f3])
theorem vshri (a0 a1 a2 a3) : Statement (.vshri a0 a1 a2 a3) := by
  have h0 : a0.toNat < 8 := a0.isLt
  have h1 : a1.toNat < 128 := a1.isLt
  have h2 : a2.toNat < 128 := a2.isLt
  have h3 : a3.toNat < 128 := a3.isLt
  refine of_word 98 (a0.toNat * 2097152 + (a1.toNat * 16384 + (a2.toNat * 128 + (a3.toNat * 1 + 0)))) rfl (by rw [low_cons 21 _ 2097152 rfl, low_cons 14 _ 16384 rfl, low_cons 7 _ 128 rfl, low_cons 0 _ 1 rfl]; rfl) (by decide) (by omega) fun w hw ho => ?_
  have f0 : fld w 21 3 = a0 := fld_at 2097152 8 (98) (a1.toNat * 16384 + a2.toNat * 128 + a3.toNat * 1) rfl rfl (by rw [hw]; ring) (by omega)
  have f1 : fld w 14 7 = a1 := fld_at 16384 128 (784 + a0.toNat * 1) (a2.toNat * 128 + a3.toNat * 1) rfl rfl (by rw [hw]; ring) (by omega)
  have f2 : fld w 7 7 = a2 := fld_at 128 128 (100352 + a0.toNat * 128 + a1.toNat * 1) (a3.toNat * 1) rfl rfl (by rw [hw]; ring) (by omega)
  have f3 : fld w 0 7 = a3 := fld_at 1 128 (12845056 + a0.toNat * 16384 + a1.toNat * 128 + a2.toNat * 1) (0) rfl rfl (by rw [hw]; ring) (by omega)
  rw [decodeNat, ho]
  exact congrArg Except.ok (by rw [f0, f1, f2, f3])
theorem vsari (a0 a1 a2 a3) : Statement (.vsari a0 a1 a2 a3) := by
  have h0 : a0.toNat < 8 := a0.isLt
  have h1 : a1.toNat < 128 := a1.isLt
  have h2 : a2.toNat < 128 := a2.isLt
  have h3 : a3.toNat < 128 := a3.isLt
  refine of_word 99 (a0.toNat * 2097152 + (a1.toNat * 16384 + (a2.toNat * 128 + (a3.toNat * 1 + 0)))) rfl (by rw [low_cons 21 _ 2097152 rfl, low_cons 14 _ 16384 rfl, low_cons 7 _ 128 rfl, low_cons 0 _ 1 rfl]; rfl) (by decide) (by omega) fun w hw ho => ?_
  have f0 : fld w 21 3 = a0 := fld_at 2097152 8 (99) (a1.toNat * 16384 + a2.toNat * 128 + a3.toNat * 1) rfl rfl (by rw [hw]; ring) (by omega)
  have f1 : fld w 14 7 = a1 := fld_at 16384 128 (792 + a0.toNat * 1) (a2.toNat * 128 + a3.toNat * 1) rfl rfl (by rw [hw]; ring) (by omega)
  have f2 : fld w 7 7 = a2 := fld_at 128 128 (101376 + a0.toNat * 128 + a1.toNat * 1) (a3.toNat * 1) rfl rfl (by rw [hw]; ring) (by omega)
  have f3 : fld w 0 7 = a3 := fld_at 1 128 (12976128 + a0.toNat * 16384 + a1.toNat * 128 + a2.toNat * 1) (0) rfl rfl (by rw [hw]; ring) (by omega)
  rw [decodeNat, ho]
  exact congrArg Except.ok (by rw [f0, f1, f2, f3])
theorem vmovi (a0 a1 a2) : Statement (.vmovi a0 a1 a2) := by
  have h0 : a0.toNat < 8 := a0.isLt
  have h1 : a1.toNat < 128 := a1.isLt
  have h2 : a2.toNat < 128 := a2.isLt
  refine of_word 100 (a0.toNat * 2097152 + (a1.toNat * 16384 + (a2.toNat * 1 + 0))) rfl (by rw [low_cons 21 _ 2097152 rfl, low_cons 14 _ 16384 rfl, low_cons 0 _ 1 rfl]; rfl) (by decide) (by omega) fun w hw ho => ?_
  have f0 : fld w 21 3 = a0 := fld_at 2097152 8 (100) (a1.toNat * 16384 + a2.toNat * 1) rfl rfl (by rw [hw]; ring) (by omega)
  have f1 : fld w 14 7 = a1 := fld_at 16384 128 (800 + a0.toNat * 1) (a2.toNat * 1) rfl rfl (by rw [hw]; ring) (by omega)
  have f2 : fld w 0 7 = a2 := fld_at 1 128 (13107200 + a0.toNat * 16384 + a1.toNat * 128) (0) rfl rfl (by rw [hw]; ring) (by omega)
  have r0 : rsv w 7 7 = true := rsv_at 128 128 (102400 + a0.toNat * 128 + a1.toNat * 1) (a2.toNat * 1) rfl rfl (by rw [hw]; ring) (by omega)
  rw [decodeNat, ho]
  exact guard_eq r0 (by rw [f0, f1, f2])
theorem vaddl (a0 a1 a2 a3) : Statement (.vaddl a0 a1 a2 a3) := by
  have h0 : a0.toNat < 8 := a0.isLt
  have h1 : a1.toNat < 128 := a1.isLt
  have h2 : a2.toNat < 128 := a2.isLt
  refine of_word 101 (a0.toNat * 2097152 + (a1.toNat * 16384 + (a2.toNat * 128 + 0))) rfl (by rw [low_cons 21 _ 2097152 rfl, low_cons 14 _ 16384 rfl, low_cons 7 _ 128 rfl]; rfl) (by decide) (by omega) fun w hw ho => ?_
  have f0 : fld w 21 3 = a0 := fld_at 2097152 8 (101) (a1.toNat * 16384 + a2.toNat * 128) rfl rfl (by rw [hw]; ring) (by omega)
  have f1 : fld w 14 7 = a1 := fld_at 16384 128 (808 + a0.toNat * 1) (a2.toNat * 128) rfl rfl (by rw [hw]; ring) (by omega)
  have f2 : fld w 7 7 = a2 := fld_at 128 128 (103424 + a0.toNat * 128 + a1.toNat * 1) (0) rfl rfl (by rw [hw]; ring) (by omega)
  have r0 : rsv w 0 7 = true := rsv_at 1 128 (13238272 + a0.toNat * 16384 + a1.toNat * 128 + a2.toNat * 1) (0) rfl rfl (by rw [hw]; ring) (by omega)
  rw [decodeNat, ho]
  exact guard_eq r0 (by rw [f0, f1, f2])
theorem vmull (a0 a1 a2 a3) : Statement (.vmull a0 a1 a2 a3) := by
  have h0 : a0.toNat < 8 := a0.isLt
  have h1 : a1.toNat < 128 := a1.isLt
  have h2 : a2.toNat < 128 := a2.isLt
  refine of_word 102 (a0.toNat * 2097152 + (a1.toNat * 16384 + (a2.toNat * 128 + 0))) rfl (by rw [low_cons 21 _ 2097152 rfl, low_cons 14 _ 16384 rfl, low_cons 7 _ 128 rfl]; rfl) (by decide) (by omega) fun w hw ho => ?_
  have f0 : fld w 21 3 = a0 := fld_at 2097152 8 (102) (a1.toNat * 16384 + a2.toNat * 128) rfl rfl (by rw [hw]; ring) (by omega)
  have f1 : fld w 14 7 = a1 := fld_at 16384 128 (816 + a0.toNat * 1) (a2.toNat * 128) rfl rfl (by rw [hw]; ring) (by omega)
  have f2 : fld w 7 7 = a2 := fld_at 128 128 (104448 + a0.toNat * 128 + a1.toNat * 1) (0) rfl rfl (by rw [hw]; ring) (by omega)
  have r0 : rsv w 0 7 = true := rsv_at 1 128 (13369344 + a0.toNat * 16384 + a1.toNat * 128 + a2.toNat * 1) (0) rfl rfl (by rw [hw]; ring) (by omega)
  rw [decodeNat, ho]
  exact guard_eq r0 (by rw [f0, f1, f2])
theorem vandl (a0 a1 a2 a3) : Statement (.vandl a0 a1 a2 a3) := by
  have h0 : a0.toNat < 8 := a0.isLt
  have h1 : a1.toNat < 128 := a1.isLt
  have h2 : a2.toNat < 128 := a2.isLt
  refine of_word 103 (a0.toNat * 2097152 + (a1.toNat * 16384 + (a2.toNat * 128 + 0))) rfl (by rw [low_cons 21 _ 2097152 rfl, low_cons 14 _ 16384 rfl, low_cons 7 _ 128 rfl]; rfl) (by decide) (by omega) fun w hw ho => ?_
  have f0 : fld w 21 3 = a0 := fld_at 2097152 8 (103) (a1.toNat * 16384 + a2.toNat * 128) rfl rfl (by rw [hw]; ring) (by omega)
  have f1 : fld w 14 7 = a1 := fld_at 16384 128 (824 + a0.toNat * 1) (a2.toNat * 128) rfl rfl (by rw [hw]; ring) (by omega)
  have f2 : fld w 7 7 = a2 := fld_at 128 128 (105472 + a0.toNat * 128 + a1.toNat * 1) (0) rfl rfl (by rw [hw]; ring) (by omega)
  have r0 : rsv w 0 7 = true := rsv_at 1 128 (13500416 + a0.toNat * 16384 + a1.toNat * 128 + a2.toNat * 1) (0) rfl rfl (by rw [hw]; ring) (by omega)
  rw [decodeNat, ho]
  exact guard_eq r0 (by rw [f0, f1, f2])
theorem vorl (a0 a1 a2 a3) : Statement (.vorl a0 a1 a2 a3) := by
  have h0 : a0.toNat < 8 := a0.isLt
  have h1 : a1.toNat < 128 := a1.isLt
  have h2 : a2.toNat < 128 := a2.isLt
  refine of_word 104 (a0.toNat * 2097152 + (a1.toNat * 16384 + (a2.toNat * 128 + 0))) rfl (by rw [low_cons 21 _ 2097152 rfl, low_cons 14 _ 16384 rfl, low_cons 7 _ 128 rfl]; rfl) (by decide) (by omega) fun w hw ho => ?_
  have f0 : fld w 21 3 = a0 := fld_at 2097152 8 (104) (a1.toNat * 16384 + a2.toNat * 128) rfl rfl (by rw [hw]; ring) (by omega)
  have f1 : fld w 14 7 = a1 := fld_at 16384 128 (832 + a0.toNat * 1) (a2.toNat * 128) rfl rfl (by rw [hw]; ring) (by omega)
  have f2 : fld w 7 7 = a2 := fld_at 128 128 (106496 + a0.toNat * 128 + a1.toNat * 1) (0) rfl rfl (by rw [hw]; ring) (by omega)
  have r0 : rsv w 0 7 = true := rsv_at 1 128 (13631488 + a0.toNat * 16384 + a1.toNat * 128 + a2.toNat * 1) (0) rfl rfl (by rw [hw]; ring) (by omega)
  rw [decodeNat, ho]
  exact guard_eq r0 (by rw [f0, f1, f2])
theorem vxorl (a0 a1 a2 a3) : Statement (.vxorl a0 a1 a2 a3) := by
  have h0 : a0.toNat < 8 := a0.isLt
  have h1 : a1.toNat < 128 := a1.isLt
  have h2 : a2.toNat < 128 := a2.isLt
  refine of_word 105 (a0.toNat * 2097152 + (a1.toNat * 16384 + (a2.toNat * 128 + 0))) rfl (by rw [low_cons 21 _ 2097152 rfl, low_cons 14 _ 16384 rfl, low_cons 7 _ 128 rfl]; rfl) (by decide) (by omega) fun w hw ho => ?_
  have f0 : fld w 21 3 = a0 := fld_at 2097152 8 (105) (a1.toNat * 16384 + a2.toNat * 128) rfl rfl (by rw [hw]; ring) (by omega)
  have f1 : fld w 14 7 = a1 := fld_at 16384 128 (840 + a0.toNat * 1) (a2.toNat * 128) rfl rfl (by rw [hw]; ring) (by omega)
  have f2 : fld w 7 7 = a2 := fld_at 128 128 (107520 + a0.toNat * 128 + a1.toNat * 1) (0) rfl rfl (by rw [hw]; ring) (by omega)
  have r0 : rsv w 0 7 = true := rsv_at 1 128 (13762560 + a0.toNat * 16384 + a1.toNat * 128 + a2.toNat * 1) (0) rfl rfl (by rw [hw]; ring) (by omega)
  rw [decodeNat, ho]
  exact guard_eq r0 (by rw [f0, f1, f2])
theorem vmovl (a0 a1 a2) : Statement (.vmovl a0 a1 a2) := by
  have h0 : a0.toNat < 8 := a0.isLt
  have h1 : a1.toNat < 128 := a1.isLt
  refine of_word 106 (a0.toNat * 2097152 + (a1.toNat * 16384 + 0)) rfl (by rw [low_cons 21 _ 2097152 rfl, low_cons 14 _ 16384 rfl]; rfl) (by decide) (by omega) fun w hw ho => ?_
  have f0 : fld w 21 3 = a0 := fld_at 2097152 8 (106) (a1.toNat * 16384) rfl rfl (by rw [hw]; ring) (by omega)
  have f1 : fld w 14 7 = a1 := fld_at 16384 128 (848 + a0.toNat * 1) (0) rfl rfl (by rw [hw]; ring) (by omega)
  have r0 : rsv w 0 14 = true := rsv_at 1 16384 (108544 + a0.toNat * 128 + a1.toNat * 1) (0) rfl rfl (by rw [hw]; ring) (by omega)
  rw [decodeNat, ho]
  exact guard_eq r0 (by rw [f0, f1])
theorem vcmpl (a0 a1 a2 a3 a4) : Statement (.vcmpl a0 a1 a2 a3 a4) := by
  have h0 : a0.toNat < 8 := a0.isLt
  have h1 : a1.toNat < 16 := a1.isLt
  have h2 : a2.toNat < 8 := a2.isLt
  have h3 : a3.toNat < 128 := a3.isLt
  refine of_word 107 (a0.toNat * 2097152 + (a1.toNat * 131072 + (a2.toNat * 16384 + (a3.toNat * 128 + 0)))) rfl (by rw [low_cons 21 _ 2097152 rfl, low_cons 17 _ 131072 rfl, low_cons 14 _ 16384 rfl, low_cons 7 _ 128 rfl]; rfl) (by decide) (by omega) fun w hw ho => ?_
  have f0 : fld w 21 3 = a0 := fld_at 2097152 8 (107) (a1.toNat * 131072 + a2.toNat * 16384 + a3.toNat * 128) rfl rfl (by rw [hw]; ring) (by omega)
  have f1 : fld w 17 4 = a1 := fld_at 131072 16 (856 + a0.toNat * 1) (a2.toNat * 16384 + a3.toNat * 128) rfl rfl (by rw [hw]; ring) (by omega)
  have f2 : fld w 14 3 = a2 := fld_at 16384 8 (13696 + a0.toNat * 16 + a1.toNat * 1) (a3.toNat * 128) rfl rfl (by rw [hw]; ring) (by omega)
  have f3 : fld w 7 7 = a3 := fld_at 128 128 (109568 + a0.toNat * 128 + a1.toNat * 8 + a2.toNat * 1) (0) rfl rfl (by rw [hw]; ring) (by omega)
  have r0 : rsv w 0 7 = true := rsv_at 1 128 (14024704 + a0.toNat * 16384 + a1.toNat * 1024 + a2.toNat * 128 + a3.toNat * 1) (0) rfl rfl (by rw [hw]; ring) (by omega)
  rw [decodeNat, ho]
  exact guard_eq r0 (by rw [f0, f1, f2, f3])
theorem plog (a0 a1 a2 a3 a4) : Statement (.plog a0 a1 a2 a3 a4) := by
  have h0 : a0.toNat < 8 := a0.isLt
  have h1 : a1.toNat < 16 := a1.isLt
  have h2 : a2.toNat < 8 := a2.isLt
  have h3 : a3.toNat < 8 := a3.isLt
  have h4 : a4.toNat < 8 := a4.isLt
  refine of_word 108 (a0.toNat * 2097152 + (a1.toNat * 131072 + (a2.toNat * 16384 + (a3.toNat * 128 + (a4.toNat * 1 + 0))))) rfl (by rw [low_cons 21 _ 2097152 rfl, low_cons 17 _ 131072 rfl, low_cons 14 _ 16384 rfl, low_cons 7 _ 128 rfl, low_cons 0 _ 1 rfl]; rfl) (by decide) (by omega) fun w hw ho => ?_
  have f0 : fld w 21 3 = a0 := fld_at 2097152 8 (108) (a1.toNat * 131072 + a2.toNat * 16384 + a3.toNat * 128 + a4.toNat * 1) rfl rfl (by rw [hw]; ring) (by omega)
  have f1 : fld w 17 4 = a1 := fld_at 131072 16 (864 + a0.toNat * 1) (a2.toNat * 16384 + a3.toNat * 128 + a4.toNat * 1) rfl rfl (by rw [hw]; ring) (by omega)
  have f2 : fld w 14 3 = a2 := fld_at 16384 8 (13824 + a0.toNat * 16 + a1.toNat * 1) (a3.toNat * 128 + a4.toNat * 1) rfl rfl (by rw [hw]; ring) (by omega)
  have f3 : fld w 7 3 = a3 := fld_at 128 8 (1769472 + a0.toNat * 2048 + a1.toNat * 128 + a2.toNat * 16) (a4.toNat * 1) rfl rfl (by rw [hw]; ring) (by omega)
  have f4 : fld w 0 3 = a4 := fld_at 1 8 (226492416 + a0.toNat * 262144 + a1.toNat * 16384 + a2.toNat * 2048 + a3.toNat * 16) (0) rfl rfl (by rw [hw]; ring) (by omega)
  have r0 : rsv w 3 4 = true := rsv_at 8 16 (14155776 + a0.toNat * 16384 + a1.toNat * 1024 + a2.toNat * 128 + a3.toNat * 1) (a4.toNat * 1) rfl rfl (by rw [hw]; ring) (by omega)
  have r1 : rsv w 10 4 = true := rsv_at 1024 16 (110592 + a0.toNat * 128 + a1.toNat * 8 + a2.toNat * 1) (a3.toNat * 128 + a4.toNat * 1) rfl rfl (by rw [hw]; ring) (by omega)
  rw [decodeNat, ho]
  exact guard_eq (by rw [r0, r1]; rfl) (by rw [f0, f1, f2, f3, f4])
theorem pmov (a0 a1 a2) : Statement (.pmov a0 a1 a2) := by
  have h0 : a0.toNat < 8 := a0.isLt
  have h1 : a1.toNat < 128 := a1.isLt
  have h2 : a2.toNat < 8 := a2.isLt
  refine of_word 109 (a0.toNat * 2097152 + (a1.toNat * 16384 + (a2.toNat * 128 + 0))) rfl (by rw [low_cons 21 _ 2097152 rfl, low_cons 14 _ 16384 rfl, low_cons 7 _ 128 rfl]; rfl) (by decide) (by omega) fun w hw ho => ?_
  have f0 : fld w 21 3 = a0 := fld_at 2097152 8 (109) (a1.toNat * 16384 + a2.toNat * 128) rfl rfl (by rw [hw]; ring) (by omega)
  have f1 : fld w 14 7 = a1 := fld_at 16384 128 (872 + a0.toNat * 1) (a2.toNat * 128) rfl rfl (by rw [hw]; ring) (by omega)
  have f2 : fld w 7 3 = a2 := fld_at 128 8 (1785856 + a0.toNat * 2048 + a1.toNat * 16) (0) rfl rfl (by rw [hw]; ring) (by omega)
  have r0 : rsv w 0 7 = true := rsv_at 1 128 (14286848 + a0.toNat * 16384 + a1.toNat * 128 + a2.toNat * 1) (0) rfl rfl (by rw [hw]; ring) (by omega)
  have r1 : rsv w 10 4 = true := rsv_at 1024 16 (111616 + a0.toNat * 128 + a1.toNat * 1) (a2.toNat * 128) rfl rfl (by rw [hw]; ring) (by omega)
  rw [decodeNat, ho]
  exact guard_eq (by rw [r0, r1]; rfl) (by rw [f0, f1, f2])
theorem fadd (a0 a1 a2 a3) : Statement (.fadd a0 a1 a2 a3) := by
  have h0 : a0.toNat < 8 := a0.isLt
  have h1 : a1.toNat < 128 := a1.isLt
  have h2 : a2.toNat < 128 := a2.isLt
  have h3 : a3.toNat < 128 := a3.isLt
  refine of_word 112 (a0.toNat * 2097152 + (a1.toNat * 16384 + (a2.toNat * 128 + (a3.toNat * 1 + 0)))) rfl (by rw [low_cons 21 _ 2097152 rfl, low_cons 14 _ 16384 rfl, low_cons 7 _ 128 rfl, low_cons 0 _ 1 rfl]; rfl) (by decide) (by omega) fun w hw ho => ?_
  have f0 : fld w 21 3 = a0 := fld_at 2097152 8 (112) (a1.toNat * 16384 + a2.toNat * 128 + a3.toNat * 1) rfl rfl (by rw [hw]; ring) (by omega)
  have f1 : fld w 14 7 = a1 := fld_at 16384 128 (896 + a0.toNat * 1) (a2.toNat * 128 + a3.toNat * 1) rfl rfl (by rw [hw]; ring) (by omega)
  have f2 : fld w 7 7 = a2 := fld_at 128 128 (114688 + a0.toNat * 128 + a1.toNat * 1) (a3.toNat * 1) rfl rfl (by rw [hw]; ring) (by omega)
  have f3 : fld w 0 7 = a3 := fld_at 1 128 (14680064 + a0.toNat * 16384 + a1.toNat * 128 + a2.toNat * 1) (0) rfl rfl (by rw [hw]; ring) (by omega)
  rw [decodeNat, ho]
  exact congrArg Except.ok (by rw [f0, f1, f2, f3])
theorem fsub (a0 a1 a2 a3) : Statement (.fsub a0 a1 a2 a3) := by
  have h0 : a0.toNat < 8 := a0.isLt
  have h1 : a1.toNat < 128 := a1.isLt
  have h2 : a2.toNat < 128 := a2.isLt
  have h3 : a3.toNat < 128 := a3.isLt
  refine of_word 113 (a0.toNat * 2097152 + (a1.toNat * 16384 + (a2.toNat * 128 + (a3.toNat * 1 + 0)))) rfl (by rw [low_cons 21 _ 2097152 rfl, low_cons 14 _ 16384 rfl, low_cons 7 _ 128 rfl, low_cons 0 _ 1 rfl]; rfl) (by decide) (by omega) fun w hw ho => ?_
  have f0 : fld w 21 3 = a0 := fld_at 2097152 8 (113) (a1.toNat * 16384 + a2.toNat * 128 + a3.toNat * 1) rfl rfl (by rw [hw]; ring) (by omega)
  have f1 : fld w 14 7 = a1 := fld_at 16384 128 (904 + a0.toNat * 1) (a2.toNat * 128 + a3.toNat * 1) rfl rfl (by rw [hw]; ring) (by omega)
  have f2 : fld w 7 7 = a2 := fld_at 128 128 (115712 + a0.toNat * 128 + a1.toNat * 1) (a3.toNat * 1) rfl rfl (by rw [hw]; ring) (by omega)
  have f3 : fld w 0 7 = a3 := fld_at 1 128 (14811136 + a0.toNat * 16384 + a1.toNat * 128 + a2.toNat * 1) (0) rfl rfl (by rw [hw]; ring) (by omega)
  rw [decodeNat, ho]
  exact congrArg Except.ok (by rw [f0, f1, f2, f3])
theorem fmul (a0 a1 a2 a3) : Statement (.fmul a0 a1 a2 a3) := by
  have h0 : a0.toNat < 8 := a0.isLt
  have h1 : a1.toNat < 128 := a1.isLt
  have h2 : a2.toNat < 128 := a2.isLt
  have h3 : a3.toNat < 128 := a3.isLt
  refine of_word 114 (a0.toNat * 2097152 + (a1.toNat * 16384 + (a2.toNat * 128 + (a3.toNat * 1 + 0)))) rfl (by rw [low_cons 21 _ 2097152 rfl, low_cons 14 _ 16384 rfl, low_cons 7 _ 128 rfl, low_cons 0 _ 1 rfl]; rfl) (by decide) (by omega) fun w hw ho => ?_
  have f0 : fld w 21 3 = a0 := fld_at 2097152 8 (114) (a1.toNat * 16384 + a2.toNat * 128 + a3.toNat * 1) rfl rfl (by rw [hw]; ring) (by omega)
  have f1 : fld w 14 7 = a1 := fld_at 16384 128 (912 + a0.toNat * 1) (a2.toNat * 128 + a3.toNat * 1) rfl rfl (by rw [hw]; ring) (by omega)
  have f2 : fld w 7 7 = a2 := fld_at 128 128 (116736 + a0.toNat * 128 + a1.toNat * 1) (a3.toNat * 1) rfl rfl (by rw [hw]; ring) (by omega)
  have f3 : fld w 0 7 = a3 := fld_at 1 128 (14942208 + a0.toNat * 16384 + a1.toNat * 128 + a2.toNat * 1) (0) rfl rfl (by rw [hw]; ring) (by omega)
  rw [decodeNat, ho]
  exact congrArg Except.ok (by rw [f0, f1, f2, f3])
theorem ffma (a0 a1 a2 a3) : Statement (.ffma a0 a1 a2 a3) := by
  have h0 : a0.toNat < 8 := a0.isLt
  have h1 : a1.toNat < 128 := a1.isLt
  have h2 : a2.toNat < 128 := a2.isLt
  have h3 : a3.toNat < 128 := a3.isLt
  refine of_word 115 (a0.toNat * 2097152 + (a1.toNat * 16384 + (a2.toNat * 128 + (a3.toNat * 1 + 0)))) rfl (by rw [low_cons 21 _ 2097152 rfl, low_cons 14 _ 16384 rfl, low_cons 7 _ 128 rfl, low_cons 0 _ 1 rfl]; rfl) (by decide) (by omega) fun w hw ho => ?_
  have f0 : fld w 21 3 = a0 := fld_at 2097152 8 (115) (a1.toNat * 16384 + a2.toNat * 128 + a3.toNat * 1) rfl rfl (by rw [hw]; ring) (by omega)
  have f1 : fld w 14 7 = a1 := fld_at 16384 128 (920 + a0.toNat * 1) (a2.toNat * 128 + a3.toNat * 1) rfl rfl (by rw [hw]; ring) (by omega)
  have f2 : fld w 7 7 = a2 := fld_at 128 128 (117760 + a0.toNat * 128 + a1.toNat * 1) (a3.toNat * 1) rfl rfl (by rw [hw]; ring) (by omega)
  have f3 : fld w 0 7 = a3 := fld_at 1 128 (15073280 + a0.toNat * 16384 + a1.toNat * 128 + a2.toNat * 1) (0) rfl rfl (by rw [hw]; ring) (by omega)
  rw [decodeNat, ho]
  exact congrArg Except.ok (by rw [f0, f1, f2, f3])
theorem fmin (a0 a1 a2 a3) : Statement (.fmin a0 a1 a2 a3) := by
  have h0 : a0.toNat < 8 := a0.isLt
  have h1 : a1.toNat < 128 := a1.isLt
  have h2 : a2.toNat < 128 := a2.isLt
  have h3 : a3.toNat < 128 := a3.isLt
  refine of_word 116 (a0.toNat * 2097152 + (a1.toNat * 16384 + (a2.toNat * 128 + (a3.toNat * 1 + 0)))) rfl (by rw [low_cons 21 _ 2097152 rfl, low_cons 14 _ 16384 rfl, low_cons 7 _ 128 rfl, low_cons 0 _ 1 rfl]; rfl) (by decide) (by omega) fun w hw ho => ?_
  have f0 : fld w 21 3 = a0 := fld_at 2097152 8 (116) (a1.toNat * 16384 + a2.toNat * 128 + a3.toNat * 1) rfl rfl (by rw [hw]; ring) (by omega)
  have f1 : fld w 14 7 = a1 := fld_at 16384 128 (928 + a0.toNat * 1) (a2.toNat * 128 + a3.toNat * 1) rfl rfl (by rw [hw]; ring) (by omega)
  have f2 : fld w 7 7 = a2 := fld_at 128 128 (118784 + a0.toNat * 128 + a1.toNat * 1) (a3.toNat * 1) rfl rfl (by rw [hw]; ring) (by omega)
  have f3 : fld w 0 7 = a3 := fld_at 1 128 (15204352 + a0.toNat * 16384 + a1.toNat * 128 + a2.toNat * 1) (0) rfl rfl (by rw [hw]; ring) (by omega)
  rw [decodeNat, ho]
  exact congrArg Except.ok (by rw [f0, f1, f2, f3])
theorem fmax (a0 a1 a2 a3) : Statement (.fmax a0 a1 a2 a3) := by
  have h0 : a0.toNat < 8 := a0.isLt
  have h1 : a1.toNat < 128 := a1.isLt
  have h2 : a2.toNat < 128 := a2.isLt
  have h3 : a3.toNat < 128 := a3.isLt
  refine of_word 117 (a0.toNat * 2097152 + (a1.toNat * 16384 + (a2.toNat * 128 + (a3.toNat * 1 + 0)))) rfl (by rw [low_cons 21 _ 2097152 rfl, low_cons 14 _ 16384 rfl, low_cons 7 _ 128 rfl, low_cons 0 _ 1 rfl]; rfl) (by decide) (by omega) fun w hw ho => ?_
  have f0 : fld w 21 3 = a0 := fld_at 2097152 8 (117) (a1.toNat * 16384 + a2.toNat * 128 + a3.toNat * 1) rfl rfl (by rw [hw]; ring) (by omega)
  have f1 : fld w 14 7 = a1 := fld_at 16384 128 (936 + a0.toNat * 1) (a2.toNat * 128 + a3.toNat * 1) rfl rfl (by rw [hw]; ring) (by omega)
  have f2 : fld w 7 7 = a2 := fld_at 128 128 (119808 + a0.toNat * 128 + a1.toNat * 1) (a3.toNat * 1) rfl rfl (by rw [hw]; ring) (by omega)
  have f3 : fld w 0 7 = a3 := fld_at 1 128 (15335424 + a0.toNat * 16384 + a1.toNat * 128 + a2.toNat * 1) (0) rfl rfl (by rw [hw]; ring) (by omega)
  rw [decodeNat, ho]
  exact congrArg Except.ok (by rw [f0, f1, f2, f3])
theorem fabs (a0 a1 a2) : Statement (.fabs a0 a1 a2) := by
  have h0 : a0.toNat < 8 := a0.isLt
  have h1 : a1.toNat < 128 := a1.isLt
  have h2 : a2.toNat < 128 := a2.isLt
  refine of_word 118 (a0.toNat * 2097152 + (a1.toNat * 16384 + (a2.toNat * 128 + 0))) rfl (by rw [low_cons 21 _ 2097152 rfl, low_cons 14 _ 16384 rfl, low_cons 7 _ 128 rfl]; rfl) (by decide) (by omega) fun w hw ho => ?_
  have f0 : fld w 21 3 = a0 := fld_at 2097152 8 (118) (a1.toNat * 16384 + a2.toNat * 128) rfl rfl (by rw [hw]; ring) (by omega)
  have f1 : fld w 14 7 = a1 := fld_at 16384 128 (944 + a0.toNat * 1) (a2.toNat * 128) rfl rfl (by rw [hw]; ring) (by omega)
  have f2 : fld w 7 7 = a2 := fld_at 128 128 (120832 + a0.toNat * 128 + a1.toNat * 1) (0) rfl rfl (by rw [hw]; ring) (by omega)
  have r0 : rsv w 0 7 = true := rsv_at 1 128 (15466496 + a0.toNat * 16384 + a1.toNat * 128 + a2.toNat * 1) (0) rfl rfl (by rw [hw]; ring) (by omega)
  rw [decodeNat, ho]
  exact guard_eq r0 (by rw [f0, f1, f2])
theorem fneg (a0 a1 a2) : Statement (.fneg a0 a1 a2) := by
  have h0 : a0.toNat < 8 := a0.isLt
  have h1 : a1.toNat < 128 := a1.isLt
  have h2 : a2.toNat < 128 := a2.isLt
  refine of_word 119 (a0.toNat * 2097152 + (a1.toNat * 16384 + (a2.toNat * 128 + 0))) rfl (by rw [low_cons 21 _ 2097152 rfl, low_cons 14 _ 16384 rfl, low_cons 7 _ 128 rfl]; rfl) (by decide) (by omega) fun w hw ho => ?_
  have f0 : fld w 21 3 = a0 := fld_at 2097152 8 (119) (a1.toNat * 16384 + a2.toNat * 128) rfl rfl (by rw [hw]; ring) (by omega)
  have f1 : fld w 14 7 = a1 := fld_at 16384 128 (952 + a0.toNat * 1) (a2.toNat * 128) rfl rfl (by rw [hw]; ring) (by omega)
  have f2 : fld w 7 7 = a2 := fld_at 128 128 (121856 + a0.toNat * 128 + a1.toNat * 1) (0) rfl rfl (by rw [hw]; ring) (by omega)
  have r0 : rsv w 0 7 = true := rsv_at 1 128 (15597568 + a0.toNat * 16384 + a1.toNat * 128 + a2.toNat * 1) (0) rfl rfl (by rw [hw]; ring) (by omega)
  rw [decodeNat, ho]
  exact guard_eq r0 (by rw [f0, f1, f2])
theorem fcmp (a0 a1 a2 a3 a4) : Statement (.fcmp a0 a1 a2 a3 a4) := by
  have h0 : a0.toNat < 8 := a0.isLt
  have h1 : a1.toNat < 16 := a1.isLt
  have h2 : a2.toNat < 8 := a2.isLt
  have h3 : a3.toNat < 128 := a3.isLt
  have h4 : a4.toNat < 128 := a4.isLt
  refine of_word 120 (a0.toNat * 2097152 + (a1.toNat * 131072 + (a2.toNat * 16384 + (a3.toNat * 128 + (a4.toNat * 1 + 0))))) rfl (by rw [low_cons 21 _ 2097152 rfl, low_cons 17 _ 131072 rfl, low_cons 14 _ 16384 rfl, low_cons 7 _ 128 rfl, low_cons 0 _ 1 rfl]; rfl) (by decide) (by omega) fun w hw ho => ?_
  have f0 : fld w 21 3 = a0 := fld_at 2097152 8 (120) (a1.toNat * 131072 + a2.toNat * 16384 + a3.toNat * 128 + a4.toNat * 1) rfl rfl (by rw [hw]; ring) (by omega)
  have f1 : fld w 17 4 = a1 := fld_at 131072 16 (960 + a0.toNat * 1) (a2.toNat * 16384 + a3.toNat * 128 + a4.toNat * 1) rfl rfl (by rw [hw]; ring) (by omega)
  have f2 : fld w 14 3 = a2 := fld_at 16384 8 (15360 + a0.toNat * 16 + a1.toNat * 1) (a3.toNat * 128 + a4.toNat * 1) rfl rfl (by rw [hw]; ring) (by omega)
  have f3 : fld w 7 7 = a3 := fld_at 128 128 (122880 + a0.toNat * 128 + a1.toNat * 8 + a2.toNat * 1) (a4.toNat * 1) rfl rfl (by rw [hw]; ring) (by omega)
  have f4 : fld w 0 7 = a4 := fld_at 1 128 (15728640 + a0.toNat * 16384 + a1.toNat * 1024 + a2.toNat * 128 + a3.toNat * 1) (0) rfl rfl (by rw [hw]; ring) (by omega)
  rw [decodeNat, ho]
  exact congrArg Except.ok (by rw [f0, f1, f2, f3, f4])
theorem fcvt (a0 a1 a2 a3 a4 a5) : Statement (.fcvt a0 a1 a2 a3 a4 a5) := by
  have h0 : a0.toNat < 8 := a0.isLt
  have h1 : a1.toNat < 128 := a1.isLt
  have h2 : a2.toNat < 128 := a2.isLt
  have h3 : a3.toNat < 2 := a3.isLt
  have h4 : a4.toNat < 2 := a4.isLt
  have h5 : a5.toNat < 16 := a5.isLt
  refine of_word 121 (a0.toNat * 2097152 + (a1.toNat * 16384 + (a2.toNat * 128 + (a3.toNat * 32 + (a4.toNat * 16 + (a5.toNat * 1 + 0)))))) rfl (by rw [low_cons 21 _ 2097152 rfl, low_cons 14 _ 16384 rfl, low_cons 7 _ 128 rfl, low_cons 5 _ 32 rfl, low_cons 4 _ 16 rfl, low_cons 0 _ 1 rfl]; rfl) (by decide) (by omega) fun w hw ho => ?_
  have f0 : fld w 21 3 = a0 := fld_at 2097152 8 (121) (a1.toNat * 16384 + a2.toNat * 128 + a3.toNat * 32 + a4.toNat * 16 + a5.toNat * 1) rfl rfl (by rw [hw]; ring) (by omega)
  have f1 : fld w 14 7 = a1 := fld_at 16384 128 (968 + a0.toNat * 1) (a2.toNat * 128 + a3.toNat * 32 + a4.toNat * 16 + a5.toNat * 1) rfl rfl (by rw [hw]; ring) (by omega)
  have f2 : fld w 7 7 = a2 := fld_at 128 128 (123904 + a0.toNat * 128 + a1.toNat * 1) (a3.toNat * 32 + a4.toNat * 16 + a5.toNat * 1) rfl rfl (by rw [hw]; ring) (by omega)
  have f3 : fld w 5 1 = a3 := fld_at 32 2 (31719424 + a0.toNat * 32768 + a1.toNat * 256 + a2.toNat * 2) (a4.toNat * 16 + a5.toNat * 1) rfl rfl (by rw [hw]; ring) (by omega)
  have f4 : fld w 4 1 = a4 := fld_at 16 2 (63438848 + a0.toNat * 65536 + a1.toNat * 512 + a2.toNat * 4 + a3.toNat * 1) (a5.toNat * 1) rfl rfl (by rw [hw]; ring) (by omega)
  have f5 : fld w 0 4 = a5 := fld_at 1 16 (126877696 + a0.toNat * 131072 + a1.toNat * 1024 + a2.toNat * 8 + a3.toNat * 2 + a4.toNat * 1) (0) rfl rfl (by rw [hw]; ring) (by omega)
  have r0 : rsv w 6 1 = true := rsv_at 64 2 (15859712 + a0.toNat * 16384 + a1.toNat * 128 + a2.toNat * 1) (a3.toNat * 32 + a4.toNat * 16 + a5.toNat * 1) rfl rfl (by rw [hw]; ring) (by omega)
  rw [decodeNat, ho]
  exact guard_eq r0 (by rw [f0, f1, f2, f3, f4, f5])
theorem fwiden (a0 a1 a2 a3 a4) : Statement (.fwiden a0 a1 a2 a3 a4) := by
  have h0 : a0.toNat < 8 := a0.isLt
  have h1 : a1.toNat < 128 := a1.isLt
  have h2 : a2.toNat < 128 := a2.isLt
  have h3 : a3.toNat < 2 := a3.isLt
  have h4 : a4.toNat < 2 := a4.isLt
  refine of_word 122 (a0.toNat * 2097152 + (a1.toNat * 16384 + (a2.toNat * 128 + (a3.toNat * 2 + (a4.toNat * 1 + 0))))) rfl (by rw [low_cons 21 _ 2097152 rfl, low_cons 14 _ 16384 rfl, low_cons 7 _ 128 rfl, low_cons 1 _ 2 rfl, low_cons 0 _ 1 rfl]; rfl) (by decide) (by omega) fun w hw ho => ?_
  have f0 : fld w 21 3 = a0 := fld_at 2097152 8 (122) (a1.toNat * 16384 + a2.toNat * 128 + a3.toNat * 2 + a4.toNat * 1) rfl rfl (by rw [hw]; ring) (by omega)
  have f1 : fld w 14 7 = a1 := fld_at 16384 128 (976 + a0.toNat * 1) (a2.toNat * 128 + a3.toNat * 2 + a4.toNat * 1) rfl rfl (by rw [hw]; ring) (by omega)
  have f2 : fld w 7 7 = a2 := fld_at 128 128 (124928 + a0.toNat * 128 + a1.toNat * 1) (a3.toNat * 2 + a4.toNat * 1) rfl rfl (by rw [hw]; ring) (by omega)
  have f3 : fld w 1 1 = a3 := fld_at 2 2 (511705088 + a0.toNat * 524288 + a1.toNat * 4096 + a2.toNat * 32) (a4.toNat * 1) rfl rfl (by rw [hw]; ring) (by omega)
  have f4 : fld w 0 1 = a4 := fld_at 1 2 (1023410176 + a0.toNat * 1048576 + a1.toNat * 8192 + a2.toNat * 64 + a3.toNat * 1) (0) rfl rfl (by rw [hw]; ring) (by omega)
  have r0 : rsv w 2 5 = true := rsv_at 4 32 (15990784 + a0.toNat * 16384 + a1.toNat * 128 + a2.toNat * 1) (a3.toNat * 2 + a4.toNat * 1) rfl rfl (by rw [hw]; ring) (by omega)
  rw [decodeNat, ho]
  exact guard_eq r0 (by rw [f0, f1, f2, f3, f4])
theorem fscale (a0 a1 a2 a3) : Statement (.fscale a0 a1 a2 a3) := by
  have h0 : a0.toNat < 8 := a0.isLt
  have h1 : a1.toNat < 128 := a1.isLt
  have h2 : a2.toNat < 128 := a2.isLt
  have h3 : a3.toNat < 128 := a3.isLt
  refine of_word 123 (a0.toNat * 2097152 + (a1.toNat * 16384 + (a2.toNat * 128 + (a3.toNat * 1 + 0)))) rfl (by rw [low_cons 21 _ 2097152 rfl, low_cons 14 _ 16384 rfl, low_cons 7 _ 128 rfl, low_cons 0 _ 1 rfl]; rfl) (by decide) (by omega) fun w hw ho => ?_
  have f0 : fld w 21 3 = a0 := fld_at 2097152 8 (123) (a1.toNat * 16384 + a2.toNat * 128 + a3.toNat * 1) rfl rfl (by rw [hw]; ring) (by omega)
  have f1 : fld w 14 7 = a1 := fld_at 16384 128 (984 + a0.toNat * 1) (a2.toNat * 128 + a3.toNat * 1) rfl rfl (by rw [hw]; ring) (by omega)
  have f2 : fld w 7 7 = a2 := fld_at 128 128 (125952 + a0.toNat * 128 + a1.toNat * 1) (a3.toNat * 1) rfl rfl (by rw [hw]; ring) (by omega)
  have f3 : fld w 0 7 = a3 := fld_at 1 128 (16121856 + a0.toNat * 16384 + a1.toNat * 128 + a2.toNat * 1) (0) rfl rfl (by rw [hw]; ring) (by omega)
  rw [decodeNat, ho]
  exact congrArg Except.ok (by rw [f0, f1, f2, f3])
theorem frnd (a0 a1 a2 a3 a4 a5) : Statement (.frnd a0 a1 a2 a3 a4 a5) := by
  have h0 : a0.toNat < 8 := a0.isLt
  have h1 : a1.toNat < 128 := a1.isLt
  have h2 : a2.toNat < 128 := a2.isLt
  have h3 : a3.toNat < 2 := a3.isLt
  have h4 : a4.toNat < 2 := a4.isLt
  have h5 : a5.toNat < 16 := a5.isLt
  refine of_word 124 (a0.toNat * 2097152 + (a1.toNat * 16384 + (a2.toNat * 128 + (a3.toNat * 32 + (a4.toNat * 16 + (a5.toNat * 1 + 0)))))) rfl (by rw [low_cons 21 _ 2097152 rfl, low_cons 14 _ 16384 rfl, low_cons 7 _ 128 rfl, low_cons 5 _ 32 rfl, low_cons 4 _ 16 rfl, low_cons 0 _ 1 rfl]; rfl) (by decide) (by omega) fun w hw ho => ?_
  have f0 : fld w 21 3 = a0 := fld_at 2097152 8 (124) (a1.toNat * 16384 + a2.toNat * 128 + a3.toNat * 32 + a4.toNat * 16 + a5.toNat * 1) rfl rfl (by rw [hw]; ring) (by omega)
  have f1 : fld w 14 7 = a1 := fld_at 16384 128 (992 + a0.toNat * 1) (a2.toNat * 128 + a3.toNat * 32 + a4.toNat * 16 + a5.toNat * 1) rfl rfl (by rw [hw]; ring) (by omega)
  have f2 : fld w 7 7 = a2 := fld_at 128 128 (126976 + a0.toNat * 128 + a1.toNat * 1) (a3.toNat * 32 + a4.toNat * 16 + a5.toNat * 1) rfl rfl (by rw [hw]; ring) (by omega)
  have f3 : fld w 5 1 = a3 := fld_at 32 2 (32505856 + a0.toNat * 32768 + a1.toNat * 256 + a2.toNat * 2) (a4.toNat * 16 + a5.toNat * 1) rfl rfl (by rw [hw]; ring) (by omega)
  have f4 : fld w 4 1 = a4 := fld_at 16 2 (65011712 + a0.toNat * 65536 + a1.toNat * 512 + a2.toNat * 4 + a3.toNat * 1) (a5.toNat * 1) rfl rfl (by rw [hw]; ring) (by omega)
  have f5 : fld w 0 4 = a5 := fld_at 1 16 (130023424 + a0.toNat * 131072 + a1.toNat * 1024 + a2.toNat * 8 + a3.toNat * 2 + a4.toNat * 1) (0) rfl rfl (by rw [hw]; ring) (by omega)
  have r0 : rsv w 6 1 = true := rsv_at 64 2 (16252928 + a0.toNat * 16384 + a1.toNat * 128 + a2.toNat * 1) (a3.toNat * 32 + a4.toNat * 16 + a5.toNat * 1) rfl rfl (by rw [hw]; ring) (by omega)
  rw [decodeNat, ho]
  exact guard_eq r0 (by rw [f0, f1, f2, f3, f4, f5])
theorem fmxs (a0 a1 a2 a3 a4) : Statement (.fmxs a0 a1 a2 a3 a4) := by
  have h0 : a0.toNat < 8 := a0.isLt
  have h1 : a1.toNat < 128 := a1.isLt
  have h2 : a2.toNat < 128 := a2.isLt
  have h3 : a3.toNat < 2 := a3.isLt
  have h4 : a4.toNat < 16 := a4.isLt
  refine of_word 125 (a0.toNat * 2097152 + (a1.toNat * 16384 + (a2.toNat * 128 + (a3.toNat * 16 + (a4.toNat * 1 + 0))))) rfl (by rw [low_cons 21 _ 2097152 rfl, low_cons 14 _ 16384 rfl, low_cons 7 _ 128 rfl, low_cons 4 _ 16 rfl, low_cons 0 _ 1 rfl]; rfl) (by decide) (by omega) fun w hw ho => ?_
  have f0 : fld w 21 3 = a0 := fld_at 2097152 8 (125) (a1.toNat * 16384 + a2.toNat * 128 + a3.toNat * 16 + a4.toNat * 1) rfl rfl (by rw [hw]; ring) (by omega)
  have f1 : fld w 14 7 = a1 := fld_at 16384 128 (1000 + a0.toNat * 1) (a2.toNat * 128 + a3.toNat * 16 + a4.toNat * 1) rfl rfl (by rw [hw]; ring) (by omega)
  have f2 : fld w 7 7 = a2 := fld_at 128 128 (128000 + a0.toNat * 128 + a1.toNat * 1) (a3.toNat * 16 + a4.toNat * 1) rfl rfl (by rw [hw]; ring) (by omega)
  have f3 : fld w 4 1 = a3 := fld_at 16 2 (65536000 + a0.toNat * 65536 + a1.toNat * 512 + a2.toNat * 4) (a4.toNat * 1) rfl rfl (by rw [hw]; ring) (by omega)
  have f4 : fld w 0 4 = a4 := fld_at 1 16 (131072000 + a0.toNat * 131072 + a1.toNat * 1024 + a2.toNat * 8 + a3.toNat * 1) (0) rfl rfl (by rw [hw]; ring) (by omega)
  have r0 : rsv w 5 2 = true := rsv_at 32 4 (16384000 + a0.toNat * 16384 + a1.toNat * 128 + a2.toNat * 1) (a3.toNat * 16 + a4.toNat * 1) rfl rfl (by rw [hw]; ring) (by omega)
  rw [decodeNat, ho]
  exact guard_eq r0 (by rw [f0, f1, f2, f3, f4])
theorem fclass (a0 a1 a2) : Statement (.fclass a0 a1 a2) := by
  have h0 : a0.toNat < 8 := a0.isLt
  have h1 : a1.toNat < 128 := a1.isLt
  have h2 : a2.toNat < 128 := a2.isLt
  refine of_word 126 (a0.toNat * 2097152 + (a1.toNat * 16384 + (a2.toNat * 128 + 0))) rfl (by rw [low_cons 21 _ 2097152 rfl, low_cons 14 _ 16384 rfl, low_cons 7 _ 128 rfl]; rfl) (by decide) (by omega) fun w hw ho => ?_
  have f0 : fld w 21 3 = a0 := fld_at 2097152 8 (126) (a1.toNat * 16384 + a2.toNat * 128) rfl rfl (by rw [hw]; ring) (by omega)
  have f1 : fld w 14 7 = a1 := fld_at 16384 128 (1008 + a0.toNat * 1) (a2.toNat * 128) rfl rfl (by rw [hw]; ring) (by omega)
  have f2 : fld w 7 7 = a2 := fld_at 128 128 (129024 + a0.toNat * 128 + a1.toNat * 1) (0) rfl rfl (by rw [hw]; ring) (by omega)
  have r0 : rsv w 0 7 = true := rsv_at 1 128 (16515072 + a0.toNat * 16384 + a1.toNat * 128 + a2.toNat * 1) (0) rfl rfl (by rw [hw]; ring) (by omega)
  rw [decodeNat, ho]
  exact guard_eq r0 (by rw [f0, f1, f2])
theorem fstkGet (a0 a1 a2) : Statement (.fstkGet a0 a1 a2) := by
  have h0 : a0.toNat < 8 := a0.isLt
  have h1 : a1.toNat < 128 := a1.isLt
  have h2 : a2.toNat < 128 := a2.isLt
  refine of_word 127 (a0.toNat * 2097152 + (a1.toNat * 16384 + (a2.toNat * 128 + 0))) rfl (by rw [low_cons 21 _ 2097152 rfl, low_cons 14 _ 16384 rfl, low_cons 7 _ 128 rfl]; rfl) (by decide) (by omega) fun w hw ho => ?_
  have f0 : fld w 21 3 = a0 := fld_at 2097152 8 (127) (a1.toNat * 16384 + a2.toNat * 128) rfl rfl (by rw [hw]; ring) (by omega)
  have f1 : fld w 14 7 = a1 := fld_at 16384 128 (1016 + a0.toNat * 1) (a2.toNat * 128) rfl rfl (by rw [hw]; ring) (by omega)
  have f2 : fld w 7 7 = a2 := fld_at 128 128 (130048 + a0.toNat * 128 + a1.toNat * 1) (0) rfl rfl (by rw [hw]; ring) (by omega)
  have r0 : rsv w 1 6 = true := rsv_at 2 64 (16646144 + a0.toNat * 16384 + a1.toNat * 128 + a2.toNat * 1) (0) rfl rfl (by rw [hw]; ring) (by omega)
  rw [decodeNat, ho]
  have q : rsv w 0 1 = true := rsv_at 1 2 (1065353216 + a0.toNat * 1048576 + a1.toNat * 8192 + a2.toNat * 64) 0 rfl rfl (by rw [hw]; ring) (by omega)
  exact guard_eq r0 (by rw [q, f0, f1, f2]; rfl)
theorem fstkSet (a0 a1 a2) : Statement (.fstkSet a0 a1 a2) := by
  have h0 : a0.toNat < 8 := a0.isLt
  have h1 : a1.toNat < 128 := a1.isLt
  have h2 : a2.toNat < 128 := a2.isLt
  refine of_word 127 (a0.toNat * 2097152 + (a1.toNat * 16384 + (a2.toNat * 128 + (1 * 1 + 0)))) rfl (by rw [low_cons 21 _ 2097152 rfl, low_cons 14 _ 16384 rfl, low_cons 7 _ 128 rfl, low_cons 0 _ 1 rfl]; rfl) (by decide) (by omega) fun w hw ho => ?_
  have f0 : fld w 21 3 = a0 := fld_at 2097152 8 (127) (a1.toNat * 16384 + a2.toNat * 128 + 1 * 1) rfl rfl (by rw [hw]; ring) (by omega)
  have f1 : fld w 14 7 = a1 := fld_at 16384 128 (1016 + a0.toNat * 1) (a2.toNat * 128 + 1 * 1) rfl rfl (by rw [hw]; ring) (by omega)
  have f2 : fld w 7 7 = a2 := fld_at 128 128 (130048 + a0.toNat * 128 + a1.toNat * 1) (1 * 1) rfl rfl (by rw [hw]; ring) (by omega)
  have r0 : rsv w 1 6 = true := rsv_at 2 64 (16646144 + a0.toNat * 16384 + a1.toNat * 128 + a2.toNat * 1) (1 * 1) rfl rfl (by rw [hw]; ring) (by omega)
  rw [decodeNat, ho]
  have q : rsv w 0 1 = false := by rw [rsv]; simp; omega
  exact guard_eq r0 (by rw [q, f0, f1, f2]; rfl)
theorem frcp (a0 a1 a2) : Statement (.frcp a0 a1 a2) := by
  have h0 : a0.toNat < 8 := a0.isLt
  have h1 : a1.toNat < 128 := a1.isLt
  have h2 : a2.toNat < 128 := a2.isLt
  refine of_word 128 (a0.toNat * 2097152 + (a1.toNat * 16384 + (a2.toNat * 128 + 0))) rfl (by rw [low_cons 21 _ 2097152 rfl, low_cons 14 _ 16384 rfl, low_cons 7 _ 128 rfl]; rfl) (by decide) (by omega) fun w hw ho => ?_
  have f0 : fld w 21 3 = a0 := fld_at 2097152 8 (128) (a1.toNat * 16384 + a2.toNat * 128) rfl rfl (by rw [hw]; ring) (by omega)
  have f1 : fld w 14 7 = a1 := fld_at 16384 128 (1024 + a0.toNat * 1) (a2.toNat * 128) rfl rfl (by rw [hw]; ring) (by omega)
  have f2 : fld w 7 7 = a2 := fld_at 128 128 (131072 + a0.toNat * 128 + a1.toNat * 1) (0) rfl rfl (by rw [hw]; ring) (by omega)
  have r0 : rsv w 0 7 = true := rsv_at 1 128 (16777216 + a0.toNat * 16384 + a1.toNat * 128 + a2.toNat * 1) (0) rfl rfl (by rw [hw]; ring) (by omega)
  rw [decodeNat, ho]
  exact guard_eq r0 (by rw [f0, f1, f2])
theorem frsq (a0 a1 a2) : Statement (.frsq a0 a1 a2) := by
  have h0 : a0.toNat < 8 := a0.isLt
  have h1 : a1.toNat < 128 := a1.isLt
  have h2 : a2.toNat < 128 := a2.isLt
  refine of_word 129 (a0.toNat * 2097152 + (a1.toNat * 16384 + (a2.toNat * 128 + 0))) rfl (by rw [low_cons 21 _ 2097152 rfl, low_cons 14 _ 16384 rfl, low_cons 7 _ 128 rfl]; rfl) (by decide) (by omega) fun w hw ho => ?_
  have f0 : fld w 21 3 = a0 := fld_at 2097152 8 (129) (a1.toNat * 16384 + a2.toNat * 128) rfl rfl (by rw [hw]; ring) (by omega)
  have f1 : fld w 14 7 = a1 := fld_at 16384 128 (1032 + a0.toNat * 1) (a2.toNat * 128) rfl rfl (by rw [hw]; ring) (by omega)
  have f2 : fld w 7 7 = a2 := fld_at 128 128 (132096 + a0.toNat * 128 + a1.toNat * 1) (0) rfl rfl (by rw [hw]; ring) (by omega)
  have r0 : rsv w 0 7 = true := rsv_at 1 128 (16908288 + a0.toNat * 16384 + a1.toNat * 128 + a2.toNat * 1) (0) rfl rfl (by rw [hw]; ring) (by omega)
  rw [decodeNat, ho]
  exact guard_eq r0 (by rw [f0, f1, f2])
theorem fexp2 (a0 a1 a2) : Statement (.fexp2 a0 a1 a2) := by
  have h0 : a0.toNat < 8 := a0.isLt
  have h1 : a1.toNat < 128 := a1.isLt
  have h2 : a2.toNat < 128 := a2.isLt
  refine of_word 130 (a0.toNat * 2097152 + (a1.toNat * 16384 + (a2.toNat * 128 + 0))) rfl (by rw [low_cons 21 _ 2097152 rfl, low_cons 14 _ 16384 rfl, low_cons 7 _ 128 rfl]; rfl) (by decide) (by omega) fun w hw ho => ?_
  have f0 : fld w 21 3 = a0 := fld_at 2097152 8 (130) (a1.toNat * 16384 + a2.toNat * 128) rfl rfl (by rw [hw]; ring) (by omega)
  have f1 : fld w 14 7 = a1 := fld_at 16384 128 (1040 + a0.toNat * 1) (a2.toNat * 128) rfl rfl (by rw [hw]; ring) (by omega)
  have f2 : fld w 7 7 = a2 := fld_at 128 128 (133120 + a0.toNat * 128 + a1.toNat * 1) (0) rfl rfl (by rw [hw]; ring) (by omega)
  have r0 : rsv w 0 7 = true := rsv_at 1 128 (17039360 + a0.toNat * 16384 + a1.toNat * 128 + a2.toNat * 1) (0) rfl rfl (by rw [hw]; ring) (by omega)
  rw [decodeNat, ho]
  exact guard_eq r0 (by rw [f0, f1, f2])
theorem flog2 (a0 a1 a2) : Statement (.flog2 a0 a1 a2) := by
  have h0 : a0.toNat < 8 := a0.isLt
  have h1 : a1.toNat < 128 := a1.isLt
  have h2 : a2.toNat < 128 := a2.isLt
  refine of_word 131 (a0.toNat * 2097152 + (a1.toNat * 16384 + (a2.toNat * 128 + 0))) rfl (by rw [low_cons 21 _ 2097152 rfl, low_cons 14 _ 16384 rfl, low_cons 7 _ 128 rfl]; rfl) (by decide) (by omega) fun w hw ho => ?_
  have f0 : fld w 21 3 = a0 := fld_at 2097152 8 (131) (a1.toNat * 16384 + a2.toNat * 128) rfl rfl (by rw [hw]; ring) (by omega)
  have f1 : fld w 14 7 = a1 := fld_at 16384 128 (1048 + a0.toNat * 1) (a2.toNat * 128) rfl rfl (by rw [hw]; ring) (by omega)
  have f2 : fld w 7 7 = a2 := fld_at 128 128 (134144 + a0.toNat * 128 + a1.toNat * 1) (0) rfl rfl (by rw [hw]; ring) (by omega)
  have r0 : rsv w 0 7 = true := rsv_at 1 128 (17170432 + a0.toNat * 16384 + a1.toNat * 128 + a2.toNat * 1) (0) rfl rfl (by rw [hw]; ring) (by omega)
  rw [decodeNat, ho]
  exact guard_eq r0 (by rw [f0, f1, f2])
theorem ftanh (a0 a1 a2) : Statement (.ftanh a0 a1 a2) := by
  have h0 : a0.toNat < 8 := a0.isLt
  have h1 : a1.toNat < 128 := a1.isLt
  have h2 : a2.toNat < 128 := a2.isLt
  refine of_word 132 (a0.toNat * 2097152 + (a1.toNat * 16384 + (a2.toNat * 128 + 0))) rfl (by rw [low_cons 21 _ 2097152 rfl, low_cons 14 _ 16384 rfl, low_cons 7 _ 128 rfl]; rfl) (by decide) (by omega) fun w hw ho => ?_
  have f0 : fld w 21 3 = a0 := fld_at 2097152 8 (132) (a1.toNat * 16384 + a2.toNat * 128) rfl rfl (by rw [hw]; ring) (by omega)
  have f1 : fld w 14 7 = a1 := fld_at 16384 128 (1056 + a0.toNat * 1) (a2.toNat * 128) rfl rfl (by rw [hw]; ring) (by omega)
  have f2 : fld w 7 7 = a2 := fld_at 128 128 (135168 + a0.toNat * 128 + a1.toNat * 1) (0) rfl rfl (by rw [hw]; ring) (by omega)
  have r0 : rsv w 0 7 = true := rsv_at 1 128 (17301504 + a0.toNat * 16384 + a1.toNat * 128 + a2.toNat * 1) (0) rfl rfl (by rw [hw]; ring) (by omega)
  rw [decodeNat, ho]
  exact guard_eq r0 (by rw [f0, f1, f2])
theorem faddl (a0 a1 a2 a3) : Statement (.faddl a0 a1 a2 a3) := by
  have h0 : a0.toNat < 8 := a0.isLt
  have h1 : a1.toNat < 128 := a1.isLt
  have h2 : a2.toNat < 128 := a2.isLt
  refine of_word 133 (a0.toNat * 2097152 + (a1.toNat * 16384 + (a2.toNat * 128 + 0))) rfl (by rw [low_cons 21 _ 2097152 rfl, low_cons 14 _ 16384 rfl, low_cons 7 _ 128 rfl]; rfl) (by decide) (by omega) fun w hw ho => ?_
  have f0 : fld w 21 3 = a0 := fld_at 2097152 8 (133) (a1.toNat * 16384 + a2.toNat * 128) rfl rfl (by rw [hw]; ring) (by omega)
  have f1 : fld w 14 7 = a1 := fld_at 16384 128 (1064 + a0.toNat * 1) (a2.toNat * 128) rfl rfl (by rw [hw]; ring) (by omega)
  have f2 : fld w 7 7 = a2 := fld_at 128 128 (136192 + a0.toNat * 128 + a1.toNat * 1) (0) rfl rfl (by rw [hw]; ring) (by omega)
  have r0 : rsv w 0 7 = true := rsv_at 1 128 (17432576 + a0.toNat * 16384 + a1.toNat * 128 + a2.toNat * 1) (0) rfl rfl (by rw [hw]; ring) (by omega)
  rw [decodeNat, ho]
  exact guard_eq r0 (by rw [f0, f1, f2])
theorem fmull (a0 a1 a2 a3) : Statement (.fmull a0 a1 a2 a3) := by
  have h0 : a0.toNat < 8 := a0.isLt
  have h1 : a1.toNat < 128 := a1.isLt
  have h2 : a2.toNat < 128 := a2.isLt
  refine of_word 134 (a0.toNat * 2097152 + (a1.toNat * 16384 + (a2.toNat * 128 + 0))) rfl (by rw [low_cons 21 _ 2097152 rfl, low_cons 14 _ 16384 rfl, low_cons 7 _ 128 rfl]; rfl) (by decide) (by omega) fun w hw ho => ?_
  have f0 : fld w 21 3 = a0 := fld_at 2097152 8 (134) (a1.toNat * 16384 + a2.toNat * 128) rfl rfl (by rw [hw]; ring) (by omega)
  have f1 : fld w 14 7 = a1 := fld_at 16384 128 (1072 + a0.toNat * 1) (a2.toNat * 128) rfl rfl (by rw [hw]; ring) (by omega)
  have f2 : fld w 7 7 = a2 := fld_at 128 128 (137216 + a0.toNat * 128 + a1.toNat * 1) (0) rfl rfl (by rw [hw]; ring) (by omega)
  have r0 : rsv w 0 7 = true := rsv_at 1 128 (17563648 + a0.toNat * 16384 + a1.toNat * 128 + a2.toNat * 1) (0) rfl rfl (by rw [hw]; ring) (by omega)
  rw [decodeNat, ho]
  exact guard_eq r0 (by rw [f0, f1, f2])
theorem ffmal (a0 a1 a2 a3 a4) : Statement (.ffmal a0 a1 a2 a3 a4) := by
  have h0 : a0.toNat < 8 := a0.isLt
  have h1 : a1.toNat < 128 := a1.isLt
  have h2 : a2.toNat < 128 := a2.isLt
  have h3 : a3.toNat < 128 := a3.isLt
  refine of_word 135 (a0.toNat * 2097152 + (a1.toNat * 16384 + (a2.toNat * 128 + (a3.toNat * 1 + 0)))) rfl (by rw [low_cons 21 _ 2097152 rfl, low_cons 14 _ 16384 rfl, low_cons 7 _ 128 rfl, low_cons 0 _ 1 rfl]; rfl) (by decide) (by omega) fun w hw ho => ?_
  have f0 : fld w 21 3 = a0 := fld_at 2097152 8 (135) (a1.toNat * 16384 + a2.toNat * 128 + a3.toNat * 1) rfl rfl (by rw [hw]; ring) (by omega)
  have f1 : fld w 14 7 = a1 := fld_at 16384 128 (1080 + a0.toNat * 1) (a2.toNat * 128 + a3.toNat * 1) rfl rfl (by rw [hw]; ring) (by omega)
  have f2 : fld w 7 7 = a2 := fld_at 128 128 (138240 + a0.toNat * 128 + a1.toNat * 1) (a3.toNat * 1) rfl rfl (by rw [hw]; ring) (by omega)
  have f3 : fld w 0 7 = a3 := fld_at 1 128 (17694720 + a0.toNat * 16384 + a1.toNat * 128 + a2.toNat * 1) (0) rfl rfl (by rw [hw]; ring) (by omega)
  rw [decodeNat, ho]
  exact congrArg Except.ok (by rw [f0, f1, f2, f3])
theorem fcmpl (a0 a1 a2 a3 a4) : Statement (.fcmpl a0 a1 a2 a3 a4) := by
  have h0 : a0.toNat < 8 := a0.isLt
  have h1 : a1.toNat < 16 := a1.isLt
  have h2 : a2.toNat < 8 := a2.isLt
  have h3 : a3.toNat < 128 := a3.isLt
  refine of_word 136 (a0.toNat * 2097152 + (a1.toNat * 131072 + (a2.toNat * 16384 + (a3.toNat * 128 + 0)))) rfl (by rw [low_cons 21 _ 2097152 rfl, low_cons 17 _ 131072 rfl, low_cons 14 _ 16384 rfl, low_cons 7 _ 128 rfl]; rfl) (by decide) (by omega) fun w hw ho => ?_
  have f0 : fld w 21 3 = a0 := fld_at 2097152 8 (136) (a1.toNat * 131072 + a2.toNat * 16384 + a3.toNat * 128) rfl rfl (by rw [hw]; ring) (by omega)
  have f1 : fld w 17 4 = a1 := fld_at 131072 16 (1088 + a0.toNat * 1) (a2.toNat * 16384 + a3.toNat * 128) rfl rfl (by rw [hw]; ring) (by omega)
  have f2 : fld w 14 3 = a2 := fld_at 16384 8 (17408 + a0.toNat * 16 + a1.toNat * 1) (a3.toNat * 128) rfl rfl (by rw [hw]; ring) (by omega)
  have f3 : fld w 7 7 = a3 := fld_at 128 128 (139264 + a0.toNat * 128 + a1.toNat * 8 + a2.toNat * 1) (0) rfl rfl (by rw [hw]; ring) (by omega)
  have r0 : rsv w 0 7 = true := rsv_at 1 128 (17825792 + a0.toNat * 16384 + a1.toNat * 1024 + a2.toNat * 128 + a3.toNat * 1) (0) rfl rfl (by rw [hw]; ring) (by omega)
  rw [decodeNat, ho]
  exact guard_eq r0 (by rw [f0, f1, f2, f3])
theorem faddp (a0 a1 a2 a3) : Statement (.faddp a0 a1 a2 a3) := by
  have h0 : a0.toNat < 8 := a0.isLt
  have h1 : a1.toNat < 128 := a1.isLt
  have h2 : a2.toNat < 128 := a2.isLt
  have h3 : a3.toNat < 128 := a3.isLt
  refine of_word 137 (a0.toNat * 2097152 + (a1.toNat * 16384 + (a2.toNat * 128 + (a3.toNat * 1 + 0)))) rfl (by rw [low_cons 21 _ 2097152 rfl, low_cons 14 _ 16384 rfl, low_cons 7 _ 128 rfl, low_cons 0 _ 1 rfl]; rfl) (by decide) (by omega) fun w hw ho => ?_
  have f0 : fld w 21 3 = a0 := fld_at 2097152 8 (137) (a1.toNat * 16384 + a2.toNat * 128 + a3.toNat * 1) rfl rfl (by rw [hw]; ring) (by omega)
  have f1 : fld w 14 7 = a1 := fld_at 16384 128 (1096 + a0.toNat * 1) (a2.toNat * 128 + a3.toNat * 1) rfl rfl (by rw [hw]; ring) (by omega)
  have f2 : fld w 7 7 = a2 := fld_at 128 128 (140288 + a0.toNat * 128 + a1.toNat * 1) (a3.toNat * 1) rfl rfl (by rw [hw]; ring) (by omega)
  have f3 : fld w 0 7 = a3 := fld_at 1 128 (17956864 + a0.toNat * 16384 + a1.toNat * 128 + a2.toNat * 1) (0) rfl rfl (by rw [hw]; ring) (by omega)
  rw [decodeNat, ho]
  exact congrArg Except.ok (by rw [f0, f1, f2, f3])
theorem fsubp (a0 a1 a2 a3) : Statement (.fsubp a0 a1 a2 a3) := by
  have h0 : a0.toNat < 8 := a0.isLt
  have h1 : a1.toNat < 128 := a1.isLt
  have h2 : a2.toNat < 128 := a2.isLt
  have h3 : a3.toNat < 128 := a3.isLt
  refine of_word 138 (a0.toNat * 2097152 + (a1.toNat * 16384 + (a2.toNat * 128 + (a3.toNat * 1 + 0)))) rfl (by rw [low_cons 21 _ 2097152 rfl, low_cons 14 _ 16384 rfl, low_cons 7 _ 128 rfl, low_cons 0 _ 1 rfl]; rfl) (by decide) (by omega) fun w hw ho => ?_
  have f0 : fld w 21 3 = a0 := fld_at 2097152 8 (138) (a1.toNat * 16384 + a2.toNat * 128 + a3.toNat * 1) rfl rfl (by rw [hw]; ring) (by omega)
  have f1 : fld w 14 7 = a1 := fld_at 16384 128 (1104 + a0.toNat * 1) (a2.toNat * 128 + a3.toNat * 1) rfl rfl (by rw [hw]; ring) (by omega)
  have f2 : fld w 7 7 = a2 := fld_at 128 128 (141312 + a0.toNat * 128 + a1.toNat * 1) (a3.toNat * 1) rfl rfl (by rw [hw]; ring) (by omega)
  have f3 : fld w 0 7 = a3 := fld_at 1 128 (18087936 + a0.toNat * 16384 + a1.toNat * 128 + a2.toNat * 1) (0) rfl rfl (by rw [hw]; ring) (by omega)
  rw [decodeNat, ho]
  exact congrArg Except.ok (by rw [f0, f1, f2, f3])
theorem fmulp (a0 a1 a2 a3) : Statement (.fmulp a0 a1 a2 a3) := by
  have h0 : a0.toNat < 8 := a0.isLt
  have h1 : a1.toNat < 128 := a1.isLt
  have h2 : a2.toNat < 128 := a2.isLt
  have h3 : a3.toNat < 128 := a3.isLt
  refine of_word 139 (a0.toNat * 2097152 + (a1.toNat * 16384 + (a2.toNat * 128 + (a3.toNat * 1 + 0)))) rfl (by rw [low_cons 21 _ 2097152 rfl, low_cons 14 _ 16384 rfl, low_cons 7 _ 128 rfl, low_cons 0 _ 1 rfl]; rfl) (by decide) (by omega) fun w hw ho => ?_
  have f0 : fld w 21 3 = a0 := fld_at 2097152 8 (139) (a1.toNat * 16384 + a2.toNat * 128 + a3.toNat * 1) rfl rfl (by rw [hw]; ring) (by omega)
  have f1 : fld w 14 7 = a1 := fld_at 16384 128 (1112 + a0.toNat * 1) (a2.toNat * 128 + a3.toNat * 1) rfl rfl (by rw [hw]; ring) (by omega)
  have f2 : fld w 7 7 = a2 := fld_at 128 128 (142336 + a0.toNat * 128 + a1.toNat * 1) (a3.toNat * 1) rfl rfl (by rw [hw]; ring) (by omega)
  have f3 : fld w 0 7 = a3 := fld_at 1 128 (18219008 + a0.toNat * 16384 + a1.toNat * 128 + a2.toNat * 1) (0) rfl rfl (by rw [hw]; ring) (by omega)
  rw [decodeNat, ho]
  exact congrArg Except.ok (by rw [f0, f1, f2, f3])
theorem ffmap (a0 a1 a2 a3) : Statement (.ffmap a0 a1 a2 a3) := by
  have h0 : a0.toNat < 8 := a0.isLt
  have h1 : a1.toNat < 128 := a1.isLt
  have h2 : a2.toNat < 128 := a2.isLt
  have h3 : a3.toNat < 128 := a3.isLt
  refine of_word 140 (a0.toNat * 2097152 + (a1.toNat * 16384 + (a2.toNat * 128 + (a3.toNat * 1 + 0)))) rfl (by rw [low_cons 21 _ 2097152 rfl, low_cons 14 _ 16384 rfl, low_cons 7 _ 128 rfl, low_cons 0 _ 1 rfl]; rfl) (by decide) (by omega) fun w hw ho => ?_
  have f0 : fld w 21 3 = a0 := fld_at 2097152 8 (140) (a1.toNat * 16384 + a2.toNat * 128 + a3.toNat * 1) rfl rfl (by rw [hw]; ring) (by omega)
  have f1 : fld w 14 7 = a1 := fld_at 16384 128 (1120 + a0.toNat * 1) (a2.toNat * 128 + a3.toNat * 1) rfl rfl (by rw [hw]; ring) (by omega)
  have f2 : fld w 7 7 = a2 := fld_at 128 128 (143360 + a0.toNat * 128 + a1.toNat * 1) (a3.toNat * 1) rfl rfl (by rw [hw]; ring) (by omega)
  have f3 : fld w 0 7 = a3 := fld_at 1 128 (18350080 + a0.toNat * 16384 + a1.toNat * 128 + a2.toNat * 1) (0) rfl rfl (by rw [hw]; ring) (by omega)
  rw [decodeNat, ho]
  exact congrArg Except.ok (by rw [f0, f1, f2, f3])
theorem fminp (a0 a1 a2 a3) : Statement (.fminp a0 a1 a2 a3) := by
  have h0 : a0.toNat < 8 := a0.isLt
  have h1 : a1.toNat < 128 := a1.isLt
  have h2 : a2.toNat < 128 := a2.isLt
  have h3 : a3.toNat < 128 := a3.isLt
  refine of_word 141 (a0.toNat * 2097152 + (a1.toNat * 16384 + (a2.toNat * 128 + (a3.toNat * 1 + 0)))) rfl (by rw [low_cons 21 _ 2097152 rfl, low_cons 14 _ 16384 rfl, low_cons 7 _ 128 rfl, low_cons 0 _ 1 rfl]; rfl) (by decide) (by omega) fun w hw ho => ?_
  have f0 : fld w 21 3 = a0 := fld_at 2097152 8 (141) (a1.toNat * 16384 + a2.toNat * 128 + a3.toNat * 1) rfl rfl (by rw [hw]; ring) (by omega)
  have f1 : fld w 14 7 = a1 := fld_at 16384 128 (1128 + a0.toNat * 1) (a2.toNat * 128 + a3.toNat * 1) rfl rfl (by rw [hw]; ring) (by omega)
  have f2 : fld w 7 7 = a2 := fld_at 128 128 (144384 + a0.toNat * 128 + a1.toNat * 1) (a3.toNat * 1) rfl rfl (by rw [hw]; ring) (by omega)
  have f3 : fld w 0 7 = a3 := fld_at 1 128 (18481152 + a0.toNat * 16384 + a1.toNat * 128 + a2.toNat * 1) (0) rfl rfl (by rw [hw]; ring) (by omega)
  rw [decodeNat, ho]
  exact congrArg Except.ok (by rw [f0, f1, f2, f3])
theorem fmaxp (a0 a1 a2 a3) : Statement (.fmaxp a0 a1 a2 a3) := by
  have h0 : a0.toNat < 8 := a0.isLt
  have h1 : a1.toNat < 128 := a1.isLt
  have h2 : a2.toNat < 128 := a2.isLt
  have h3 : a3.toNat < 128 := a3.isLt
  refine of_word 142 (a0.toNat * 2097152 + (a1.toNat * 16384 + (a2.toNat * 128 + (a3.toNat * 1 + 0)))) rfl (by rw [low_cons 21 _ 2097152 rfl, low_cons 14 _ 16384 rfl, low_cons 7 _ 128 rfl, low_cons 0 _ 1 rfl]; rfl) (by decide) (by omega) fun w hw ho => ?_
  have f0 : fld w 21 3 = a0 := fld_at 2097152 8 (142) (a1.toNat * 16384 + a2.toNat * 128 + a3.toNat * 1) rfl rfl (by rw [hw]; ring) (by omega)
  have f1 : fld w 14 7 = a1 := fld_at 16384 128 (1136 + a0.toNat * 1) (a2.toNat * 128 + a3.toNat * 1) rfl rfl (by rw [hw]; ring) (by omega)
  have f2 : fld w 7 7 = a2 := fld_at 128 128 (145408 + a0.toNat * 128 + a1.toNat * 1) (a3.toNat * 1) rfl rfl (by rw [hw]; ring) (by omega)
  have f3 : fld w 0 7 = a3 := fld_at 1 128 (18612224 + a0.toNat * 16384 + a1.toNat * 128 + a2.toNat * 1) (0) rfl rfl (by rw [hw]; ring) (by omega)
  rw [decodeNat, ho]
  exact congrArg Except.ok (by rw [f0, f1, f2, f3])
theorem ld (a0 a1 a2 a3 a4) : Statement (.ld a0 a1 a2 a3 a4) := by
  have h0 : a0.toNat < 8 := a0.isLt
  have h1 : a1.toNat < 16 := a1.isLt
  have h2 : a2.toNat < 128 := a2.isLt
  have h3 : a3.toNat < 64 := a3.isLt
  have h4 : a4.toNat < 16 := a4.isLt
  refine of_word 160 (a0.toNat * 2097152 + (a1.toNat * 131072 + (a2.toNat * 1024 + (a3.toNat * 16 + (a4.toNat * 1 + 0))))) rfl (by rw [low_cons 21 _ 2097152 rfl, low_cons 17 _ 131072 rfl, low_cons 10 _ 1024 rfl, low_cons 4 _ 16 rfl, low_cons 0 _ 1 rfl]; rfl) (by decide) (by omega) fun w hw ho => ?_
  have f0 : fld w 21 3 = a0 := fld_at 2097152 8 (160) (a1.toNat * 131072 + a2.toNat * 1024 + a3.toNat * 16 + a4.toNat * 1) rfl rfl (by rw [hw]; ring) (by omega)
  have f1 : fld w 17 4 = a1 := fld_at 131072 16 (1280 + a0.toNat * 1) (a2.toNat * 1024 + a3.toNat * 16 + a4.toNat * 1) rfl rfl (by rw [hw]; ring) (by omega)
  have f2 : fld w 10 7 = a2 := fld_at 1024 128 (20480 + a0.toNat * 16 + a1.toNat * 1) (a3.toNat * 16 + a4.toNat * 1) rfl rfl (by rw [hw]; ring) (by omega)
  have f3 : fld w 4 6 = a3 := fld_at 16 64 (2621440 + a0.toNat * 2048 + a1.toNat * 128 + a2.toNat * 1) (a4.toNat * 1) rfl rfl (by rw [hw]; ring) (by omega)
  have f4 : fld w 0 4 = a4 := fld_at 1 16 (167772160 + a0.toNat * 131072 + a1.toNat * 8192 + a2.toNat * 64 + a3.toNat * 1) (0) rfl rfl (by rw [hw]; ring) (by omega)
  rw [decodeNat, ho]
  exact congrArg Except.ok (by rw [f0, f1, f2, f3, f4])
theorem st (a0 a1 a2 a3) : Statement (.st a0 a1 a2 a3) := by
  have h0 : a0.toNat < 8 := a0.isLt
  have h1 : a1.toNat < 128 := a1.isLt
  have h2 : a2.toNat < 64 := a2.isLt
  have h3 : a3.toNat < 16 := a3.isLt
  refine of_word 161 (a0.toNat * 2097152 + (a1.toNat * 1024 + (a2.toNat * 16 + (a3.toNat * 1 + 0)))) rfl (by rw [low_cons 21 _ 2097152 rfl, low_cons 10 _ 1024 rfl, low_cons 4 _ 16 rfl, low_cons 0 _ 1 rfl]; rfl) (by decide) (by omega) fun w hw ho => ?_
  have f0 : fld w 21 3 = a0 := fld_at 2097152 8 (161) (a1.toNat * 1024 + a2.toNat * 16 + a3.toNat * 1) rfl rfl (by rw [hw]; ring) (by omega)
  have f1 : fld w 10 7 = a1 := fld_at 1024 128 (20608 + a0.toNat * 16) (a2.toNat * 16 + a3.toNat * 1) rfl rfl (by rw [hw]; ring) (by omega)
  have f2 : fld w 4 6 = a2 := fld_at 16 64 (2637824 + a0.toNat * 2048 + a1.toNat * 1) (a3.toNat * 1) rfl rfl (by rw [hw]; ring) (by omega)
  have f3 : fld w 0 4 = a3 := fld_at 1 16 (168820736 + a0.toNat * 131072 + a1.toNat * 64 + a2.toNat * 1) (0) rfl rfl (by rw [hw]; ring) (by omega)
  have r0 : rsv w 17 4 = true := rsv_at 131072 16 (1288 + a0.toNat * 1) (a1.toNat * 1024 + a2.toNat * 16 + a3.toNat * 1) rfl rfl (by rw [hw]; ring) (by omega)
  rw [decodeNat, ho]
  exact guard_eq r0 (by rw [f0, f1, f2, f3])
theorem ldg (a0 a1 a2 a3 a4) : Statement (.ldg a0 a1 a2 a3 a4) := by
  have h0 : a0.toNat < 8 := a0.isLt
  have h1 : a1.toNat < 16 := a1.isLt
  have h2 : a2.toNat < 128 := a2.isLt
  have h3 : a3.toNat < 64 := a3.isLt
  have h4 : a4.toNat < 16 := a4.isLt
  refine of_word 162 (a0.toNat * 2097152 + (a1.toNat * 131072 + (a2.toNat * 1024 + (a3.toNat * 16 + (a4.toNat * 1 + 0))))) rfl (by rw [low_cons 21 _ 2097152 rfl, low_cons 17 _ 131072 rfl, low_cons 10 _ 1024 rfl, low_cons 4 _ 16 rfl, low_cons 0 _ 1 rfl]; rfl) (by decide) (by omega) fun w hw ho => ?_
  have f0 : fld w 21 3 = a0 := fld_at 2097152 8 (162) (a1.toNat * 131072 + a2.toNat * 1024 + a3.toNat * 16 + a4.toNat * 1) rfl rfl (by rw [hw]; ring) (by omega)
  have f1 : fld w 17 4 = a1 := fld_at 131072 16 (1296 + a0.toNat * 1) (a2.toNat * 1024 + a3.toNat * 16 + a4.toNat * 1) rfl rfl (by rw [hw]; ring) (by omega)
  have f2 : fld w 10 7 = a2 := fld_at 1024 128 (20736 + a0.toNat * 16 + a1.toNat * 1) (a3.toNat * 16 + a4.toNat * 1) rfl rfl (by rw [hw]; ring) (by omega)
  have f3 : fld w 4 6 = a3 := fld_at 16 64 (2654208 + a0.toNat * 2048 + a1.toNat * 128 + a2.toNat * 1) (a4.toNat * 1) rfl rfl (by rw [hw]; ring) (by omega)
  have f4 : fld w 0 4 = a4 := fld_at 1 16 (169869312 + a0.toNat * 131072 + a1.toNat * 8192 + a2.toNat * 64 + a3.toNat * 1) (0) rfl rfl (by rw [hw]; ring) (by omega)
  rw [decodeNat, ho]
  exact congrArg Except.ok (by rw [f0, f1, f2, f3, f4])
theorem stg (a0 a1 a2 a3) : Statement (.stg a0 a1 a2 a3) := by
  have h0 : a0.toNat < 8 := a0.isLt
  have h1 : a1.toNat < 128 := a1.isLt
  have h2 : a2.toNat < 64 := a2.isLt
  have h3 : a3.toNat < 16 := a3.isLt
  refine of_word 163 (a0.toNat * 2097152 + (a1.toNat * 1024 + (a2.toNat * 16 + (a3.toNat * 1 + 0)))) rfl (by rw [low_cons 21 _ 2097152 rfl, low_cons 10 _ 1024 rfl, low_cons 4 _ 16 rfl, low_cons 0 _ 1 rfl]; rfl) (by decide) (by omega) fun w hw ho => ?_
  have f0 : fld w 21 3 = a0 := fld_at 2097152 8 (163) (a1.toNat * 1024 + a2.toNat * 16 + a3.toNat * 1) rfl rfl (by rw [hw]; ring) (by omega)
  have f1 : fld w 10 7 = a1 := fld_at 1024 128 (20864 + a0.toNat * 16) (a2.toNat * 16 + a3.toNat * 1) rfl rfl (by rw [hw]; ring) (by omega)
  have f2 : fld w 4 6 = a2 := fld_at 16 64 (2670592 + a0.toNat * 2048 + a1.toNat * 1) (a3.toNat * 1) rfl rfl (by rw [hw]; ring) (by omega)
  have f3 : fld w 0 4 = a3 := fld_at 1 16 (170917888 + a0.toNat * 131072 + a1.toNat * 64 + a2.toNat * 1) (0) rfl rfl (by rw [hw]; ring) (by omega)
  have r0 : rsv w 17 4 = true := rsv_at 131072 16 (1304 + a0.toNat * 1) (a1.toNat * 1024 + a2.toNat * 16 + a3.toNat * 1) rfl rfl (by rw [hw]; ring) (by omega)
  rw [decodeNat, ho]
  exact guard_eq r0 (by rw [f0, f1, f2, f3])
theorem pst (a0 a1 a2 a3) : Statement (.pst a0 a1 a2 a3) := by
  have h0 : a0.toNat < 8 := a0.isLt
  have h1 : a1.toNat < 128 := a1.isLt
  have h2 : a2.toNat < 64 := a2.isLt
  have h3 : a3.toNat < 16 := a3.isLt
  refine of_word 164 (a0.toNat * 2097152 + (a1.toNat * 1024 + (a2.toNat * 16 + (a3.toNat * 1 + 0)))) rfl (by rw [low_cons 21 _ 2097152 rfl, low_cons 10 _ 1024 rfl, low_cons 4 _ 16 rfl, low_cons 0 _ 1 rfl]; rfl) (by decide) (by omega) fun w hw ho => ?_
  have f0 : fld w 21 3 = a0 := fld_at 2097152 8 (164) (a1.toNat * 1024 + a2.toNat * 16 + a3.toNat * 1) rfl rfl (by rw [hw]; ring) (by omega)
  have f1 : fld w 10 7 = a1 := fld_at 1024 128 (20992 + a0.toNat * 16) (a2.toNat * 16 + a3.toNat * 1) rfl rfl (by rw [hw]; ring) (by omega)
  have f2 : fld w 4 6 = a2 := fld_at 16 64 (2686976 + a0.toNat * 2048 + a1.toNat * 1) (a3.toNat * 1) rfl rfl (by rw [hw]; ring) (by omega)
  have f3 : fld w 0 4 = a3 := fld_at 1 16 (171966464 + a0.toNat * 131072 + a1.toNat * 64 + a2.toNat * 1) (0) rfl rfl (by rw [hw]; ring) (by omega)
  have r0 : rsv w 17 4 = true := rsv_at 131072 16 (1312 + a0.toNat * 1) (a1.toNat * 1024 + a2.toNat * 16 + a3.toNat * 1) rfl rfl (by rw [hw]; ring) (by omega)
  rw [decodeNat, ho]
  exact guard_eq r0 (by rw [f0, f1, f2, f3])
theorem ldx (a0 a1 a2 a3) : Statement (.ldx a0 a1 a2 a3) := by
  have h0 : a0.toNat < 8 := a0.isLt
  have h1 : a1.toNat < 16 := a1.isLt
  have h2 : a2.toNat < 128 := a2.isLt
  have h3 : a3.toNat < 64 := a3.isLt
  refine of_word 165 (a0.toNat * 2097152 + (a1.toNat * 131072 + (a2.toNat * 1024 + (a3.toNat * 16 + 0)))) rfl (by rw [low_cons 21 _ 2097152 rfl, low_cons 17 _ 131072 rfl, low_cons 10 _ 1024 rfl, low_cons 4 _ 16 rfl]; rfl) (by decide) (by omega) fun w hw ho => ?_
  have f0 : fld w 21 3 = a0 := fld_at 2097152 8 (165) (a1.toNat * 131072 + a2.toNat * 1024 + a3.toNat * 16) rfl rfl (by rw [hw]; ring) (by omega)
  have f1 : fld w 17 4 = a1 := fld_at 131072 16 (1320 + a0.toNat * 1) (a2.toNat * 1024 + a3.toNat * 16) rfl rfl (by rw [hw]; ring) (by omega)
  have f2 : fld w 10 7 = a2 := fld_at 1024 128 (21120 + a0.toNat * 16 + a1.toNat * 1) (a3.toNat * 16) rfl rfl (by rw [hw]; ring) (by omega)
  have f3 : fld w 4 6 = a3 := fld_at 16 64 (2703360 + a0.toNat * 2048 + a1.toNat * 128 + a2.toNat * 1) (0) rfl rfl (by rw [hw]; ring) (by omega)
  have r0 : rsv w 0 4 = true := rsv_at 1 16 (173015040 + a0.toNat * 131072 + a1.toNat * 8192 + a2.toNat * 64 + a3.toNat * 1) (0) rfl rfl (by rw [hw]; ring) (by omega)
  rw [decodeNat, ho]
  exact guard_eq r0 (by rw [f0, f1, f2, f3])
theorem stx (a0 a1 a2) : Statement (.stx a0 a1 a2) := by
  have h0 : a0.toNat < 8 := a0.isLt
  have h1 : a1.toNat < 128 := a1.isLt
  have h2 : a2.toNat < 64 := a2.isLt
  refine of_word 166 (a0.toNat * 2097152 + (a1.toNat * 1024 + (a2.toNat * 16 + 0))) rfl (by rw [low_cons 21 _ 2097152 rfl, low_cons 10 _ 1024 rfl, low_cons 4 _ 16 rfl]; rfl) (by decide) (by omega) fun w hw ho => ?_
  have f0 : fld w 21 3 = a0 := fld_at 2097152 8 (166) (a1.toNat * 1024 + a2.toNat * 16) rfl rfl (by rw [hw]; ring) (by omega)
  have f1 : fld w 10 7 = a1 := fld_at 1024 128 (21248 + a0.toNat * 16) (a2.toNat * 16) rfl rfl (by rw [hw]; ring) (by omega)
  have f2 : fld w 4 6 = a2 := fld_at 16 64 (2719744 + a0.toNat * 2048 + a1.toNat * 1) (0) rfl rfl (by rw [hw]; ring) (by omega)
  have r0 : rsv w 0 4 = true := rsv_at 1 16 (174063616 + a0.toNat * 131072 + a1.toNat * 64 + a2.toNat * 1) (0) rfl rfl (by rw [hw]; ring) (by omega)
  have r1 : rsv w 17 4 = true := rsv_at 131072 16 (1328 + a0.toNat * 1) (a1.toNat * 1024 + a2.toNat * 16) rfl rfl (by rw [hw]; ring) (by omega)
  rw [decodeNat, ho]
  exact guard_eq (by rw [r0, r1]; rfl) (by rw [f0, f1, f2])
theorem ldmx (a0 a1 a2 a3 a4) : Statement (.ldmx a0 a1 a2 a3 a4) := by
  have h0 : a0.toNat < 8 := a0.isLt
  have h1 : a1.toNat < 16 := a1.isLt
  have h2 : a2.toNat < 128 := a2.isLt
  have h3 : a3.toNat < 64 := a3.isLt
  have h4 : a4.toNat < 16 := a4.isLt
  refine of_word 167 (a0.toNat * 2097152 + (a1.toNat * 131072 + (a2.toNat * 1024 + (a3.toNat * 16 + (a4.toNat * 1 + 0))))) rfl (by rw [low_cons 21 _ 2097152 rfl, low_cons 17 _ 131072 rfl, low_cons 10 _ 1024 rfl, low_cons 4 _ 16 rfl, low_cons 0 _ 1 rfl]; rfl) (by decide) (by omega) fun w hw ho => ?_
  have f0 : fld w 21 3 = a0 := fld_at 2097152 8 (167) (a1.toNat * 131072 + a2.toNat * 1024 + a3.toNat * 16 + a4.toNat * 1) rfl rfl (by rw [hw]; ring) (by omega)
  have f1 : fld w 17 4 = a1 := fld_at 131072 16 (1336 + a0.toNat * 1) (a2.toNat * 1024 + a3.toNat * 16 + a4.toNat * 1) rfl rfl (by rw [hw]; ring) (by omega)
  have f2 : fld w 10 7 = a2 := fld_at 1024 128 (21376 + a0.toNat * 16 + a1.toNat * 1) (a3.toNat * 16 + a4.toNat * 1) rfl rfl (by rw [hw]; ring) (by omega)
  have f3 : fld w 4 6 = a3 := fld_at 16 64 (2736128 + a0.toNat * 2048 + a1.toNat * 128 + a2.toNat * 1) (a4.toNat * 1) rfl rfl (by rw [hw]; ring) (by omega)
  have f4 : fld w 0 4 = a4 := fld_at 1 16 (175112192 + a0.toNat * 131072 + a1.toNat * 8192 + a2.toNat * 64 + a3.toNat * 1) (0) rfl rfl (by rw [hw]; ring) (by omega)
  rw [decodeNat, ho]
  exact congrArg Except.ok (by rw [f0, f1, f2, f3, f4])
theorem stmx (a0 a1 a2 a3) : Statement (.stmx a0 a1 a2 a3) := by
  have h0 : a0.toNat < 8 := a0.isLt
  have h1 : a1.toNat < 128 := a1.isLt
  have h2 : a2.toNat < 64 := a2.isLt
  have h3 : a3.toNat < 16 := a3.isLt
  refine of_word 168 (a0.toNat * 2097152 + (a1.toNat * 1024 + (a2.toNat * 16 + (a3.toNat * 1 + 0)))) rfl (by rw [low_cons 21 _ 2097152 rfl, low_cons 10 _ 1024 rfl, low_cons 4 _ 16 rfl, low_cons 0 _ 1 rfl]; rfl) (by decide) (by omega) fun w hw ho => ?_
  have f0 : fld w 21 3 = a0 := fld_at 2097152 8 (168) (a1.toNat * 1024 + a2.toNat * 16 + a3.toNat * 1) rfl rfl (by rw [hw]; ring) (by omega)
  have f1 : fld w 10 7 = a1 := fld_at 1024 128 (21504 + a0.toNat * 16) (a2.toNat * 16 + a3.toNat * 1) rfl rfl (by rw [hw]; ring) (by omega)
  have f2 : fld w 4 6 = a2 := fld_at 16 64 (2752512 + a0.toNat * 2048 + a1.toNat * 1) (a3.toNat * 1) rfl rfl (by rw [hw]; ring) (by omega)
  have f3 : fld w 0 4 = a3 := fld_at 1 16 (176160768 + a0.toNat * 131072 + a1.toNat * 64 + a2.toNat * 1) (0) rfl rfl (by rw [hw]; ring) (by omega)
  have r0 : rsv w 17 4 = true := rsv_at 131072 16 (1344 + a0.toNat * 1) (a1.toNat * 1024 + a2.toNat * 16 + a3.toNat * 1) rfl rfl (by rw [hw]; ring) (by omega)
  rw [decodeNat, ho]
  exact guard_eq r0 (by rw [f0, f1, f2, f3])
theorem lds (a0 a1 a2 a3 a4) : Statement (.lds a0 a1 a2 a3 a4) := by
  have h0 : a0.toNat < 8 := a0.isLt
  have h1 : a1.toNat < 16 := a1.isLt
  have h2 : a2.toNat < 128 := a2.isLt
  have h3 : a3.toNat < 64 := a3.isLt
  have h4 : a4.toNat < 16 := a4.isLt
  refine of_word 169 (a0.toNat * 2097152 + (a1.toNat * 131072 + (a2.toNat * 1024 + (a3.toNat * 16 + (a4.toNat * 1 + 0))))) rfl (by rw [low_cons 21 _ 2097152 rfl, low_cons 17 _ 131072 rfl, low_cons 10 _ 1024 rfl, low_cons 4 _ 16 rfl, low_cons 0 _ 1 rfl]; rfl) (by decide) (by omega) fun w hw ho => ?_
  have f0 : fld w 21 3 = a0 := fld_at 2097152 8 (169) (a1.toNat * 131072 + a2.toNat * 1024 + a3.toNat * 16 + a4.toNat * 1) rfl rfl (by rw [hw]; ring) (by omega)
  have f1 : fld w 17 4 = a1 := fld_at 131072 16 (1352 + a0.toNat * 1) (a2.toNat * 1024 + a3.toNat * 16 + a4.toNat * 1) rfl rfl (by rw [hw]; ring) (by omega)
  have f2 : fld w 10 7 = a2 := fld_at 1024 128 (21632 + a0.toNat * 16 + a1.toNat * 1) (a3.toNat * 16 + a4.toNat * 1) rfl rfl (by rw [hw]; ring) (by omega)
  have f3 : fld w 4 6 = a3 := fld_at 16 64 (2768896 + a0.toNat * 2048 + a1.toNat * 128 + a2.toNat * 1) (a4.toNat * 1) rfl rfl (by rw [hw]; ring) (by omega)
  have f4 : fld w 0 4 = a4 := fld_at 1 16 (177209344 + a0.toNat * 131072 + a1.toNat * 8192 + a2.toNat * 64 + a3.toNat * 1) (0) rfl rfl (by rw [hw]; ring) (by omega)
  rw [decodeNat, ho]
  exact congrArg Except.ok (by rw [f0, f1, f2, f3, f4])
theorem sts (a0 a1 a2 a3) : Statement (.sts a0 a1 a2 a3) := by
  have h0 : a0.toNat < 8 := a0.isLt
  have h1 : a1.toNat < 128 := a1.isLt
  have h2 : a2.toNat < 64 := a2.isLt
  have h3 : a3.toNat < 16 := a3.isLt
  refine of_word 170 (a0.toNat * 2097152 + (a1.toNat * 1024 + (a2.toNat * 16 + (a3.toNat * 1 + 0)))) rfl (by rw [low_cons 21 _ 2097152 rfl, low_cons 10 _ 1024 rfl, low_cons 4 _ 16 rfl, low_cons 0 _ 1 rfl]; rfl) (by decide) (by omega) fun w hw ho => ?_
  have f0 : fld w 21 3 = a0 := fld_at 2097152 8 (170) (a1.toNat * 1024 + a2.toNat * 16 + a3.toNat * 1) rfl rfl (by rw [hw]; ring) (by omega)
  have f1 : fld w 10 7 = a1 := fld_at 1024 128 (21760 + a0.toNat * 16) (a2.toNat * 16 + a3.toNat * 1) rfl rfl (by rw [hw]; ring) (by omega)
  have f2 : fld w 4 6 = a2 := fld_at 16 64 (2785280 + a0.toNat * 2048 + a1.toNat * 1) (a3.toNat * 1) rfl rfl (by rw [hw]; ring) (by omega)
  have f3 : fld w 0 4 = a3 := fld_at 1 16 (178257920 + a0.toNat * 131072 + a1.toNat * 64 + a2.toNat * 1) (0) rfl rfl (by rw [hw]; ring) (by omega)
  have r0 : rsv w 17 4 = true := rsv_at 131072 16 (1360 + a0.toNat * 1) (a1.toNat * 1024 + a2.toNat * 16 + a3.toNat * 1) rfl rfl (by rw [hw]; ring) (by omega)
  rw [decodeNat, ho]
  exact guard_eq r0 (by rw [f0, f1, f2, f3])
theorem ldacq (a0 a1 a2 a3 a4) : Statement (.ldacq a0 a1 a2 a3 a4) := by
  have h0 : a0.toNat < 8 := a0.isLt
  have h1 : a1.toNat < 16 := a1.isLt
  have h2 : a2.toNat < 128 := a2.isLt
  have h3 : a3.toNat < 64 := a3.isLt
  have h4 : a4.toNat < 8 := a4.isLt
  refine of_word 171 (a0.toNat * 2097152 + (a1.toNat * 131072 + (a2.toNat * 1024 + (a3.toNat * 16 + (a4.toNat * 1 + 0))))) rfl (by rw [low_cons 21 _ 2097152 rfl, low_cons 17 _ 131072 rfl, low_cons 10 _ 1024 rfl, low_cons 4 _ 16 rfl, low_cons 0 _ 1 rfl]; rfl) (by decide) (by omega) fun w hw ho => ?_
  have f0 : fld w 21 3 = a0 := fld_at 2097152 8 (171) (a1.toNat * 131072 + a2.toNat * 1024 + a3.toNat * 16 + a4.toNat * 1) rfl rfl (by rw [hw]; ring) (by omega)
  have f1 : fld w 17 4 = a1 := fld_at 131072 16 (1368 + a0.toNat * 1) (a2.toNat * 1024 + a3.toNat * 16 + a4.toNat * 1) rfl rfl (by rw [hw]; ring) (by omega)
  have f2 : fld w 10 7 = a2 := fld_at 1024 128 (21888 + a0.toNat * 16 + a1.toNat * 1) (a3.toNat * 16 + a4.toNat * 1) rfl rfl (by rw [hw]; ring) (by omega)
  have f3 : fld w 4 6 = a3 := fld_at 16 64 (2801664 + a0.toNat * 2048 + a1.toNat * 128 + a2.toNat * 1) (a4.toNat * 1) rfl rfl (by rw [hw]; ring) (by omega)
  have f4 : fld w 0 3 = a4 := fld_at 1 8 (358612992 + a0.toNat * 262144 + a1.toNat * 16384 + a2.toNat * 128 + a3.toNat * 2) (0) rfl rfl (by rw [hw]; ring) (by omega)
  have r0 : rsv w 3 1 = true := rsv_at 8 2 (179306496 + a0.toNat * 131072 + a1.toNat * 8192 + a2.toNat * 64 + a3.toNat * 1) (a4.toNat * 1) rfl rfl (by rw [hw]; ring) (by omega)
  rw [decodeNat, ho]
  exact guard_eq r0 (by rw [f0, f1, f2, f3, f4])
theorem strel (a0 a1 a2 a3) : Statement (.strel a0 a1 a2 a3) := by
  have h0 : a0.toNat < 8 := a0.isLt
  have h1 : a1.toNat < 128 := a1.isLt
  have h2 : a2.toNat < 64 := a2.isLt
  have h3 : a3.toNat < 8 := a3.isLt
  refine of_word 172 (a0.toNat * 2097152 + (a1.toNat * 1024 + (a2.toNat * 16 + (a3.toNat * 1 + 0)))) rfl (by rw [low_cons 21 _ 2097152 rfl, low_cons 10 _ 1024 rfl, low_cons 4 _ 16 rfl, low_cons 0 _ 1 rfl]; rfl) (by decide) (by omega) fun w hw ho => ?_
  have f0 : fld w 21 3 = a0 := fld_at 2097152 8 (172) (a1.toNat * 1024 + a2.toNat * 16 + a3.toNat * 1) rfl rfl (by rw [hw]; ring) (by omega)
  have f1 : fld w 10 7 = a1 := fld_at 1024 128 (22016 + a0.toNat * 16) (a2.toNat * 16 + a3.toNat * 1) rfl rfl (by rw [hw]; ring) (by omega)
  have f2 : fld w 4 6 = a2 := fld_at 16 64 (2818048 + a0.toNat * 2048 + a1.toNat * 1) (a3.toNat * 1) rfl rfl (by rw [hw]; ring) (by omega)
  have f3 : fld w 0 3 = a3 := fld_at 1 8 (360710144 + a0.toNat * 262144 + a1.toNat * 128 + a2.toNat * 2) (0) rfl rfl (by rw [hw]; ring) (by omega)
  have r0 : rsv w 3 1 = true := rsv_at 8 2 (180355072 + a0.toNat * 131072 + a1.toNat * 64 + a2.toNat * 1) (a3.toNat * 1) rfl rfl (by rw [hw]; ring) (by omega)
  have r1 : rsv w 17 4 = true := rsv_at 131072 16 (1376 + a0.toNat * 1) (a1.toNat * 1024 + a2.toNat * 16 + a3.toNat * 1) rfl rfl (by rw [hw]; ring) (by omega)
  rw [decodeNat, ho]
  exact guard_eq (by rw [r0, r1]; rfl) (by rw [f0, f1, f2, f3])
theorem atom (a0 a1 a2 a3 a4 a5 a6) : Statement (.atom a0 a1 a2 a3 a4 a5 a6) := by
  have h0 : a0.toNat < 8 := a0.isLt
  have h1 : a1.toNat < 16 := a1.isLt
  have h2 : a2.toNat < 128 := a2.isLt
  have h3 : a3.toNat < 2 := a3.isLt
  have h4 : a4.toNat < 8 := a4.isLt
  have h5 : a5.toNat < 4 := a5.isLt
  have h6 : a6.toNat < 16 := a6.isLt
  refine of_word 173 (a0.toNat * 2097152 + (a1.toNat * 131072 + (a2.toNat * 1024 + (a3.toNat * 512 + (a4.toNat * 64 + (a5.toNat * 16 + (a6.toNat * 1 + 0))))))) rfl (by rw [low_cons 21 _ 2097152 rfl, low_cons 17 _ 131072 rfl, low_cons 10 _ 1024 rfl, low_cons 9 _ 512 rfl, low_cons 6 _ 64 rfl, low_cons 4 _ 16 rfl, low_cons 0 _ 1 rfl]; rfl) (by decide) (by omega) fun w hw ho => ?_
  have f0 : fld w 21 3 = a0 := fld_at 2097152 8 (173) (a1.toNat * 131072 + a2.toNat * 1024 + a3.toNat * 512 + a4.toNat * 64 + a5.toNat * 16 + a6.toNat * 1) rfl rfl (by rw [hw]; ring) (by omega)
  have f1 : fld w 17 4 = a1 := fld_at 131072 16 (1384 + a0.toNat * 1) (a2.toNat * 1024 + a3.toNat * 512 + a4.toNat * 64 + a5.toNat * 16 + a6.toNat * 1) rfl rfl (by rw [hw]; ring) (by omega)
  have f2 : fld w 10 7 = a2 := fld_at 1024 128 (22144 + a0.toNat * 16 + a1.toNat * 1) (a3.toNat * 512 + a4.toNat * 64 + a5.toNat * 16 + a6.toNat * 1) rfl rfl (by rw [hw]; ring) (by omega)
  have f3 : fld w 9 1 = a3 := fld_at 512 2 (2834432 + a0.toNat * 2048 + a1.toNat * 128 + a2.toNat * 1) (a4.toNat * 64 + a5.toNat * 16 + a6.toNat * 1) rfl rfl (by rw [hw]; ring) (by omega)
  have f4 : fld w 6 3 = a4 := fld_at 64 8 (5668864 + a0.toNat * 4096 + a1.toNat * 256 + a2.toNat * 2 + a3.toNat * 1) (a5.toNat * 16 + a6.toNat * 1) rfl rfl (by rw [hw]; ring) (by omega)
  have f5 : fld w 4 2 = a5 := fld_at 16 4 (45350912 + a0.toNat * 32768 + a1.toNat * 2048 + a2.toNat * 16 + a3.toNat * 8 + a4.toNat * 1) (a6.toNat * 1) rfl rfl (by rw [hw]; ring) (by omega)
  have f6 : fld w 0 4 = a6 := fld_at 1 16 (181403648 + a0.toNat * 131072 + a1.toNat * 8192 + a2.toNat * 64 + a3.toNat * 32 + a4.toNat * 4 + a5.toNat * 1) (0) rfl rfl (by rw [hw]; ring) (by omega)
  rw [decodeNat, ho]
  exact congrArg Except.ok (by rw [f0, f1, f2, f3, f4, f5, f6])
theorem fatom (a0 a1 a2 a3 a4 a5 a6) : Statement (.fatom a0 a1 a2 a3 a4 a5 a6) := by
  have h0 : a0.toNat < 8 := a0.isLt
  have h1 : a1.toNat < 16 := a1.isLt
  have h2 : a2.toNat < 128 := a2.isLt
  have h3 : a3.toNat < 2 := a3.isLt
  have h4 : a4.toNat < 8 := a4.isLt
  have h5 : a5.toNat < 4 := a5.isLt
  have h6 : a6.toNat < 16 := a6.isLt
  refine of_word 174 (a0.toNat * 2097152 + (a1.toNat * 131072 + (a2.toNat * 1024 + (a3.toNat * 512 + (a4.toNat * 64 + (a5.toNat * 16 + (a6.toNat * 1 + 0))))))) rfl (by rw [low_cons 21 _ 2097152 rfl, low_cons 17 _ 131072 rfl, low_cons 10 _ 1024 rfl, low_cons 9 _ 512 rfl, low_cons 6 _ 64 rfl, low_cons 4 _ 16 rfl, low_cons 0 _ 1 rfl]; rfl) (by decide) (by omega) fun w hw ho => ?_
  have f0 : fld w 21 3 = a0 := fld_at 2097152 8 (174) (a1.toNat * 131072 + a2.toNat * 1024 + a3.toNat * 512 + a4.toNat * 64 + a5.toNat * 16 + a6.toNat * 1) rfl rfl (by rw [hw]; ring) (by omega)
  have f1 : fld w 17 4 = a1 := fld_at 131072 16 (1392 + a0.toNat * 1) (a2.toNat * 1024 + a3.toNat * 512 + a4.toNat * 64 + a5.toNat * 16 + a6.toNat * 1) rfl rfl (by rw [hw]; ring) (by omega)
  have f2 : fld w 10 7 = a2 := fld_at 1024 128 (22272 + a0.toNat * 16 + a1.toNat * 1) (a3.toNat * 512 + a4.toNat * 64 + a5.toNat * 16 + a6.toNat * 1) rfl rfl (by rw [hw]; ring) (by omega)
  have f3 : fld w 9 1 = a3 := fld_at 512 2 (2850816 + a0.toNat * 2048 + a1.toNat * 128 + a2.toNat * 1) (a4.toNat * 64 + a5.toNat * 16 + a6.toNat * 1) rfl rfl (by rw [hw]; ring) (by omega)
  have f4 : fld w 6 3 = a4 := fld_at 64 8 (5701632 + a0.toNat * 4096 + a1.toNat * 256 + a2.toNat * 2 + a3.toNat * 1) (a5.toNat * 16 + a6.toNat * 1) rfl rfl (by rw [hw]; ring) (by omega)
  have f5 : fld w 4 2 = a5 := fld_at 16 4 (45613056 + a0.toNat * 32768 + a1.toNat * 2048 + a2.toNat * 16 + a3.toNat * 8 + a4.toNat * 1) (a6.toNat * 1) rfl rfl (by rw [hw]; ring) (by omega)
  have f6 : fld w 0 4 = a6 := fld_at 1 16 (182452224 + a0.toNat * 131072 + a1.toNat * 8192 + a2.toNat * 64 + a3.toNat * 32 + a4.toNat * 4 + a5.toNat * 1) (0) rfl rfl (by rw [hw]; ring) (by omega)
  rw [decodeNat, ho]
  exact congrArg Except.ok (by rw [f0, f1, f2, f3, f4, f5, f6])
theorem atoms (a0 a1 a2 a3 a4 a5 a6) : Statement (.atoms a0 a1 a2 a3 a4 a5 a6) := by
  have h0 : a0.toNat < 8 := a0.isLt
  have h1 : a1.toNat < 16 := a1.isLt
  have h2 : a2.toNat < 128 := a2.isLt
  have h3 : a3.toNat < 2 := a3.isLt
  have h4 : a4.toNat < 8 := a4.isLt
  have h5 : a5.toNat < 4 := a5.isLt
  have h6 : a6.toNat < 16 := a6.isLt
  refine of_word 175 (a0.toNat * 2097152 + (a1.toNat * 131072 + (a2.toNat * 1024 + (a3.toNat * 512 + (a4.toNat * 64 + (a5.toNat * 16 + (a6.toNat * 1 + 0))))))) rfl (by rw [low_cons 21 _ 2097152 rfl, low_cons 17 _ 131072 rfl, low_cons 10 _ 1024 rfl, low_cons 9 _ 512 rfl, low_cons 6 _ 64 rfl, low_cons 4 _ 16 rfl, low_cons 0 _ 1 rfl]; rfl) (by decide) (by omega) fun w hw ho => ?_
  have f0 : fld w 21 3 = a0 := fld_at 2097152 8 (175) (a1.toNat * 131072 + a2.toNat * 1024 + a3.toNat * 512 + a4.toNat * 64 + a5.toNat * 16 + a6.toNat * 1) rfl rfl (by rw [hw]; ring) (by omega)
  have f1 : fld w 17 4 = a1 := fld_at 131072 16 (1400 + a0.toNat * 1) (a2.toNat * 1024 + a3.toNat * 512 + a4.toNat * 64 + a5.toNat * 16 + a6.toNat * 1) rfl rfl (by rw [hw]; ring) (by omega)
  have f2 : fld w 10 7 = a2 := fld_at 1024 128 (22400 + a0.toNat * 16 + a1.toNat * 1) (a3.toNat * 512 + a4.toNat * 64 + a5.toNat * 16 + a6.toNat * 1) rfl rfl (by rw [hw]; ring) (by omega)
  have f3 : fld w 9 1 = a3 := fld_at 512 2 (2867200 + a0.toNat * 2048 + a1.toNat * 128 + a2.toNat * 1) (a4.toNat * 64 + a5.toNat * 16 + a6.toNat * 1) rfl rfl (by rw [hw]; ring) (by omega)
  have f4 : fld w 6 3 = a4 := fld_at 64 8 (5734400 + a0.toNat * 4096 + a1.toNat * 256 + a2.toNat * 2 + a3.toNat * 1) (a5.toNat * 16 + a6.toNat * 1) rfl rfl (by rw [hw]; ring) (by omega)
  have f5 : fld w 4 2 = a5 := fld_at 16 4 (45875200 + a0.toNat * 32768 + a1.toNat * 2048 + a2.toNat * 16 + a3.toNat * 8 + a4.toNat * 1) (a6.toNat * 1) rfl rfl (by rw [hw]; ring) (by omega)
  have f6 : fld w 0 4 = a6 := fld_at 1 16 (183500800 + a0.toNat * 131072 + a1.toNat * 8192 + a2.toNat * 64 + a3.toNat * 32 + a4.toNat * 4 + a5.toNat * 1) (0) rfl rfl (by rw [hw]; ring) (by omega)
  rw [decodeNat, ho]
  exact congrArg Except.ok (by rw [f0, f1, f2, f3, f4, f5, f6])
theorem fence (a0) : Statement (.fence a0) := by
  have h0 : a0.toNat < 8 := a0.isLt
  refine of_word 176 (a0.toNat * 1 + 0) rfl (by rw [low_cons 0 _ 1 rfl]; rfl) (by decide) (by omega) fun w hw ho => ?_
  have f0 : fld w 0 3 = a0 := fld_at 1 8 (369098752) (0) rfl rfl (by rw [hw]; ring) (by omega)
  have r0 : rsv w 3 21 = true := rsv_at 8 2097152 (176) (a0.toNat * 1) rfl rfl (by rw [hw]; ring) (by omega)
  rw [decodeNat, ho]
  exact guard_eq r0 (by rw [f0])
theorem cpy (a0 a1) : Statement (.cpy a0 a1) := by
  have h0 : a0.toNat < 64 := a0.isLt
  have h1 : a1.toNat < 4 := a1.isLt
  refine of_word 177 (a0.toNat * 4096 + (a1.toNat * 1 + 0)) rfl (by rw [low_cons 12 _ 4096 rfl, low_cons 0 _ 1 rfl]; rfl) (by decide) (by omega) fun w hw ho => ?_
  have f0 : fld w 12 6 = a0 := fld_at 4096 64 (11328) (a1.toNat * 1) rfl rfl (by rw [hw]; ring) (by omega)
  have f1 : fld w 0 2 = a1 := fld_at 1 4 (742391808 + a0.toNat * 1024) (0) rfl rfl (by rw [hw]; ring) (by omega)
  have r0 : rsv w 2 10 = true := rsv_at 4 1024 (724992 + a0.toNat * 1) (a1.toNat * 1) rfl rfl (by rw [hw]; ring) (by omega)
  have r1 : rsv w 18 6 = true := rsv_at 262144 64 (177) (a0.toNat * 4096 + a1.toNat * 1) rfl rfl (by rw [hw]; ring) (by omega)
  rw [decodeNat, ho]
  exact guard_eq (by rw [r0, r1]; rfl) (by rw [f0, f1])
theorem bcommit (a0) : Statement (.bcommit a0) := by
  have h0 : a0.toNat < 64 := a0.isLt
  refine of_word 178 (a0.toNat * 262144 + 0) rfl (by rw [low_cons 18 _ 262144 rfl]; rfl) (by decide) (by omega) fun w hw ho => ?_
  have f0 : fld w 18 6 = a0 := fld_at 262144 64 (178) (0) rfl rfl (by rw [hw]; ring) (by omega)
  have r0 : rsv w 0 18 = true := rsv_at 1 262144 (11392 + a0.toNat * 1) (0) rfl rfl (by rw [hw]; ring) (by omega)
  rw [decodeNat, ho]
  exact guard_eq r0 (by rw [f0])
theorem bwait (a0) : Statement (.bwait a0) := by
  have h0 : a0.toNat < 64 := a0.isLt
  refine of_word 179 (a0.toNat * 4096 + 0) rfl (by rw [low_cons 12 _ 4096 rfl]; rfl) (by decide) (by omega) fun w hw ho => ?_
  have f0 : fld w 12 6 = a0 := fld_at 4096 64 (11456) (0) rfl rfl (by rw [hw]; ring) (by omega)
  have r0 : rsv w 0 12 = true := rsv_at 1 4096 (733184 + a0.toNat * 1) (0) rfl rfl (by rw [hw]; ring) (by omega)
  have r1 : rsv w 18 6 = true := rsv_at 262144 64 (179) (a0.toNat * 4096) rfl rfl (by rw [hw]; ring) (by omega)
  rw [decodeNat, ho]
  exact guard_eq (by rw [r0, r1]; rfl) (by rw [f0])
theorem pref (a0 a1 a2 a3) : Statement (.pref a0 a1 a2 a3) := by
  have h0 : a0.toNat < 64 := a0.isLt
  have h1 : a1.toNat < 64 := a1.isLt
  have h2 : a2.toNat < 64 := a2.isLt
  have h3 : a3.toNat < 2 := a3.isLt
  refine of_word 180 (a0.toNat * 262144 + (a1.toNat * 4096 + (a2.toNat * 64 + (a3.toNat * 1 + 0)))) rfl (by rw [low_cons 18 _ 262144 rfl, low_cons 12 _ 4096 rfl, low_cons 6 _ 64 rfl, low_cons 0 _ 1 rfl]; rfl) (by decide) (by omega) fun w hw ho => ?_
  have f0 : fld w 18 6 = a0 := fld_at 262144 64 (180) (a1.toNat * 4096 + a2.toNat * 64 + a3.toNat * 1) rfl rfl (by rw [hw]; ring) (by omega)
  have f1 : fld w 12 6 = a1 := fld_at 4096 64 (11520 + a0.toNat * 1) (a2.toNat * 64 + a3.toNat * 1) rfl rfl (by rw [hw]; ring) (by omega)
  have f2 : fld w 6 6 = a2 := fld_at 64 64 (737280 + a0.toNat * 64 + a1.toNat * 1) (a3.toNat * 1) rfl rfl (by rw [hw]; ring) (by omega)
  have f3 : fld w 0 1 = a3 := fld_at 1 2 (1509949440 + a0.toNat * 131072 + a1.toNat * 2048 + a2.toNat * 32) (0) rfl rfl (by rw [hw]; ring) (by omega)
  have r0 : rsv w 1 5 = true := rsv_at 2 32 (47185920 + a0.toNat * 4096 + a1.toNat * 64 + a2.toNat * 1) (a3.toNat * 1) rfl rfl (by rw [hw]; ring) (by omega)
  rw [decodeNat, ho]
  exact guard_eq r0 (by rw [f0, f1, f2, f3])
theorem cinv (a0 a1 a2 a3) : Statement (.cinv a0 a1 a2 a3) := by
  have h0 : a0.toNat < 64 := a0.isLt
  have h1 : a1.toNat < 64 := a1.isLt
  have h2 : a2.toNat < 64 := a2.isLt
  have h3 : a3.toNat < 8 := a3.isLt
  refine of_word 181 (a0.toNat * 262144 + (a1.toNat * 4096 + (a2.toNat * 64 + (a3.toNat * 1 + 0)))) rfl (by rw [low_cons 18 _ 262144 rfl, low_cons 12 _ 4096 rfl, low_cons 6 _ 64 rfl, low_cons 0 _ 1 rfl]; rfl) (by decide) (by omega) fun w hw ho => ?_
  have f0 : fld w 18 6 = a0 := fld_at 262144 64 (181) (a1.toNat * 4096 + a2.toNat * 64 + a3.toNat * 1) rfl rfl (by rw [hw]; ring) (by omega)
  have f1 : fld w 12 6 = a1 := fld_at 4096 64 (11584 + a0.toNat * 1) (a2.toNat * 64 + a3.toNat * 1) rfl rfl (by rw [hw]; ring) (by omega)
  have f2 : fld w 6 6 = a2 := fld_at 64 64 (741376 + a0.toNat * 64 + a1.toNat * 1) (a3.toNat * 1) rfl rfl (by rw [hw]; ring) (by omega)
  have f3 : fld w 0 3 = a3 := fld_at 1 8 (379584512 + a0.toNat * 32768 + a1.toNat * 512 + a2.toNat * 8) (0) rfl rfl (by rw [hw]; ring) (by omega)
  have r0 : rsv w 3 3 = true := rsv_at 8 8 (47448064 + a0.toNat * 4096 + a1.toNat * 64 + a2.toNat * 1) (a3.toNat * 1) rfl rfl (by rw [hw]; ring) (by omega)
  rw [decodeNat, ho]
  exact guard_eq r0 (by rw [f0, f1, f2, f3])
theorem cflush (a0 a1 a2 a3) : Statement (.cflush a0 a1 a2 a3) := by
  have h0 : a0.toNat < 64 := a0.isLt
  have h1 : a1.toNat < 64 := a1.isLt
  have h2 : a2.toNat < 64 := a2.isLt
  have h3 : a3.toNat < 8 := a3.isLt
  refine of_word 182 (a0.toNat * 262144 + (a1.toNat * 4096 + (a2.toNat * 64 + (a3.toNat * 1 + 0)))) rfl (by rw [low_cons 18 _ 262144 rfl, low_cons 12 _ 4096 rfl, low_cons 6 _ 64 rfl, low_cons 0 _ 1 rfl]; rfl) (by decide) (by omega) fun w hw ho => ?_
  have f0 : fld w 18 6 = a0 := fld_at 262144 64 (182) (a1.toNat * 4096 + a2.toNat * 64 + a3.toNat * 1) rfl rfl (by rw [hw]; ring) (by omega)
  have f1 : fld w 12 6 = a1 := fld_at 4096 64 (11648 + a0.toNat * 1) (a2.toNat * 64 + a3.toNat * 1) rfl rfl (by rw [hw]; ring) (by omega)
  have f2 : fld w 6 6 = a2 := fld_at 64 64 (745472 + a0.toNat * 64 + a1.toNat * 1) (a3.toNat * 1) rfl rfl (by rw [hw]; ring) (by omega)
  have f3 : fld w 0 3 = a3 := fld_at 1 8 (381681664 + a0.toNat * 32768 + a1.toNat * 512 + a2.toNat * 8) (0) rfl rfl (by rw [hw]; ring) (by omega)
  have r0 : rsv w 3 3 = true := rsv_at 8 8 (47710208 + a0.toNat * 4096 + a1.toNat * 64 + a2.toNat * 1) (a3.toNat * 1) rfl rfl (by rw [hw]; ring) (by omega)
  rw [decodeNat, ho]
  exact guard_eq r0 (by rw [f0, f1, f2, f3])
theorem icinv (a0 a1 a2) : Statement (.icinv a0 a1 a2) := by
  have h0 : a0.toNat < 64 := a0.isLt
  have h1 : a1.toNat < 64 := a1.isLt
  have h2 : a2.toNat < 8 := a2.isLt
  refine of_word 183 (a0.toNat * 4096 + (a1.toNat * 64 + (a2.toNat * 1 + 0))) rfl (by rw [low_cons 12 _ 4096 rfl, low_cons 6 _ 64 rfl, low_cons 0 _ 1 rfl]; rfl) (by decide) (by omega) fun w hw ho => ?_
  have f0 : fld w 12 6 = a0 := fld_at 4096 64 (11712) (a1.toNat * 64 + a2.toNat * 1) rfl rfl (by rw [hw]; ring) (by omega)
  have f1 : fld w 6 6 = a1 := fld_at 64 64 (749568 + a0.toNat * 1) (a2.toNat * 1) rfl rfl (by rw [hw]; ring) (by omega)
  have f2 : fld w 0 3 = a2 := fld_at 1 8 (383778816 + a0.toNat * 512 + a1.toNat * 8) (0) rfl rfl (by rw [hw]; ring) (by omega)
  have r0 : rsv w 3 3 = true := rsv_at 8 8 (47972352 + a0.toNat * 64 + a1.toNat * 1) (a2.toNat * 1) rfl rfl (by rw [hw]; ring) (by omega)
  have r1 : rsv w 18 6 = true := rsv_at 262144 64 (183) (a0.toNat * 4096 + a1.toNat * 64 + a2.toNat * 1) rfl rfl (by rw [hw]; ring) (by omega)
  rw [decodeNat, ho]
  exact guard_eq (by rw [r0, r1]; rfl) (by rw [f0, f1, f2])
theorem ipref (a0 a1 a2) : Statement (.ipref a0 a1 a2) := by
  have h0 : a0.toNat < 64 := a0.isLt
  have h1 : a1.toNat < 64 := a1.isLt
  have h2 : a2.toNat < 2 := a2.isLt
  refine of_word 184 (a0.toNat * 4096 + (a1.toNat * 64 + (a2.toNat * 1 + 0))) rfl (by rw [low_cons 12 _ 4096 rfl, low_cons 6 _ 64 rfl, low_cons 0 _ 1 rfl]; rfl) (by decide) (by omega) fun w hw ho => ?_
  have f0 : fld w 12 6 = a0 := fld_at 4096 64 (11776) (a1.toNat * 64 + a2.toNat * 1) rfl rfl (by rw [hw]; ring) (by omega)
  have f1 : fld w 6 6 = a1 := fld_at 64 64 (753664 + a0.toNat * 1) (a2.toNat * 1) rfl rfl (by rw [hw]; ring) (by omega)
  have f2 : fld w 0 1 = a2 := fld_at 1 2 (1543503872 + a0.toNat * 2048 + a1.toNat * 32) (0) rfl rfl (by rw [hw]; ring) (by omega)
  have r0 : rsv w 1 5 = true := rsv_at 2 32 (48234496 + a0.toNat * 64 + a1.toNat * 1) (a2.toNat * 1) rfl rfl (by rw [hw]; ring) (by omega)
  have r1 : rsv w 18 6 = true := rsv_at 262144 64 (184) (a0.toNat * 4096 + a1.toNat * 64 + a2.toNat * 1) rfl rfl (by rw [hw]; ring) (by omega)
  rw [decodeNat, ho]
  exact guard_eq (by rw [r0, r1]; rfl) (by rw [f0, f1, f2])
theorem ipin (a0 a1 a2) : Statement (.ipin a0 a1 a2) := by
  have h0 : a0.toNat < 64 := a0.isLt
  have h1 : a1.toNat < 64 := a1.isLt
  have h2 : a2.toNat < 64 := a2.isLt
  refine of_word 185 (a0.toNat * 262144 + (a1.toNat * 4096 + (a2.toNat * 64 + 0))) rfl (by rw [low_cons 18 _ 262144 rfl, low_cons 12 _ 4096 rfl, low_cons 6 _ 64 rfl]; rfl) (by decide) (by omega) fun w hw ho => ?_
  have f0 : fld w 18 6 = a0 := fld_at 262144 64 (185) (a1.toNat * 4096 + a2.toNat * 64) rfl rfl (by rw [hw]; ring) (by omega)
  have f1 : fld w 12 6 = a1 := fld_at 4096 64 (11840 + a0.toNat * 1) (a2.toNat * 64) rfl rfl (by rw [hw]; ring) (by omega)
  have f2 : fld w 6 6 = a2 := fld_at 64 64 (757760 + a0.toNat * 64 + a1.toNat * 1) (0) rfl rfl (by rw [hw]; ring) (by omega)
  have r0 : rsv w 0 6 = true := rsv_at 1 64 (48496640 + a0.toNat * 4096 + a1.toNat * 64 + a2.toNat * 1) (0) rfl rfl (by rw [hw]; ring) (by omega)
  rw [decodeNat, ho]
  exact guard_eq r0 (by rw [f0, f1, f2])
theorem iunpin (a0 a1) : Statement (.iunpin a0 a1) := by
  have h0 : a0.toNat < 64 := a0.isLt
  have h1 : a1.toNat < 64 := a1.isLt
  refine of_word 186 (a0.toNat * 4096 + (a1.toNat * 64 + 0)) rfl (by rw [low_cons 12 _ 4096 rfl, low_cons 6 _ 64 rfl]; rfl) (by decide) (by omega) fun w hw ho => ?_
  have f0 : fld w 12 6 = a0 := fld_at 4096 64 (11904) (a1.toNat * 64) rfl rfl (by rw [hw]; ring) (by omega)
  have f1 : fld w 6 6 = a1 := fld_at 64 64 (761856 + a0.toNat * 1) (0) rfl rfl (by rw [hw]; ring) (by omega)
  have r0 : rsv w 0 6 = true := rsv_at 1 64 (48758784 + a0.toNat * 64 + a1.toNat * 1) (0) rfl rfl (by rw [hw]; ring) (by omega)
  have r1 : rsv w 18 6 = true := rsv_at 262144 64 (186) (a0.toNat * 4096 + a1.toNat * 64) rfl rfl (by rw [hw]; ring) (by omega)
  rw [decodeNat, ho]
  exact guard_eq (by rw [r0, r1]; rfl) (by rw [f0, f1])
theorem pgset (a0 a1 a2 a3) : Statement (.pgset a0 a1 a2 a3) := by
  have h0 : a0.toNat < 64 := a0.isLt
  have h1 : a1.toNat < 64 := a1.isLt
  have h2 : a2.toNat < 64 := a2.isLt
  have h3 : a3.toNat < 4 := a3.isLt
  refine of_word 187 (a0.toNat * 262144 + (a1.toNat * 4096 + (a2.toNat * 64 + (a3.toNat * 1 + 0)))) rfl (by rw [low_cons 18 _ 262144 rfl, low_cons 12 _ 4096 rfl, low_cons 6 _ 64 rfl, low_cons 0 _ 1 rfl]; rfl) (by decide) (by omega) fun w hw ho => ?_
  have f0 : fld w 18 6 = a0 := fld_at 262144 64 (187) (a1.toNat * 4096 + a2.toNat * 64 + a3.toNat * 1) rfl rfl (by rw [hw]; ring) (by omega)
  have f1 : fld w 12 6 = a1 := fld_at 4096 64 (11968 + a0.toNat * 1) (a2.toNat * 64 + a3.toNat * 1) rfl rfl (by rw [hw]; ring) (by omega)
  have f2 : fld w 6 6 = a2 := fld_at 64 64 (765952 + a0.toNat * 64 + a1.toNat * 1) (a3.toNat * 1) rfl rfl (by rw [hw]; ring) (by omega)
  have f3 : fld w 0 2 = a3 := fld_at 1 4 (784334848 + a0.toNat * 65536 + a1.toNat * 1024 + a2.toNat * 16) (0) rfl rfl (by rw [hw]; ring) (by omega)
  have r0 : rsv w 2 4 = true := rsv_at 4 16 (49020928 + a0.toNat * 4096 + a1.toNat * 64 + a2.toNat * 1) (a3.toNat * 1) rfl rfl (by rw [hw]; ring) (by omega)
  rw [decodeNat, ho]
  exact guard_eq r0 (by rw [f0, f1, f2, f3])
theorem fupd (a0 a1 a2 a3 a4) : Statement (.fupd a0 a1 a2 a3 a4) := by
  have h0 : a0.toNat < 64 := a0.isLt
  have h1 : a1.toNat < 64 := a1.isLt
  have h2 : a2.toNat < 64 := a2.isLt
  have h3 : a3.toNat < 4 := a3.isLt
  have h4 : a4.toNat < 16 := a4.isLt
  refine of_word 188 (a0.toNat * 262144 + (a1.toNat * 4096 + (a2.toNat * 64 + (a3.toNat * 16 + (a4.toNat * 1 + 0))))) rfl (by rw [low_cons 18 _ 262144 rfl, low_cons 12 _ 4096 rfl, low_cons 6 _ 64 rfl, low_cons 4 _ 16 rfl, low_cons 0 _ 1 rfl]; rfl) (by decide) (by omega) fun w hw ho => ?_
  have f0 : fld w 18 6 = a0 := fld_at 262144 64 (188) (a1.toNat * 4096 + a2.toNat * 64 + a3.toNat * 16 + a4.toNat * 1) rfl rfl (by rw [hw]; ring) (by omega)
  have f1 : fld w 12 6 = a1 := fld_at 4096 64 (12032 + a0.toNat * 1) (a2.toNat * 64 + a3.toNat * 16 + a4.toNat * 1) rfl rfl (by rw [hw]; ring) (by omega)
  have f2 : fld w 6 6 = a2 := fld_at 64 64 (770048 + a0.toNat * 64 + a1.toNat * 1) (a3.toNat * 16 + a4.toNat * 1) rfl rfl (by rw [hw]; ring) (by omega)
  have f3 : fld w 4 2 = a3 := fld_at 16 4 (49283072 + a0.toNat * 4096 + a1.toNat * 64 + a2.toNat * 1) (a4.toNat * 1) rfl rfl (by rw [hw]; ring) (by omega)
  have f4 : fld w 0 4 = a4 := fld_at 1 16 (197132288 + a0.toNat * 16384 + a1.toNat * 256 + a2.toNat * 4 + a3.toNat * 1) (0) rfl rfl (by rw [hw]; ring) (by omega)
  rw [decodeNat, ho]
  exact congrArg Except.ok (by rw [f0, f1, f2, f3, f4])
theorem mcfg (a0 a1 a2) : Statement (.mcfg a0 a1 a2) := by
  have h0 : a0.toNat < 64 := a0.isLt
  have h1 : a1.toNat < 64 := a1.isLt
  have h2 : a2.toNat < 8 := a2.isLt
  refine of_word 208 (a0.toNat * 4096 + (a1.toNat * 64 + (a2.toNat * 1 + 0))) rfl (by rw [low_cons 12 _ 4096 rfl, low_cons 6 _ 64 rfl, low_cons 0 _ 1 rfl]; rfl) (by decide) (by omega) fun w hw ho => ?_
  have f0 : fld w 12 6 = a0 := fld_at 4096 64 (13312) (a1.toNat * 64 + a2.toNat * 1) rfl rfl (by rw [hw]; ring) (by omega)
  have f1 : fld w 6 6 = a1 := fld_at 64 64 (851968 + a0.toNat * 1) (a2.toNat * 1) rfl rfl (by rw [hw]; ring) (by omega)
  have f2 : fld w 0 3 = a2 := fld_at 1 8 (436207616 + a0.toNat * 512 + a1.toNat * 8) (0) rfl rfl (by rw [hw]; ring) (by omega)
  have r0 : rsv w 3 3 = true := rsv_at 8 8 (54525952 + a0.toNat * 64 + a1.toNat * 1) (a2.toNat * 1) rfl rfl (by rw [hw]; ring) (by omega)
  have r1 : rsv w 18 6 = true := rsv_at 262144 64 (208) (a0.toNat * 4096 + a1.toNat * 64 + a2.toNat * 1) rfl rfl (by rw [hw]; ring) (by omega)
  rw [decodeNat, ho]
  exact guard_eq (by rw [r0, r1]; rfl) (by rw [f0, f1, f2])
theorem mzero (a0 a1) : Statement (.mzero a0 a1) := by
  have h0 : a0.toNat < 64 := a0.isLt
  have h1 : a1.toNat < 8 := a1.isLt
  refine of_word 209 (a0.toNat * 4096 + (a1.toNat * 1 + 0)) rfl (by rw [low_cons 12 _ 4096 rfl, low_cons 0 _ 1 rfl]; rfl) (by decide) (by omega) fun w hw ho => ?_
  have f0 : fld w 12 6 = a0 := fld_at 4096 64 (13376) (a1.toNat * 1) rfl rfl (by rw [hw]; ring) (by omega)
  have f1 : fld w 0 3 = a1 := fld_at 1 8 (438304768 + a0.toNat * 512) (0) rfl rfl (by rw [hw]; ring) (by omega)
  have r0 : rsv w 3 9 = true := rsv_at 8 512 (856064 + a0.toNat * 1) (a1.toNat * 1) rfl rfl (by rw [hw]; ring) (by omega)
  have r1 : rsv w 18 6 = true := rsv_at 262144 64 (209) (a0.toNat * 4096 + a1.toNat * 1) rfl rfl (by rw [hw]; ring) (by omega)
  rw [decodeNat, ho]
  exact guard_eq (by rw [r0, r1]; rfl) (by rw [f0, f1])
theorem mldw (a0) : Statement (.mldw a0) := by
  have h0 : a0.toNat < 64 := a0.isLt
  refine of_word 210 (a0.toNat * 4096 + 0) rfl (by rw [low_cons 12 _ 4096 rfl]; rfl) (by decide) (by omega) fun w hw ho => ?_
  have f0 : fld w 12 6 = a0 := fld_at 4096 64 (13440) (0) rfl rfl (by rw [hw]; ring) (by omega)
  have r0 : rsv w 0 12 = true := rsv_at 1 4096 (860160 + a0.toNat * 1) (0) rfl rfl (by rw [hw]; ring) (by omega)
  have r1 : rsv w 18 6 = true := rsv_at 262144 64 (210) (a0.toNat * 4096) rfl rfl (by rw [hw]; ring) (by omega)
  rw [decodeNat, ho]
  exact guard_eq (by rw [r0, r1]; rfl) (by rw [f0])
theorem mloop (a0) : Statement (.mloop a0) := by
  have h0 : a0.toNat < 64 := a0.isLt
  refine of_word 211 (a0.toNat * 4096 + 0) rfl (by rw [low_cons 12 _ 4096 rfl]; rfl) (by decide) (by omega) fun w hw ho => ?_
  have f0 : fld w 12 6 = a0 := fld_at 4096 64 (13504) (0) rfl rfl (by rw [hw]; ring) (by omega)
  have r0 : rsv w 0 12 = true := rsv_at 1 4096 (864256 + a0.toNat * 1) (0) rfl rfl (by rw [hw]; ring) (by omega)
  have r1 : rsv w 18 6 = true := rsv_at 262144 64 (211) (a0.toNat * 4096) rfl rfl (by rw [hw]; ring) (by omega)
  rw [decodeNat, ho]
  exact guard_eq (by rw [r0, r1]; rfl) (by rw [f0])
theorem mrd (a0 a1 a2 a3 a4) : Statement (.mrd a0 a1 a2 a3 a4) := by
  have h0 : a0.toNat < 8 := a0.isLt
  have h1 : a1.toNat < 16 := a1.isLt
  have h2 : a2.toNat < 128 := a2.isLt
  have h3 : a3.toNat < 64 := a3.isLt
  have h4 : a4.toNat < 16 := a4.isLt
  refine of_word 212 (a0.toNat * 2097152 + (a1.toNat * 131072 + (a2.toNat * 1024 + (a3.toNat * 16 + (a4.toNat * 1 + 0))))) rfl (by rw [low_cons 21 _ 2097152 rfl, low_cons 17 _ 131072 rfl, low_cons 10 _ 1024 rfl, low_cons 4 _ 16 rfl, low_cons 0 _ 1 rfl]; rfl) (by decide) (by omega) fun w hw ho => ?_
  have f0 : fld w 21 3 = a0 := fld_at 2097152 8 (212) (a1.toNat * 131072 + a2.toNat * 1024 + a3.toNat * 16 + a4.toNat * 1) rfl rfl (by rw [hw]; ring) (by omega)
  have f1 : fld w 17 4 = a1 := fld_at 131072 16 (1696 + a0.toNat * 1) (a2.toNat * 1024 + a3.toNat * 16 + a4.toNat * 1) rfl rfl (by rw [hw]; ring) (by omega)
  have f2 : fld w 10 7 = a2 := fld_at 1024 128 (27136 + a0.toNat * 16 + a1.toNat * 1) (a3.toNat * 16 + a4.toNat * 1) rfl rfl (by rw [hw]; ring) (by omega)
  have f3 : fld w 4 6 = a3 := fld_at 16 64 (3473408 + a0.toNat * 2048 + a1.toNat * 128 + a2.toNat * 1) (a4.toNat * 1) rfl rfl (by rw [hw]; ring) (by omega)
  have f4 : fld w 0 4 = a4 := fld_at 1 16 (222298112 + a0.toNat * 131072 + a1.toNat * 8192 + a2.toNat * 64 + a3.toNat * 1) (0) rfl rfl (by rw [hw]; ring) (by omega)
  rw [decodeNat, ho]
  exact congrArg Except.ok (by rw [f0, f1, f2, f3, f4])
theorem mrds (a0 a1 a2 a3) : Statement (.mrds a0 a1 a2 a3) := by
  have h0 : a0.toNat < 8 := a0.isLt
  have h1 : a1.toNat < 16 := a1.isLt
  have h2 : a2.toNat < 128 := a2.isLt
  have h3 : a3.toNat < 64 := a3.isLt
  refine of_word 213 (a0.toNat * 2097152 + (a1.toNat * 131072 + (a2.toNat * 1024 + (a3.toNat * 16 + 0)))) rfl (by rw [low_cons 21 _ 2097152 rfl, low_cons 17 _ 131072 rfl, low_cons 10 _ 1024 rfl, low_cons 4 _ 16 rfl]; rfl) (by decide) (by omega) fun w hw ho => ?_
  have f0 : fld w 21 3 = a0 := fld_at 2097152 8 (213) (a1.toNat * 131072 + a2.toNat * 1024 + a3.toNat * 16) rfl rfl (by rw [hw]; ring) (by omega)
  have f1 : fld w 17 4 = a1 := fld_at 131072 16 (1704 + a0.toNat * 1) (a2.toNat * 1024 + a3.toNat * 16) rfl rfl (by rw [hw]; ring) (by omega)
  have f2 : fld w 10 7 = a2 := fld_at 1024 128 (27264 + a0.toNat * 16 + a1.toNat * 1) (a3.toNat * 16) rfl rfl (by rw [hw]; ring) (by omega)
  have f3 : fld w 4 6 = a3 := fld_at 16 64 (3489792 + a0.toNat * 2048 + a1.toNat * 128 + a2.toNat * 1) (0) rfl rfl (by rw [hw]; ring) (by omega)
  have r0 : rsv w 0 4 = true := rsv_at 1 16 (223346688 + a0.toNat * 131072 + a1.toNat * 8192 + a2.toNat * 64 + a3.toNat * 1) (0) rfl rfl (by rw [hw]; ring) (by omega)
  rw [decodeNat, ho]
  exact guard_eq r0 (by rw [f0, f1, f2, f3])
theorem mstat (a0 a1) : Statement (.mstat a0 a1) := by
  have h0 : a0.toNat < 64 := a0.isLt
  have h1 : a1.toNat < 8 := a1.isLt
  refine of_word 214 (a0.toNat * 262144 + (a1.toNat * 1 + 0)) rfl (by rw [low_cons 18 _ 262144 rfl, low_cons 0 _ 1 rfl]; rfl) (by decide) (by omega) fun w hw ho => ?_
  have f0 : fld w 18 6 = a0 := fld_at 262144 64 (214) (a1.toNat * 1) rfl rfl (by rw [hw]; ring) (by omega)
  have f1 : fld w 0 3 = a1 := fld_at 1 8 (448790528 + a0.toNat * 32768) (0) rfl rfl (by rw [hw]; ring) (by omega)
  have r0 : rsv w 3 15 = true := rsv_at 8 32768 (13696 + a0.toNat * 1) (a1.toNat * 1) rfl rfl (by rw [hw]; ring) (by omega)
  rw [decodeNat, ho]
  exact guard_eq r0 (by rw [f0, f1])
theorem mresume (a0) : Statement (.mresume a0) := by
  have h0 : a0.toNat < 8 := a0.isLt
  refine of_word 215 (a0.toNat * 1 + 0) rfl (by rw [low_cons 0 _ 1 rfl]; rfl) (by decide) (by omega) fun w hw ho => ?_
  have f0 : fld w 0 3 = a0 := fld_at 1 8 (450887680) (0) rfl rfl (by rw [hw]; ring) (by omega)
  have r0 : rsv w 3 21 = true := rsv_at 8 2097152 (215) (a0.toNat * 1) rfl rfl (by rw [hw]; ring) (by omega)
  rw [decodeNat, ho]
  exact guard_eq r0 (by rw [f0])
theorem mrel (a0 a1) : Statement (.mrel a0 a1) := by
  have h0 : a0.toNat < 2 := a0.isLt
  have h1 : a1.toNat < 8 := a1.isLt
  refine of_word 216 (a0.toNat * 8 + (a1.toNat * 1 + 0)) rfl (by rw [low_cons 3 _ 8 rfl, low_cons 0 _ 1 rfl]; rfl) (by decide) (by omega) fun w hw ho => ?_
  have f0 : fld w 3 1 = a0 := fld_at 8 2 (226492416) (a1.toNat * 1) rfl rfl (by rw [hw]; ring) (by omega)
  have f1 : fld w 0 3 = a1 := fld_at 1 8 (452984832 + a0.toNat * 1) (0) rfl rfl (by rw [hw]; ring) (by omega)
  have r0 : rsv w 4 20 = true := rsv_at 16 1048576 (216) (a0.toNat * 8 + a1.toNat * 1) rfl rfl (by rw [hw]; ring) (by omega)
  rw [decodeNat, ho]
  exact guard_eq r0 (by rw [f0, f1])
theorem unassignedOpcode (a0) : Statement (.unassignedOpcode a0) := no_word rfl
theorem clauseBegin (a0 a1) : Statement (.clauseBegin a0 a1) := no_word rfl
theorem clauseIssueChoice (a0) : Statement (.clauseIssueChoice a0) := no_word rfl
theorem splitWaitRetry (a0 a1) : Statement (.splitWaitRetry a0 a1) := no_word rfl
theorem gangBarrierArrivalMessage (a0 a1 a2) : Statement (.gangBarrierArrivalMessage a0 a1 a2) := no_word rfl
theorem gangBarrierReleaseMessage (a0 a1 a2) : Statement (.gangBarrierReleaseMessage a0 a1 a2) := no_word rfl
theorem partialResumptionAllocated (a0 a1) : Statement (.partialResumptionAllocated a0 a1) := no_word rfl
theorem groupRetire (a0) : Statement (.groupRetire a0) := no_word rfl
theorem gridRetire (a0) : Statement (.gridRetire a0) := no_word rfl
theorem loadDataReturn (a0 a1 a2) : Statement (.loadDataReturn a0 a1 a2) := no_word rfl
theorem storePerformed (a0) : Statement (.storePerformed a0) := no_word rfl
theorem pushDelivery (a0 a1 a2 a3 a4 a5 a6 a7) : Statement (.pushDelivery a0 a1 a2 a3 a4 a5 a6 a7) := no_word rfl
theorem pushAnswered (a0 a1) : Statement (.pushAnswered a0 a1) := no_word rfl
theorem pageWalk (a0 a1 a2 a3) : Statement (.pageWalk a0 a1 a2 a3) := no_word rfl
theorem quagRoomFreed (a0) : Statement (.quagRoomFreed a0) := no_word rfl
theorem scrubWaitReread (a0 a1) : Statement (.scrubWaitReread a0 a1) := no_word rfl
theorem parkingTimeout (a0 a1) : Statement (.parkingTimeout a0 a1) := no_word rfl
theorem homeOwnershipRequest (a0 a1) : Statement (.homeOwnershipRequest a0 a1) := no_word rfl
theorem invalidationReceived (a0 a1 a2) : Statement (.invalidationReceived a0 a1 a2) := no_word rfl
theorem recallReceived (a0 a1 a2) : Statement (.recallReceived a0 a1 a2) := no_word rfl
theorem fillGrantReceived (a0 a1 a2 a3 a4) : Statement (.fillGrantReceived a0 a1 a2 a3 a4) := no_word rfl
theorem farAtomicAtBank (a0) : Statement (.farAtomicAtBank a0) := no_word rfl
theorem ctbInvalidateDone (a0) : Statement (.ctbInvalidateDone a0) := no_word rfl
theorem kstepGrant (a0 a1) : Statement (.kstepGrant a0 a1) := no_word rfl
theorem kstepComplete (a0 a1 a2) : Statement (.kstepComplete a0 a1 a2) := no_word rfl
theorem arrayModeSwitch (a0) : Statement (.arrayModeSwitch a0) := no_word rfl
theorem copyComplete (a0 a1) : Statement (.copyComplete a0 a1) := no_word rfl
theorem fupdPerformed (a0 a1) : Statement (.fupdPerformed a0 a1) := no_word rfl
theorem powerGrant (a0) : Statement (.powerGrant a0) := no_word rfl
theorem powerRelease (a0 a1) : Statement (.powerRelease a0 a1) := no_word rfl
theorem powerOverLimit10ms (a0) : Statement (.powerOverLimit10ms a0) := no_word rfl
theorem launchRecordAccept (a0 a1) : Statement (.launchRecordAccept a0 a1) := no_word rfl
theorem ticketTake (a0 a1) : Statement (.ticketTake a0 a1) := no_word rfl
theorem stealRequest (a0 a1 a2) : Statement (.stealRequest a0 a1 a2) := no_word rfl
theorem stealReply (a0 a1 a2 a3 a4 a5) : Statement (.stealReply a0 a1 a2 a3 a4 a5) := no_word rfl
theorem gangPlacement (a0 a1 a2) : Statement (.gangPlacement a0 a1 a2) := no_word rfl
theorem placementReservation (a0 a1 a2 a3 a4) : Statement (.placementReservation a0 a1 a2 a3 a4) := no_word rfl
theorem preemption (a0 a1 a2 a3) : Statement (.preemption a0 a1 a2 a3) := no_word rfl
theorem preemptWaitTimeout (a0 a1) : Statement (.preemptWaitTimeout a0 a1) := no_word rfl
theorem drainTimeout (a0 a1 a2) : Statement (.drainTimeout a0 a1 a2) := no_word rfl
theorem haltComplete (a0 a1) : Statement (.haltComplete a0 a1) := no_word rfl
theorem haltTimeout (a0 a1 a2) : Statement (.haltTimeout a0 a1 a2) := no_word rfl
theorem gangRestore (a0 a1) : Statement (.gangRestore a0 a1) := no_word rfl
theorem gangRestorePlacement (a0 a1) : Statement (.gangRestorePlacement a0 a1) := no_word rfl
theorem gridAbort (a0 a1) : Statement (.gridAbort a0 a1) := no_word rfl
theorem heartbeat (a0) : Statement (.heartbeat a0) := no_word rfl
theorem heartbeatLost (a0 a1) : Statement (.heartbeatLost a0 a1) := no_word rfl
theorem distributorAdoption (a0 a1) : Statement (.distributorAdoption a0 a1) := no_word rfl
theorem tokenSign (a0 a1 a2) : Statement (.tokenSign a0 a1 a2) := no_word rfl
theorem delegatedSignTimeout (a0) : Statement (.delegatedSignTimeout a0) := no_word rfl
theorem smsgsendStallTimeout (a0) : Statement (.smsgsendStallTimeout a0) := no_word rfl
theorem contextSaveComplete (a0) : Statement (.contextSaveComplete a0) := no_word rfl
theorem contextRestoreComplete (a0) : Statement (.contextRestoreComplete a0) := no_word rfl
theorem budgetPeriod (a0) : Statement (.budgetPeriod a0) := no_word rfl
theorem budgetExhausted (a0) : Statement (.budgetExhausted a0) := no_word rfl
theorem budgetInterruptUnserved (a0) : Statement (.budgetInterruptUnserved a0) := no_word rfl
theorem bootStage1 (a0 a1 a2) : Statement (.bootStage1 a0 a1 a2) := no_word rfl
theorem bootStage2 (a0 a1 a2) : Statement (.bootStage2 a0 a1 a2) := no_word rfl
theorem bootStage3 (a0 a1) : Statement (.bootStage3 a0 a1) := no_word rfl
theorem bootStage4 (a0) : Statement (.bootStage4 a0) := no_word rfl
theorem dieFence (a0) : Statement (.dieFence a0) := no_word rfl
theorem errorRecordDelivered (a0 a1 a2) : Statement (.errorRecordDelivered a0 a1 a2) := no_word rfl
theorem messageArrival (a0 a1) : Statement (.messageArrival a0 a1) := no_word rfl
theorem icinvDone (a0 a1) : Statement (.icinvDone a0 a1) := no_word rfl
theorem instructionFetchFill (a0 a1) : Statement (.instructionFetchFill a0 a1) := no_word rfl
theorem engineOperationFailed (a0 a1 a2 a3) : Statement (.engineOperationFailed a0 a1 a2 a3) := no_word rfl
theorem serviceCoreAccess (a0 a1) : Statement (.serviceCoreAccess a0 a1) := no_word rfl
theorem queueBinding (a0 a1) : Statement (.queueBinding a0 a1) := no_word rfl
theorem tenantSwitch (a0 a1) : Statement (.tenantSwitch a0 a1) := no_word rfl
theorem sluiceScrub (a0 a1) : Statement (.sluiceScrub a0 a1) := no_word rfl
theorem nvmeRead (a0 a1) : Statement (.nvmeRead a0 a1) := no_word rfl
theorem nvmeWrite (a0 a1) : Statement (.nvmeWrite a0 a1) := no_word rfl
theorem nvmeFlush (a0 a1) : Statement (.nvmeFlush a0 a1) := no_word rfl
theorem nvmeWriteZeroes (a0 a1) : Statement (.nvmeWriteZeroes a0 a1) := no_word rfl
theorem nvmeDatasetManagement (a0 a1) : Statement (.nvmeDatasetManagement a0 a1) := no_word rfl
theorem nvmeCompletion (a0 a1 a2) : Statement (.nvmeCompletion a0 a1 a2) := no_word rfl
theorem nvmeCommandTimeout (a0 a1) : Statement (.nvmeCommandTimeout a0 a1) := no_word rfl
theorem nvmeControllerReset (a0) : Statement (.nvmeControllerReset a0) := no_word rfl
theorem nvmeReadyTimeout (a0) : Statement (.nvmeReadyTimeout a0) := no_word rfl
theorem frameTransmit (a0 a1) : Statement (.frameTransmit a0 a1) := no_word rfl
theorem permitDrainEnd (a0) : Statement (.permitDrainEnd a0) := no_word rfl
theorem permitDrainTimeout (a0) : Statement (.permitDrainTimeout a0) := no_word rfl
theorem linkTraining (a0 a1 a2) : Statement (.linkTraining a0 a1 a2) := no_word rfl
theorem powerReadingRecovered (a0) : Statement (.powerReadingRecovered a0) := no_word rfl
theorem powerOverLimit (a0) : Statement (.powerOverLimit a0) := no_word rfl
theorem hbmPatrolRead (a0 a1) : Statement (.hbmPatrolRead a0 a1) := no_word rfl
theorem tileEntryEccError (a0 a1 a2 a3) : Statement (.tileEntryEccError a0 a1 a2 a3) := no_word rfl
theorem queueNotify (a0 a1) : Statement (.queueNotify a0 a1) := no_word rfl
theorem signingDoorbell (a0 a1) : Statement (.signingDoorbell a0 a1) := no_word rfl
theorem attestationReport (a0 a1 a2 a3) : Statement (.attestationReport a0 a1 a2 a3) := no_word rfl
theorem sintake (a0) : Statement (.sintake a0) := no_word rfl
theorem scres (a0 a1) : Statement (.scres a0 a1) := no_word rfl
theorem slresumeStage (a0 a1) : Statement (.slresumeStage a0 a1) := no_word rfl
theorem slresumeRelease (a0 a1) : Statement (.slresumeRelease a0 a1) := no_word rfl
theorem sqsel (a0 a1) : Statement (.sqsel a0 a1) := no_word rfl
theorem sqdata (a0 a1) : Statement (.sqdata a0 a1) := no_word rfl
theorem sqansRetry (a0 a1) : Statement (.sqansRetry a0 a1) := no_word rfl
theorem sqansEmulateLoad (a0 a1) : Statement (.sqansEmulateLoad a0 a1) := no_word rfl
theorem sqansEmulateStore (a0 a1) : Statement (.sqansEmulateStore a0 a1) := no_word rfl
theorem sqansAbort (a0 a1) : Statement (.sqansAbort a0 a1) := no_word rfl
theorem sctbinvAllSpaces (a0) : Statement (.sctbinvAllSpaces a0) := no_word rfl
theorem sctbinvPage (a0 a1 a2) : Statement (.sctbinvPage a0 a1 a2) := no_word rfl
theorem sctbinvSpace (a0 a1) : Statement (.sctbinvSpace a0 a1) := no_word rfl
theorem smsgdat (a0 a1) : Statement (.smsgdat a0 a1) := no_word rfl
theorem smsgsend (a0) : Statement (.smsgsend a0) := no_word rfl
theorem smsgrcv (a0) : Statement (.smsgrcv a0) := no_word rfl
theorem smsgrd (a0) : Statement (.smsgrd a0) := no_word rfl
theorem sring (a0 a1) : Statement (.sring a0 a1) := no_word rfl
theorem smresume (a0 a1) : Statement (.smresume a0 a1) := no_word rfl
theorem sctxopSave (a0 a1) : Statement (.sctxopSave a0 a1) := no_word rfl
theorem sctxopRestore (a0 a1) : Statement (.sctxopRestore a0 a1) := no_word rfl
theorem registerWrite (a0 a1 a2) : Statement (.registerWrite a0 a1 a2) := no_word rfl
theorem shareTableWrite (a0 a1 a2 a3) : Statement (.shareTableWrite a0 a1 a2 a3) := no_word rfl
theorem tcfgWrite (a0 a1 a2 a3) : Statement (.tcfgWrite a0 a1 a2 a3) := no_word rfl
theorem fwctlWrite (a0 a1 a2) : Statement (.fwctlWrite a0 a1 a2) := no_word rfl
theorem mmodeWrite (a0 a1 a2) : Statement (.mmodeWrite a0 a1 a2) := no_word rfl
theorem fmodeWrite (a0 a1 a2) : Statement (.fmodeWrite a0 a1 a2) := no_word rfl
theorem lcfgWrite (a0 a1 a2) : Statement (.lcfgWrite a0 a1 a2) := no_word rfl
theorem qtmoWrite (a0 a1 a2) : Statement (.qtmoWrite a0 a1 a2) := no_word rfl
theorem fenceRegisterWrite (a0 a1 a2) : Statement (.fenceRegisterWrite a0 a1 a2) := no_word rfl
theorem rreqWrite (a0 a1 a2) : Statement (.rreqWrite a0 a1 a2) := no_word rfl
theorem callAlloc (a0 a1) : Statement (.callAlloc a0 a1) := no_word rfl
theorem callFree (a0 a1) : Statement (.callFree a0 a1) := no_word rfl
theorem callMmap (a0 a1) : Statement (.callMmap a0 a1) := no_word rfl
theorem callMunmap (a0 a1) : Statement (.callMunmap a0 a1) := no_word rfl
theorem callFaultreg (a0 a1) : Statement (.callFaultreg a0 a1) := no_word rfl
theorem callOpen (a0 a1) : Statement (.callOpen a0 a1) := no_word rfl
theorem callRead (a0 a1) : Statement (.callRead a0 a1) := no_word rfl
theorem callWrite (a0 a1) : Statement (.callWrite a0 a1) := no_word rfl
theorem callFsync (a0 a1) : Statement (.callFsync a0 a1) := no_word rfl
theorem callClose (a0 a1) : Statement (.callClose a0 a1) := no_word rfl
theorem callSocket (a0 a1) : Statement (.callSocket a0 a1) := no_word rfl
theorem callSend (a0 a1) : Statement (.callSend a0 a1) := no_word rfl
theorem callRecv (a0 a1) : Statement (.callRecv a0 a1) := no_word rfl
theorem callLaunchw (a0 a1) : Statement (.callLaunchw a0 a1) := no_word rfl
theorem callGridw (a0 a1) : Statement (.callGridw a0 a1) := no_word rfl
theorem callUnassigned (a0 a1) : Statement (.callUnassigned a0 a1) := no_word rfl
theorem faultAnswer (a0 a1) : Statement (.faultAnswer a0 a1) := no_word rfl
theorem yieldSlice (a0 a1) : Statement (.yieldSlice a0 a1) := no_word rfl
theorem faultHandlerLaunch (a0 a1) : Statement (.faultHandlerLaunch a0 a1) := no_word rfl
theorem fenceI (a0) : Statement (.fenceI a0) := no_word rfl
theorem moduleReset : Statement (.moduleReset) := no_word rfl
theorem nvmeAdminCommand (a0 a1) : Statement (.nvmeAdminCommand a0 a1) := no_word rfl
theorem frameReceive (a0 a1) : Statement (.frameReceive a0 a1) := no_word rfl
theorem portLinkDown (a0) : Statement (.portLinkDown a0) := no_word rfl
theorem lodeReadRequest (a0 a1 a2 a3) : Statement (.lodeReadRequest a0 a1 a2 a3) := no_word rfl
theorem lodeWriteRequest (a0 a1 a2 a3 a4) : Statement (.lodeWriteRequest a0 a1 a2 a3 a4) := no_word rfl
theorem lodeResponseReceived (a0 a1) : Statement (.lodeResponseReceived a0 a1) := no_word rfl
theorem lodeFlitRetry (a0) : Statement (.lodeFlitRetry a0) := no_word rfl
theorem lodeLinkDown (a0 a1) : Statement (.lodeLinkDown a0 a1) := no_word rfl
theorem permitAudit (a0) : Statement (.permitAudit a0) := no_word rfl
theorem permitAuditCompare (a0 a1 a2) : Statement (.permitAuditCompare a0 a1 a2) := no_word rfl
theorem boundaryLinkLoss (a0 a1) : Statement (.boundaryLinkLoss a0 a1) := no_word rfl
theorem neighbourRequestTimeout (a0 a1) : Statement (.neighbourRequestTimeout a0 a1) := no_word rfl
theorem closedBoundaryFlit (a0 a1) : Statement (.closedBoundaryFlit a0 a1) := no_word rfl
theorem serviceCoreFailure (a0) : Statement (.serviceCoreFailure a0) := no_word rfl
theorem distributorFailure (a0) : Statement (.distributorFailure a0) := no_word rfl
theorem portLinkUp (a0) : Statement (.portLinkUp a0) := no_word rfl
theorem modulePowerLoss : Statement (.modulePowerLoss) := no_word rfl
theorem boundaryFlitRetry (a0 a1) : Statement (.boundaryFlitRetry a0 a1) := no_word rfl

end Sys2Proof.Laws.RoundTrip
end

