-- ==== Sys2Proof/Laws/Results.lean ====
section
/-!
SUPPORT. What the shared operations of the register instructions answer: one lemma for each, that says it completes,
what it writes and that it writes nothing else.
-/

namespace Sys2Proof.Machine

variable {s : State} {c : Ctx}

/-! ### Writing registers -/

theorem setS_writes (g : Group) (d : Nat) (val : Dword) : WritesS g (g.setS d val) d val := by
  unfold Group.setS
  split
  · next h => exact ⟨rfl, by simp [Group.sreg], fun h' => absurd h h', fun _ _ => rfl⟩
  · next h =>
    refine ⟨rfl, by simp [Group.sreg], fun _ => ?_, fun r hr => ?_⟩
    · simp [Group.sreg, h, SMap.get_set]
    · simp only [Group.sreg, SMap.get_set, if_neg hr]

theorem vreg_setV (g : Group) {l k m r : Nat} (hl : l < 1024) (hm : m < 1024) (x : VReg) :
    (g.setV m r x).vreg l k = if l = m ∧ k = r then x else g.vreg l k := by
  simp only [Group.vreg, Group.setV, SMap.get_set]
  congr 1
  apply propext; constructor
  · intro h; constructor <;> omega
  · rintro ⟨rfl, rfl⟩; rfl

theorem lanesOf_mem {m : Mask} {n l : Nat} : l ∈ lanesOf m n ↔ l < n ∧ m.getLsbD l = true := by
  simp [lanesOf]

theorem getLsbD_lt {m : Mask} {l : Nat} (h : m.getLsbD l = true) : l < 1024 := by
  rcases Nat.lt_or_ge l 1024 with h' | h'
  · exact h'
  · rw [BitVec.getLsbD_of_ge _ _ h'] at h; cases h

/-- Lane by lane writes of different registers: register `k` of lane `l` afterwards. -/
theorem foldl_setV {α : Type} (ls : List α) (lane reg : α → Nat) (val : α → VReg) (g : Group) (hlt : ∀ e ∈ ls, lane e < 1024)
    {l k : Nat} (hl : l < 1024) :
    (ls.foldl (fun g e => g.setV (lane e) (reg e) (val e)) g).vreg l k
      = ((ls.reverse.find? fun e => lane e == l && reg e == k).map val).getD (g.vreg l k) := by
  induction ls generalizing g with
  | nil => rfl
  | cons e es ih =>
    rw [List.foldl_cons, ih _ fun x hx => hlt x (List.mem_cons_of_mem _ hx), List.reverse_cons, List.find?_append,
      vreg_setV g hl (hlt e (by simp))]
    cases es.reverse.find? fun e => lane e == l && reg e == k with
    | some x => rfl
    | none =>
      simp only [Option.none_or, List.find?_cons, List.find?_nil]
      by_cases h : lane e = l ∧ reg e = k
      · simp [h.1, h.2]
      · have h2 : ¬(l = lane e ∧ k = reg e) := fun h' => h ⟨h'.1.symm, h'.2.symm⟩
        have h3 : (lane e == l && reg e == k) = false := by simpa using h
        simp [h2, h3]

theorem foldl_setV_rest {α : Type} (ls : List α) (lane reg : α → Nat) (val : α → VReg) (g : Group) :
    ls.foldl (fun g e => g.setV (lane e) (reg e) (val e)) g
      = { g with v := (ls.foldl (fun g e => g.setV (lane e) (reg e) (val e)) g).v } := by
  induction ls generalizing g with
  | nil => rfl
  | cons e es ih => rw [List.foldl_cons, ih]; rfl

theorem find?_lane (ls : List Nat) (l : Nat) (b : Bool) :
    ls.reverse.find? (fun e => e == l && b) = if l ∈ ls ∧ b = true then some l else none := by
  split
  · next h =>
    cases hf : ls.reverse.find? (fun e => e == l && b) with
    | none => rw [List.find?_eq_none] at hf; have := hf l (by simpa using h.1); simp [h.2] at this
    | some x => have := List.find?_some hf; simp at this; rw [this.1]
  · next h =>
    rw [List.find?_eq_none]
    intro x hx hx2
    simp at hx hx2
    exact h ⟨hx2.1 ▸ hx, hx2.2⟩

/-- R208: a register written in a list of lanes. -/
theorem vreg_writeV (g : Group) (r : Nat) (ls : List Nat) (val : Nat → VReg) (hlt : ∀ l ∈ ls, l < 1024) {l k : Nat}
    (hl : l < 1024) : (g.writeV r ls val).vreg l k = if l ∈ ls ∧ k = r then val l else g.vreg l k := by
  refine (foldl_setV ls (fun e => e) (fun _ => r) val g hlt hl).trans ?_
  rw [find?_lane ls l (r == k)]
  by_cases h : l ∈ ls ∧ k = r
  · rw [if_pos ⟨h.1, by simp [h.2]⟩, if_pos h]; rfl
  · rw [if_neg (fun h' => h ⟨h'.1, (beq_iff_eq.1 h'.2).symm⟩), if_neg h]; rfl

theorem writeV_writes (g : Group) (r : Nat) (m : Mask) (n : Nat) (val : Nat → VReg) :
    WritesV g (g.writeV r (lanesOf m n) val) r (fun l => m.getLsbD l = true ∧ l < n) val := by
  have hlt : ∀ l ∈ lanesOf m n, l < 1024 := fun l hl => getLsbD_lt (lanesOf_mem.1 hl).2
  refine ⟨foldl_setV_rest (lanesOf m n) (fun l => l) (fun _ => r) val g, fun l hl => ?_, fun l k hl hk => ?_⟩
  · rw [vreg_writeV g r _ val hlt (getLsbD_lt hl.1), if_pos ⟨lanesOf_mem.2 ⟨hl.2, hl.1⟩, rfl⟩]
  · rw [vreg_writeV g r _ val hlt hl, if_neg]
    rintro ⟨h1, rfl⟩
    exact hk ⟨rfl, (lanesOf_mem.1 h1).2, (lanesOf_mem.1 h1).1⟩

theorem maskOf_getLsbD (ls : List Nat) {l : Nat} (hl : l < 1024) : (maskOf ls).getLsbD l = decide (l ∈ ls) := by
  have : ∀ (m : Mask), (ls.foldl (fun m l => m ||| BitVec.twoPow 1024 l) m).getLsbD l = (m.getLsbD l || decide (l ∈ ls)) := by
    induction ls with
    | nil => simp
    | cons x xs ih =>
      intro m
      rw [List.foldl_cons, ih, BitVec.getLsbD_or, BitVec.getLsbD_twoPow]
      by_cases h : x = l
      · subst h; simp [hl]
      · have h2 : l ≠ x := fun h' => h h'.symm
        simp [h, h2]
  rw [maskOf, this]; simp

theorem setP_writes (g : Group) (p : Nat) (m val : Mask) (lanes : Nat → Prop) (f : Nat → Bool)
    (hm : ∀ l, l < 1024 → (m.getLsbD l = true ↔ lanes l)) (hlt : ∀ l, lanes l → l < 1024) (hv : ∀ l, lanes l → val.getLsbD l = f l) :
    WritesP g (g.setP p m val) p lanes f := by
  have ones : ∀ (g : Group) l, l < 1024 → (g.pred 0).getLsbD l = true := fun g l hl => by
    simp only [Group.pred, if_true, BitVec.getLsbD_allOnes]; exact decide_eq_true hl
  unfold Group.setP
  split
  · next h =>
    refine ⟨rfl, ones g, fun h' => absurd h h', fun q l _ _ => rfl⟩
  · next h =>
    refine ⟨rfl, ones _, fun _ l hl => ?_, fun q l hl hq => ?_⟩
    · simp only [Group.pred, h, if_false, SMap.get_set, if_true]
      have hb := (hm l (hlt l hl)).2 hl
      simp [hb, hv l hl]
    · by_cases hqp : q = p
      · subst hqp
        have hn : m.getLsbD l = false := by
          rw [Bool.eq_false_iff]; intro h'; exact hq ⟨rfl, (hm l hl).1 h'⟩
        simp only [Group.pred, h, if_false, SMap.get_set, if_true, BitVec.getLsbD_or, BitVec.getLsbD_and, BitVec.getLsbD_not, hn]
        simp [hl]
      · simp [Group.pred, SMap.get_set, hqp]

theorem writeP_writes (g : Group) (p : Nat) (m : Mask) (n : Nat) (f : Nat → Bool) :
    WritesP g (g.writeP p (lanesOf m n) f) p (fun l => m.getLsbD l = true ∧ l < n) f := by
  refine setP_writes g p _ _ _ f (fun l hl => ?_) (fun l hl => getLsbD_lt hl.1) (fun l hl => ?_)
  · rw [maskOf_getLsbD _ hl]; simp [lanesOf_mem, and_comm]
  · rw [maskOf_getLsbD _ (getLsbD_lt hl.1)]
    simp [lanesOf_mem, hl.1, hl.2]

/-! ### The shared operations -/

theorem scalarOp_result (len : Nat) (d : BitVec 6) (val : Ctx → Dword) (h : Issues s c [] 0 none) :
    ∃ t g, scalarOp true len d val s = .next t ∧ Done s t c (c.after len) g ∧ WritesS c.g g d.toNat (val c) := by
  have hw := setS_writes c.g d.toNat (val c)
  refine ⟨_, _, h.issue, commit_done len _ (f := c.f) ?_, hw⟩
  rw [hw.rest]; exact (ctx?_eq h.resident).2

/-- R61: an instruction that sets flags is done, and the trap of an enabled one follows. -/
theorem commitFlags_ends (len : Nat) (g : Group) (fl : Byte) {f : Frag} (hf : g.frags.find c.fid = some f) :
    ∃ t, s.commitFlags c len g fl = c.ends fl t ∧ Done s t c (c.after len) { g with flags := g.flags ||| fl } :=
  ⟨_, rfl, commit_done len _ hf⟩

/-- R61: with no enabled flag set the instruction's own effect is all. -/
theorem Ctx.ends_eq {fl : Byte} {t : State} (h : fl &&& c.te = 0) : c.ends fl t = t := if_pos h

/-- The end of every operation that writes one register in the lanes whose guard holds and sets flags. -/
theorem writeV_ends (len : Nat) (d : BitVec 7) (gd : BitVec 3) (val : Nat → VReg) (fl : Byte) (hc : s.ctx? = some c) :
    ∃ t g, s.commitFlags c len (c.g.writeV d.toNat (c.lanes gd.toNat) val) fl = c.ends fl t
      ∧ Done s t c (c.after len) { g with flags := c.g.flags ||| fl } ∧ WritesV c.g g d.toNat (c.Lane gd.toNat) val := by
  have hw := writeV_writes c.g d.toNat (c.guarded gd.toNat) c.g.lanes val
  have hfl : (c.g.writeV d.toNat (c.lanes gd.toNat) val).flags = c.g.flags := by rw [Ctx.lanes, hw.rest]
  obtain ⟨t, h1, h2⟩ := commitFlags_ends (s := s) (c := c) len (c.g.writeV d.toNat (c.lanes gd.toNat) val) fl (f := c.f)
    (by rw [Ctx.lanes, hw.rest]; exact (ctx?_eq hc).2)
  exact ⟨t, _, h1, hfl ▸ h2, hw⟩

theorem vecInt_result {ok : Bool} (hok : ok = true) (len : Nat) (gd : BitVec 3) (d : BitVec 7) (srcs : List (BitVec 7)) (val : Ctx → Nat → Word)
    (h : Issues s c ((d :: srcs).map (·.toNat)) gd.toNat none) :
    ∃ t g, vecInt ok len gd d srcs val s = .next (c.ends (c.ioFlag (c.lanes gd.toNat) (srcs.map (·.toNat))) t)
      ∧ Done s t c (c.after len) { g with flags := c.g.flags ||| c.ioFlag (c.lanes gd.toNat) (srcs.map (·.toNat)) }
      ∧ WritesV c.g g d.toNat (c.Lane gd.toNat) fun l => ⟨val c l, false⟩ := by
  subst hok
  obtain ⟨t, g, h0, h1, h2⟩ := writeV_ends len d gd (fun l => ⟨val c l, false⟩) _ h.resident
  exact ⟨t, g, (h.run rfl (List.map_map ..).symm).trans (congrArg _ h0), h1, h2⟩

theorem floatOp_result (len : Nat) (gd : BitVec 3) (d : BitVec 7) (srcs : List (BitVec 7)) (f : Ctx → Nat → Nat × Byte)
    (h : Issues s c ((d :: srcs).map (·.toNat)) gd.toNat none) :
    ∃ t g, floatOp len gd d srcs f s = .next (c.ends (c.ioFlag (c.lanes gd.toNat) (srcs.map (·.toNat))
          ||| orFlags (c.lanes gd.toNat) fun l => (f c l).2) t)
      ∧ Done s t c (c.after len) { g with flags := c.g.flags ||| (c.ioFlag (c.lanes gd.toNat) (srcs.map (·.toNat))
          ||| orFlags (c.lanes gd.toNat) fun l => (f c l).2) }
      ∧ WritesV c.g g d.toNat (c.Lane gd.toNat) fun l => ⟨BitVec.ofNat 32 (f c l).1, false⟩ := by
  obtain ⟨t, g, h0, h1, h2⟩ := writeV_ends len d gd (fun l => ⟨BitVec.ofNat 32 (f c l).1, false⟩) _ h.resident
  exact ⟨t, g, (h.run rfl (List.map_map ..).symm).trans (congrArg _ h0), h1, h2⟩

theorem floatMove_result (gd : BitVec 3) (d : BitVec 7) (srcs : List (BitVec 7)) (f : Ctx → Nat → VReg × Byte)
    (h : Issues s c ((d :: srcs).map (·.toNat)) gd.toNat none) :
    ∃ t g, floatMove gd d srcs f s = .next (c.ends (orFlags (c.lanes gd.toNat) fun l => (f c l).2) t)
      ∧ Done s t c (c.after 4) { g with flags := c.g.flags ||| orFlags (c.lanes gd.toNat) fun l => (f c l).2 }
      ∧ WritesV c.g g d.toNat (c.Lane gd.toNat) fun l => (f c l).1 := by
  obtain ⟨t, g, h0, h1, h2⟩ := writeV_ends 4 d gd (fun l => (f c l).1) _ h.resident
  exact ⟨t, g, (h.run rfl (List.map_map ..).symm).trans (congrArg _ h0), h1, h2⟩

/-- An instruction that writes one register and sets no flag. -/
theorem commitV_done (len : Nat) (d : BitVec 7) (gd : Nat) (val : Nat → VReg) (hc : s.ctx? = some c) :
    ∃ g, Done s (s.commit c len (c.g.writeV d.toNat (c.lanes gd) val)) c (c.after len) g
      ∧ WritesV c.g g d.toNat (c.Lane gd) val := by
  have hw := writeV_writes c.g d.toNat (c.guarded gd) c.g.lanes val
  refine ⟨_, commit_done len _ (f := c.f) ?_, hw⟩
  rw [Ctx.lanes, hw.rest]; exact (ctx?_eq hc).2

theorem vecMove_result (gd : BitVec 3) (d : BitVec 7) (srcs : List (BitVec 7)) (val : Ctx → Nat → VReg)
    (h : Issues s c ((d :: srcs).map (·.toNat)) gd.toNat none) :
    ∃ t g, vecMove gd d srcs val s = .next t ∧ Done s t c (c.after 4) g ∧ WritesV c.g g d.toNat (c.Lane gd.toNat) (val c) := by
  obtain ⟨g, h1, h2⟩ := commitV_done 4 d gd.toNat (val c) h.resident
  exact ⟨_, g, h.run rfl (List.map_map ..).symm, h1, h2⟩

/-- The end of every compare. -/
theorem writeP_ends (len : Nat) (p gd : BitVec 3) (f : Nat → Bool) (fl : Byte) (hc : s.ctx? = some c) :
    ∃ t g, s.commitFlags c len (c.g.writeP p.toNat (c.lanes gd.toNat) f) fl = c.ends fl t
      ∧ Done s t c (c.after len) { g with flags := c.g.flags ||| fl } ∧ WritesP c.g g p.toNat (c.Lane gd.toNat) f := by
  have hw := writeP_writes c.g p.toNat (c.guarded gd.toNat) c.g.lanes f
  have hfl : (c.g.writeP p.toNat (c.lanes gd.toNat) f).flags = c.g.flags := by rw [Ctx.lanes, hw.rest]
  obtain ⟨t, h1, h2⟩ := commitFlags_ends (s := s) (c := c) len (c.g.writeP p.toNat (c.lanes gd.toNat) f) fl (f := c.f)
    (by rw [Ctx.lanes, hw.rest]; exact (ctx?_eq hc).2)
  exact ⟨t, _, h1, hfl ▸ h2, hw⟩

theorem comparePred_result {ok : Bool} (hok : ok = true) (len : Nat) (gd p : BitVec 3) (srcs : List (BitVec 7)) (f : Ctx → Nat → Bool × Byte)
    (h : Issues s c (srcs.map (·.toNat)) gd.toNat none) :
    ∃ t g, comparePred ok len gd p srcs f s = .next (c.ends (orFlags (c.lanes gd.toNat) fun l => (f c l).2) t)
      ∧ Done s t c (c.after len) { g with flags := c.g.flags ||| orFlags (c.lanes gd.toNat) fun l => (f c l).2 }
      ∧ WritesP c.g g p.toNat (c.Lane gd.toNat) fun l => (f c l).1 := by
  subst hok
  obtain ⟨t, g, h0, h1, h2⟩ := writeP_ends len p gd (fun l => (f c l).1) _ h.resident
  exact ⟨t, g, (h.run rfl (List.map_map ..).symm).trans (congrArg _ h0), h1, h2⟩

theorem floatCompare_result {ok : Bool} (hok : ok = true) (len : Nat) (gd p : BitVec 3) (srcs : List (BitVec 7)) (f : Ctx → Nat → Bool × Byte)
    (h : Issues s c (srcs.map (·.toNat)) gd.toNat none) :
    ∃ t g, floatCompare ok len gd p srcs f s = .next (c.ends (orFlags (c.lanes gd.toNat) fun l => (f c l).2) t)
      ∧ Done s t c (c.after len) { g with flags := c.g.flags ||| orFlags (c.lanes gd.toNat) fun l => (f c l).2 }
      ∧ WritesP c.g g p.toNat (c.Lane gd.toNat) fun l => (f c l).1 := by
  subst hok
  obtain ⟨t, g, h0, h1, h2⟩ := writeP_ends len p gd (fun l => (f c l).1) _ h.resident
  exact ⟨t, g, (h.run rfl (List.map_map ..).symm).trans (congrArg _ h0), h1, h2⟩

end Sys2Proof.Machine
end

