-- ==== Sys2Proof/Laws/Totals.lean ====
section
/-! SUPPORT. The module's totals (R17), of the places that the model's identifiers and memories have. -/

namespace Sys2Proof.Laws
open Sys2Proof.Machine

/-- R17: 4,096 SIMT cores. -/
theorem total_cores (gid : Nat) (h : gid < 2 ^ 18) : gidCore gid < 4096 := by unfold gidCore; omega

/-- R17: 1,024 clusters, with a matrix engine and a service core each. -/
theorem total_clusters (gid : Nat) (h : gid < 2 ^ 18) : gidCluster gid < 1024 := by unfold gidCluster; omega

/-- R17: a die has 16 clusters of its own. -/
theorem total_clusters_of_die (d c : Nat) : c ∈ clustersOf d ↔ c / 16 = d := by
  simp only [clustersOf, List.mem_map, List.mem_range]
  exact ⟨fun ⟨i, h, e⟩ => by omega, fun h => ⟨c % 16, by omega, by omega⟩⟩

/-- R17: 64 dies, with a distributor each. -/
theorem total_dies (gid : Nat) (h : gid < 2 ^ 18) : gidDie gid < 64 := by unfold gidDie; omega

/-- R17: 8,192 GB of HBM4. -/
theorem total_hbm : 64 * hbmBytes = 8192 * 10 ^ 9 := by decide

/-- R17: the L2 of a die has 65,536 sets, which hold 8 lines of 128 bytes each: 4 GiB in all. -/
theorem total_l2_sets (line : Nat) : l2Set line < 2 ^ 32 / (64 * 8 * 128) := by
  have h : ∀ pa, homeChannel pa < 64 ∧ homeBank pa < 16 ∧ homeSet pa < 64 := fun pa => by
    unfold homeChannel homeBank homeSet; omega
  have := h (128 * line)
  unfold l2Set; omega

end Sys2Proof.Laws
end

