-- ==== Sys2Proof/Tests/Slice0.lean ====
section
/-!
SUPPORT. Tests of the model, each expected value from the words of the spec, and for every obligation that has hypotheses a
state that meets them.
-/

namespace Sys2Proof.Tests

open Sys2Proof Sys2Proof.Machine

set_option Elab.async false

/-- The fragment of the probe group. -/
def frag0 : Frag :=
  { pc := 0x1004, hdr := 0x1000, inClause := true, reread := false, words := probeWords 32 0, mask := BitVec.ofNat 1024 (2 ^ 32 - 1),
    fmt := 0, join := none, state := .ready, hold := .none, windows := [], replay := 0, stamp := 0, run := 0, call := none }

/-- A module in which fragment `f` of the group `g` is issuing, at identity 0. -/
def issuing (g : Group) (f : Frag) : State :=
  { State.reset.place (probeWords 32 0) with cur := some ⟨0, 0⟩, groups := [(0, { g with frags := [(0, f)] })] }

/-- The probe group: 32 lanes, 128 registers. -/
def group0 : Group := probeGroup (probeWords 32 0)

/-- That module with nothing else about it. -/
def s0 : State := issuing group0 frag0

/-- Its issuing fragment. -/
def c0 : Ctx := ⟨0, 0, { group0 with frags := [(0, frag0)] }, frag0⟩

/-- The probe group with registers: (lane, register, data, S), scalars and predicates. -/
def regs0 (v : List (Nat × Nat × Nat × Bool)) (s : List (Nat × Nat)) (p : List (Nat × Nat)) : Group :=
  let g := v.foldl (fun g e => g.setV e.1 e.2.1 ⟨BitVec.ofNat 32 e.2.2.1, e.2.2.2⟩) group0
  let g := s.foldl (fun g e => g.setS e.1 (BitVec.ofNat 64 e.2)) g
  p.foldl (fun g e => { g with p := g.p.put e.1 (BitVec.ofNat 1024 e.2) }) g

/-- What a group of the next state says, if there is one. -/
def after (o : Host.Outcome State Fault Refusal) (k : State → Group → Bool) : Bool :=
  match o with
  | .next t => ((t.group? 0).map (k t)).getD false
  | _ => false

/-- What the next state says. -/
def next? (o : Host.Outcome State Fault Refusal) (k : State → Bool) : Bool :=
  match o with
  | .next t => k t
  | _ => false

theorem issues_of {s : State} {c : Ctx} {regs : List Nat} {guard : Nat} {ctr : Option Nat} (h : s.ctx? = some c) (hw : c.f.windows = [])
    (hr : ∀ r ∈ regs, r < c.g.regs) (hg : c.guarded guard ≠ 0) (hc : ∀ k < 3, s.counter c.gid c.g k < counterLimit k)
    (hk : ∀ k, ctr = some k → k < 3) : Issues s c regs guard ctr where
  resident := h
  windows := by simp [hw]
  exist := hr
  settled := by simp [hw]
  guarded := hg
  room k e := hc k (hk k e)

theorem guarded0 : c0.guarded 0 ≠ 0 := by decide +kernel

theorem witness_issues (regs : List Nat) (hr : ∀ r ∈ regs, r < 128) (ctr : Option Nat) (hk : ∀ k, ctr = some k → k < 3) :
    Issues s0 c0 regs 0 ctr :=
  issues_of rfl rfl hr guarded0 (by decide +kernel) hk

/-! ### Words of the spec (R161, R170, and the encoded words of R207, R205, R226, R237, R240, R247, R251, R257) -/

theorem test_decode_scalar : decode 0x11500000 none = .ok (.smovi 20 0) ∧ decode 0x01596500 none = .ok (.sadd 22 22 20)
    ∧ decode 0x10500001 none = .ok (.saddi 20 1) ∧ decode 0x0CE14542 none = .ok (.scmp 56 20 21 2) := by decide
theorem test_decode_control : decode 0x193FFFFC none = .ok (.brc 1 0x1FFFFC) ∧ decode 0x1C000003 none = .ok (.call 3)
    ∧ decode 0x29000000 none = .ok .exit ∧ decode 0x1D03F000 none = .ok (.ret 63) ∧ decode 0x2A600404 none = .ok (.sysc 3 8 4) := by decide
theorem test_decode_vector : decode 0x5D004102 none = .ok (.vcomp 1 2 0 2) ∧ decode 0x7900C106 none = .ok (.fcvt 0 3 2 0 0 6)
    ∧ decode 0x78004184 none = .ok (.fcmp 0 0 1 3 4) ∧ decode 0x7C014186 none = .ok (.frnd 0 5 3 0 0 6) := by decide
theorem test_decode_memory : decode 0x17581003 none = .ok (.sst 22 1 0 0 3) ∧ decode 0xA0041067 none = .ok (.ld 0 2 4 6 7)
    ∧ decode 0xA4003087 none = .ok (.pst 0 12 8 7) ∧ decode 0xAD0050F9 none = .ok (.atom 0 0 20 0 3 3 9)
    ∧ decode 0xB1014001 none = .ok (.cpy 20 1) := by decide
/-- An MLOOP of R283 with sa = 40: opcode 0xD3, S3, every other field 0. -/
theorem test_decode_matrix : decode (0xD3000000 ||| (40 <<< 12)) none = .ok (.mloop 40) := by decide
theorem test_decode_rejects : decode 0x01596501 none = .error (.reserved 1) ∧ decode 0x30000000 none = .error (.unassigned 0x30)
    ∧ decode 0x00000001 none = .error (.reserved 0) ∧ decode 0xFF000000 none = .error (.unassigned 0xFF)
    ∧ decode 0x13000000 none = .error (.truncated 0x13) := by decide
/-- R155, R156, R161: the header of sum8's first clause passes the clause check, and a branch that does not end its clause does not. -/
theorem test_clause_check : clauseOk [0xA0FFFF03, 0x11500000, 0x11580000, 0x11540008] = true
    ∧ clauseOk [0xA0FFFF02, 0x18000002, 0x11580000] = false := by decide +kernel

/-! ### Ill-formed terms -/

theorem test_wellFormed_refuses : [Instr.smulh 1 1 1 3, .sshr 1 1 1 2, .smin 1 1 1 2, .smax 1 1 1 2, .scmp 1 1 1 10, .sld 1 1 1 6 0 0, .sld 1 1 1 0 1 3,
    .sst 1 1 1 6 0, .brc 0 1, .rdsrScalar 1 1, .rdsrScalar 1 0x13, .rdsrLane 0 1 2, .wrsr 1 9, .vcmp 0 10 1 1 1, .vcmpl 0 10 1 1 1, .fcmp 0 7 1 1 1,
    .fcmpl 0 7 1 1 1, .vshli 0 1 1 32, .vshri 0 1 1 32, .vsari 0 1 1 32, .vscan 0 1 1 0 6, .plog 0 8 1 1 1, .fcvt 0 1 1 0 0 0, .fcvt 0 1 1 1 0 8,
    .fcvt 0 1 1 0 1 1, .frnd 0 1 1 0 0 12, .frnd 0 1 1 0 1 1, .fmxs 0 1 1 0 2, .fmxs 0 1 1 1 1].all (fun i => !i.wellFormed) = true := by decide +kernel
theorem test_wellFormed_refuses_memory : [Instr.ldg 0 0 1 1 12, .stg 0 1 1 12, .pst 0 1 1 12, .pst 0 1 62 0, .ldmx 0 0 1 1 2, .ldmx 0 0 1 63 3,
    .stmx 0 1 1 8, .stmx 0 1 63 3, .ldacq 0 0 1 1 0, .strel 0 1 1 6, .fence 0, .cinv 1 1 1 6, .cflush 1 1 1 0, .icinv 1 1 6, .atom 0 0 1 0 6 1 0,
    .atom 0 0 1 0 1 0 0, .atom 0 0 1 1 1 1 0, .atom 0 0 1 1 0 0 8, .atom 0 0 1 0 0 0 11, .atom 0 0 1 0 0 0 10, .atoms 0 0 1 0 0 0 12,
    .fatom 0 0 1 0 0 0 13, .cpy 59 0, .fupd 1 1 1 2 0, .fupd 1 1 1 0 7, .fupd 1 1 1 1 3, .mrd 0 0 1 1 2].all (fun i => !i.wellFormed) = true := by
  decide +kernel
theorem test_wellFormed_refuses_payloads : (Instr.pushDelivery 0 0 0 0 0 true false []).wellFormed = false
    ∧ (Instr.fillGrantReceived 0 0 true 0 []).wellFormed = false ∧ (Instr.tenantSwitch 0 []).wellFormed = false
    ∧ (Instr.gangRestorePlacement 0 []).wellFormed = false ∧ (Instr.lodeReadRequest 0 0 0 129).wellFormed = false
    ∧ (Instr.lodeWriteRequest 0 0 0 0 []).wellFormed = false ∧ (Instr.sluiceScrub 0 [1]).wellFormed = false
    ∧ (Instr.attestationReport 0 [] 0 0).wellFormed = false ∧ (Instr.frameReceive 0 (List.replicate 9019 0)).wellFormed = false := by decide +kernel

/-! ### One instruction on a small state -/

/-- R183: s9 := s9 + 1 with s9 = 4, and the wrap of 2^64 − 1 + 1. -/
theorem test_sadd : after (exec (.sadd 9 9 10) (issuing (regs0 [] [(9, 4), (10, 1)] []) frag0)) (fun _ g => g.sreg 9 == 5) = true
    ∧ after (exec (.sadd 9 9 10) (issuing (regs0 [] [(9, 2 ^ 64 - 1), (10, 1)] []) frag0)) (fun _ g => g.sreg 9 == 0) = true := by decide +kernel
/-- R58, R183: a write to s0 is discarded, and the pc moves on. -/
theorem test_write_s0 : after (exec (.smovi 0 5) s0) (fun _ g => g.sreg 0 == 0 && (g.frags.find 0).map (·.pc) == some 0x1008) = true := by decide +kernel
/-- R184: SMULH of −1 and −1 is 0 signed and 2^64 − 2 unsigned. -/
theorem test_smulh : after (exec (.smulh 3 1 1 0) (issuing (regs0 [] [(1, 2 ^ 64 - 1)] []) frag0)) (fun _ g => g.sreg 3 == 0) = true
    ∧ after (exec (.smulh 3 1 1 1) (issuing (regs0 [] [(1, 2 ^ 64 - 1)] []) frag0)) (fun _ g => g.sreg 3 == 0xFFFFFFFFFFFFFFFE) = true := by
  decide +kernel
/-- R184: the shift amount is sb[5:0]. -/
theorem test_sshl : after (exec (.sshl 3 1 2) (issuing (regs0 [] [(1, 1), (2, 65)] []) frag0)) (fun _ g => g.sreg 3 == 2) = true := by decide +kernel
theorem test_sshr_a : after (exec (.sshr 3 1 2 1) (issuing (regs0 [] [(1, 2 ^ 63), (2, 63)] []) frag0)) (fun _ g => g.sreg 3 == 0xFFFFFFFFFFFFFFFF) = true := by
  decide +kernel
/-- R184: lt compares as signed, ltu as unsigned. -/
theorem test_scmp : after (exec (.scmp 3 1 2 2) (issuing (regs0 [] [(1, 2 ^ 64 - 1), (2, 0)] []) frag0)) (fun _ g => g.sreg 3 == 1) = true
    ∧ after (exec (.scmp 3 1 2 6) (issuing (regs0 [] [(1, 2 ^ 64 - 1), (2, 0)] []) frag0)) (fun _ g => g.sreg 3 == 0) = true := by decide +kernel
theorem test_sclz_spop : after (exec (.sclz 3 1) (issuing (regs0 [] [(1, 1)] []) frag0)) (fun _ g => g.sreg 3 == 63) = true
    ∧ after (exec (.spop 3 0) s0) (fun _ g => g.sreg 3 == 0) = true := by decide +kernel
/-- R185: SLUI of −1 shifts in the sign. -/
theorem test_slui : after (exec (.slui 3 0x3FFFF) s0) (fun _ g => g.sreg 3 == 0xFFFFFFFFFFFC0000) = true := by decide +kernel
/-- R186: SMOVL sign-extends, SMOVHL keeps the low half. -/
theorem test_smovl_smovhl : after (exec (.smovl 3 0x80000000) s0) (fun _ g => g.sreg 3 == 0xFFFFFFFF80000000) = true
    ∧ after (exec (.smovhl 1 0x12345678) (issuing (regs0 [] [(1, 2 ^ 64 - 1)] []) frag0)) (fun _ g => g.sreg 1 == 0x12345678FFFFFFFF) = true := by
  decide +kernel
/-- R207: BRC at 0x2020 with offset −4 goes to 0x2010; CALL at 0x2028 writes s63 := 0x202C and goes to 0x2034. -/
theorem test_brc : after (exec (.brc 1 0x1FFFFC) (issuing (regs0 [] [(56, 1)] []) { frag0 with pc := 0x2020 }))
    (fun _ g => (g.frags.find 0).map (·.pc) == some 0x2010) = true
    ∧ after (exec (.brc 1 0x1FFFFC) (issuing group0 { frag0 with pc := 0x2020 })) (fun _ g => (g.frags.find 0).map (·.pc) == some 0x2024) = true := by
  decide +kernel
theorem test_call : after (exec (.call 3) (issuing group0 { frag0 with pc := 0x2028 }))
    (fun _ g => g.sreg 63 == 0x202C && (g.frags.find 0).map (·.pc) == some 0x2034) = true := by decide +kernel
/-- R33, R191: a BRV taken in lane 0 alone splits the fragment; the taken lane keeps the entry. -/
theorem test_brv : after (exec (.brv 1 4 8) (issuing (regs0 [] [] [(1, 1)]) frag0)) (fun _ g => g.frags.length == 2 && g.joins.length == 1
    && (g.frags.find 0).map (fun f => (f.mask == 1, f.pc)) == some (true, 0x1014) && (g.frags.find 1).map (·.pc) == some 0x100C) = true := by decide +kernel
/-- R196: with s10 = 1 and s11 = 7, FMTSET sets RM to RTZ and returns the old fmt. -/
theorem test_fmtset : after (exec (.fmtset 9 10 11) (issuing (regs0 [] [(10, 1), (11, 7)] []) { frag0 with fmt := 0x00300008 }))
    (fun _ g => g.sreg 9 == 0x00300008 && (g.frags.find 0).map (·.fmt) == some 0x00300009) = true := by decide +kernel
/-- R59, R196: RM 5 is reserved: the illegal-encoding fault, nothing written. -/
theorem test_fmtset_illegal : after (exec (.fmtset 9 10 11) (issuing (regs0 [] [(10, 5), (11, 7)] []) frag0))
    (fun _ g => g.sreg 9 == 0 && g.halt.map (·.cause) == some 0x02 && (g.frags.find 0).map (·.pc) == some 0x1004) = true := by decide +kernel
/-- R197: sr.lane per lane, and the group identity of RDSR. -/
theorem test_rdsr : after (exec (.rdsrLane 0 4 0) s0) (fun _ g => (g.vreg 31 4).data == 31) = true
    ∧ after (exec (.rdsrScalar 4 0x10) s0) (fun _ g => g.sreg 4 == 32) = true := by decide +kernel
/-- R57, R199. -/
theorem test_idxset : after (exec (.idxset 1 1) (issuing (regs0 [] [(1, 0xAF20)] []) frag0))
    (fun _ g => g.idxEn 1 && g.idxLo 1 == 32 && g.idxHi 1 == 47) = true := by decide +kernel
/-- R206: a BRK halts after itself, class 1 cause 0x0C. -/
theorem test_brk : after (exec (.brk 7) s0) (fun _ g => g.halt.map (fun h => (h.cls, h.cause)) == some (1, 0x0C)
    && (g.frags.find 0).map (·.pc) == some 0x1008) = true := by decide +kernel
/-- R172: an unassigned opcode is the illegal-instruction trap, and the pc stays. -/
theorem test_unassigned : after (exec (.unassignedOpcode 0x30000000) s0) (fun t g => g.halt.map (·.cause) == some 0x03
    && (g.frags.find 0).map (·.pc) == some 0x1004 && (t.die 0).seq == 1) = true := by decide +kernel
/-- R205: SYSC waits in call-wait, with a call record for its lanes. -/
theorem test_sysc : after (exec (.sysc 0 8 4) s0) (fun t g => (g.frags.find 0).map (fun f => f.state == .callWait && f.pc == 0x1004) == some true
    && (t.cluster 0).handles.length == 1) = true := by decide +kernel

/-- R208: VADD wraps, and leaves a guarded-off lane. -/
theorem test_vadd : after (exec (.vadd 1 3 1 2) (issuing (regs0 [(0, 1, 0xFFFFFFFF, false), (0, 2, 2, false), (1, 1, 5, false)] [] [(1, 1)]) frag0))
    (fun _ g => (g.vreg 0 3).data == 1 && (g.vreg 1 3).data == 0) = true := by decide +kernel
/-- R209: a computing instruction that reads S = 1 sets IO and writes S = 0. -/
theorem test_vadd_inexact : after (exec (.vadd 0 3 1 2) (issuing (regs0 [(0, 1, 1, true)] [] []) frag0))
    (fun _ g => g.flags == 0x20 && (g.vreg 0 3) == ⟨1, false⟩) = true := by decide +kernel
theorem test_vmulh : after (exec (.vmulh 0 3 1 2) (issuing (regs0 [(0, 1, 0x80000000, false), (0, 2, 0x80000000, false)] [] []) frag0))
    (fun _ g => (g.vreg 0 3).data == 0x40000000) = true := by decide +kernel
theorem test_vrot : after (exec (.vrot 0 3 1 2) (issuing (regs0 [(0, 1, 0x80000001, false), (0, 2, 33, false)] [] []) frag0))
    (fun _ g => (g.vreg 0 3).data == 3) = true := by decide +kernel
/-- R219: 3 ⊗ 3 = 5, and the high half of 2^31 ⊗ 2^31 is 2^30. -/
theorem test_vclmul : after (exec (.vclmul 0 3 1 1) (issuing (regs0 [(0, 1, 3, false)] [] []) frag0)) (fun _ g => (g.vreg 0 3).data == 5) = true
    ∧ after (exec (.vclmulh 0 3 1 1) (issuing (regs0 [(0, 1, 0x80000000, false)] [] []) frag0)) (fun _ g => (g.vreg 0 3).data == 0x40000000) = true := by
  decide +kernel
/-- R220: the rows of its table: 1,000,000 and −20,480 with RNE, half away and floor. -/
theorem test_vreq : after (exec (.vreq 0 4 1 2) (issuing (regs0 [(0, 1, 1000000, false), (0, 2, 0x40000000, false), (0, 3, 0xFD0C, false),
      (1, 1, 2 ^ 32 - 20480, false), (1, 2, 0x40000000, false), (1, 3, 0xFD0C, false), (2, 1, 2 ^ 32 - 20480, false), (2, 2, 0x40000000, false),
      (2, 3, 0xFD2C, false), (3, 1, 2000000, false), (3, 2, 0x40000000, false), (3, 3, 0xFD4C, false)] [] []) frag0))
    (fun _ g => (g.vreg 0 4).data == 119 && (g.vreg 1 4).data.toInt == -5 && (g.vreg 2 4).data.toInt == -6 && (g.vreg 3 4).data == 127) = true := by
  decide +kernel
/-- R55, R214: FCVT's S moves with VMOV. -/
theorem test_vmov : after (exec (.vmov 0 9 3) (issuing (regs0 [(0, 3, 0x3FC00000, true)] [] []) frag0)) (fun _ g => g.vreg 0 9 == ⟨0x3FC00000, true⟩) = true := by
  decide +kernel
/-- R57: id1 of 32 to 47: x1 = 15 reaches v47, x1 = 16 faults. -/
theorem test_vmovx : after (exec (.vmovx 0 4 0 1 32) (issuing { regs0 [(0, 47, 9, false)] [] [] with x := [(1024, 15)], idx := [(1, 0xAF20)] } frag0))
      (fun _ g => (g.vreg 0 4).data == 9) = true
    ∧ after (exec (.vmovx 0 4 0 1 32) (issuing { group0 with x := [(1024, 16)], idx := [(1, 0xAF20)] } frag0)) (fun _ g => g.halt.isSome) = true := by
  decide +kernel

/-- The fragment of R226's example: lanes 0 to 7 of a 32-lane group. -/
def fragEight : Frag := { frag0 with mask := 0xFF }
/-- Its registers: v2 = 10 l, p2 in lanes 1, 4 and 5, v9 the ballot's mask. -/
def groupEight : Group :=
  regs0 ((List.range 8).map (fun l => (l, 2, 10 * l, false)) ++ (List.range 8).map fun l => (l, 9, 0xFF, false)) [] [(2, 0x32)]

/-- R225, R226: VCOMP writes 10, 40, 50, then 0; lanes above 7 keep theirs. -/
theorem test_vcomp : after (exec (.vcomp 1 2 0 2) (issuing groupEight fragEight))
    (fun _ g => ((List.range 8).map fun l => (g.vreg l 1).data) == [10, 40, 50, 0, 0, 0, 0, 0]) = true := by decide +kernel
theorem test_vexp : after (exec (.vexp 1 2 0 2) (issuing groupEight fragEight))
    (fun _ g => ((List.range 8).map fun l => (g.vreg l 1).data) == [0, 0, 0, 0, 10, 20, 0, 0]) = true := by decide +kernel
theorem test_ballot : after (exec (.vvote 0 3 3 2 9) (issuing groupEight fragEight)) (fun _ g => ((List.range 8).all fun l => (g.vreg l 3).data == 0x32)) = true := by
  decide +kernel
theorem test_vscan : after (exec (.vscan 0 4 2 0 0) (issuing groupEight fragEight))
      (fun _ g => ((List.range 8).map fun l => (g.vreg l 4).data) == [0, 10, 30, 60, 100, 150, 210, 280]) = true
    ∧ after (exec (.vscan 0 4 2 1 0) (issuing groupEight fragEight))
      (fun _ g => ((List.range 8).map fun l => (g.vreg l 4).data) == [0, 0, 10, 30, 60, 100, 150, 210]) = true := by decide +kernel
/-- R221: a mask that names an absent lane writes nothing and faults. -/
theorem test_ballot_absent : after (exec (.vvote 0 3 3 2 9) (issuing (groupEight.setV 0 9 ⟨0x1FF, false⟩) fragEight))
    (fun _ g => g.halt.isSome && (g.vreg 1 3).data == 0) = true := by decide +kernel

/-- R237: FCVT.e3m2 of 0.2, the undecided FCMP, and FRND.e3m2. -/
theorem test_fcvt : after (exec (.fcvt 0 3 2 0 0 6) (issuing (regs0 [(0, 2, 0x3E4CCCCD, false)] [] []) frag0))
    (fun _ g => g.vreg 0 3 == ⟨0x3E500000, true⟩ && g.flags == 0) = true := by decide +kernel
theorem test_fcmp_undecided : after (exec (.fcmp 0 0 1 3 4) (issuing (regs0 [(0, 3, 0x3E500000, true), (0, 4, 0x3E500000, false)] [] []) { frag0 with mask := 1 }))
    (fun _ g => (g.pred 1).getLsbD 0 == false && g.flags == 0x40) = true := by decide +kernel
theorem test_frnd : after (exec (.frnd 0 5 3 0 0 6) (issuing (regs0 [(0, 3, 0x3E500000, true)] [] []) { frag0 with mask := 1 }))
    (fun _ g => g.vreg 0 5 == ⟨0x3E400000, false⟩) = true := by decide +kernel
/-- R134: 1.0 + 1.0 = 2.0, and 1 / 2 by FRCP is exact (R228). -/
theorem test_fadd : after (exec (.fadd 0 3 1 1) (issuing (regs0 [(0, 1, 0x3F800000, false)] [] []) { frag0 with mask := 1 }))
    (fun _ g => (g.vreg 0 3).data == 0x40000000 && g.flags == 0) = true := by decide +kernel
theorem test_frcp : after (exec (.frcp 0 3 1) (issuing (regs0 [(0, 1, 0x40000000, false)] [] []) { frag0 with mask := 1 }))
    (fun _ g => (g.vreg 0 3).data == 0x3F000000 && g.flags == 0) = true := by decide +kernel
/-- R228: FEXP2 of an integer and FLOG2 of a power of two are exact. -/
theorem test_fexp2 : after (exec (.fexp2 0 3 1) (issuing (regs0 [(0, 1, 0x40400000, false)] [] []) { frag0 with mask := 1 }))
    (fun _ g => (g.vreg 0 3).data == 0x41000000 && g.flags == 0) = true := by decide +kernel
theorem test_flog2 : after (exec (.flog2 0 3 1) (issuing (regs0 [(0, 1, 0x41000000, false)] [] []) { frag0 with mask := 1 }))
    (fun _ g => (g.vreg 0 3).data == 0x40400000 && g.flags == 0) = true := by decide +kernel
/-- R146: FMIN(−0, +0) is −0. -/
theorem test_fmin : after (exec (.fmin 0 3 1 2) (issuing (regs0 [(0, 1, 0x80000000, false)] [] []) { frag0 with mask := 1 }))
    (fun _ g => (g.vreg 0 3).data == 0x80000000 && g.flags == 0) = true := by decide +kernel
/-- R143: 7.625 with S = 1 and 7.75 as E2M3 codes. -/
theorem test_store_rounding : storeElem 12 0 false ⟨0x40F40000, true⟩ = (0x1F, 0x01) ∧ storeElem 12 0 false ⟨0x40F80000, false⟩ = (0x1F, 0x05)
    ∧ storeElem 13 0 false ⟨0x3E500000, true⟩ = (0x03, 0x03) ∧ storeElem 13 0 false ⟨0xBC800000, true⟩ = (0x20, 0x03)
    ∧ storeElem 13 3 false ⟨0xBC800000, true⟩ = (0x21, 0x03) := by decide +kernel

/-- R258: PGSET s9, #0 with s30 = 37 and s31 = 0b1010 makes s9 = 0x825A. -/
theorem test_pgset : after (exec (.pgset 9 30 31 0) (issuing (regs0 [] [(30, 37), (31, 10)] []) frag0)) (fun _ g => g.sreg 9 == 0x825A) = true := by decide +kernel
/-- R238: a misaligned SLD takes the alignment fault with its address. -/
theorem test_sld_misaligned : after (exec (.sld 3 1 0 0 0 2) (issuing (regs0 [] [(1, 0x2002)] []) frag0)) (fun _ g => g.halt.map (·.cause) == some 0x0A) = true := by
  decide +kernel
/-- R62: an SST enters the store queue. -/
theorem test_sst : after (exec (.sst 22 1 0 0 3) (issuing (regs0 [] [(1, 0x2000), (22, 28)] []) frag0)) (fun t g => t.sc g == 1) = true := by decide +kernel
/-- R240: lane 40 of a 64-lane LD.f32 is not shut out: 32 lanes name 32 words. -/
theorem test_ld : after (exec (.ld 0 2 4 6 7) (issuing (regs0 [] [(6, 0x2000)] []) frag0))
    (fun _ g => (g.loads.map fun o => (o.lanes.length, (o.lanes.getLast?.map fun a => a.spans.map (·.va)))) == [(32, some [0x207C])]) = true := by decide +kernel
/-- R254: BCOMMIT writes the batch it closes. -/
theorem test_bcommit : after (exec (.bcommit 5) s0) (fun _ g => g.sreg 5 == 1 && g.ob == 2 && g.cb == 1) = true := by decide +kernel
/-- R283: a descriptor that is all 0 has steps 0, which the parameter check names. -/
theorem test_mloop_bad : after (exec (.mloop 40) s0) (fun _ g => g.halt.map (fun h => (h.cls, h.cause)) == some (0x10, 1)) = true := by decide +kernel
/-- R286: a tile with no loop reads its header bits alone. -/
theorem test_mstat : after (exec (.mstat 5 1) (issuing (regs0 [] [(5, 7)] []) frag0)) (fun _ g => g.sreg 5 == 0) = true := by decide +kernel

/-! ### States that meet the hypotheses of the statements: instructions -/

/-- The issuing fragment of `issuing g f`. -/
def cAt (g : Group) (f : Frag) : Ctx := ⟨0, 0, { g with frags := [(0, f)] }, f⟩

theorem issues_at {g : Group} {f : Frag} {regs : List Nat} {guard : Nat} {ctr : Option Nat} (hw : f.windows = []) (hr : ∀ r ∈ regs, r < g.regs)
    (hg : (cAt g f).guarded guard ≠ 0) (hc : ∀ k < 3, (issuing g f).counter 0 (cAt g f).g k < counterLimit k)
    (hk : ∀ k, ctr = some k → k < 3) : Issues (issuing g f) (cAt g f) regs guard ctr :=
  issues_of rfl hw hr hg hc hk

theorem of_lanes {c : Ctx} {guard : Nat} {P : Nat → Prop} (h : ∀ l ∈ c.lanes guard, P l) (l : Nat) (hl : c.Lane guard l) : P l :=
  h l (lanesOf_mem.2 ⟨hl.2, hl.1⟩)

/-- Every register of every form, every counter, no trap enabled. -/
theorem witness_of_the_result_statements : Issues s0 c0 (List.range 128) 0 none ∧ c0.te = 0 ∧ c0.f.call = none ∧ c0.fc = 0 :=
  ⟨witness_issues _ (by simp) _ (by simp), by decide +kernel⟩
theorem witness_of_the_access_statements : (∀ k < 3, Issues s0 c0 (List.range 128) 0 (some k)) ∧ (s0.grantOf 0 c0.g).2 = 4096
    ∧ (∀ l ∈ c0.lanes 0, (0x2000 + 4 * l) % 4 = 0) ∧ (∃ l ∈ c0.lanes 0, (0x2001 + 4 * l) % 4 ≠ 0) ∧ ∃ l ∈ c0.lanes 0, 4096 < 4096 + 4 * l :=
  ⟨fun _ h => witness_issues _ (by simp) _ (by simp [h]), by decide +kernel, by decide +kernel, by decide +kernel, by decide +kernel⟩

/-- O2: the ends of the range of an SLUI and an SADDI. -/
theorem witness_ScalarImmediatesAndLiterals : (-(2 ^ 35) - 2 ^ 17 : Int) ≤ 2 ^ 35 - 2 ^ 18 + 2 ^ 17 - 1
    ∧ ((0x20000 : BitVec 18).signExtend 64 <<< 18 + (0x20000 : BitVec 18).signExtend 64).toInt = -(2 ^ 35) - 2 ^ 17
    ∧ ((0x1FFFF : BitVec 18).signExtend 64 <<< 18 + (0x1FFFF : BitVec 18).signExtend 64).toInt = 2 ^ 35 - 2 ^ 18 + 2 ^ 17 - 1 := by decide

/-- A reserved rnd in lane 0. -/
def reqBad : Group := regs0 [(0, 3, 0x60, false)] [] []

/-- O5: a legal parameter word, and a reserved one in lane 0. -/
theorem witness_VreqRequantises : (∀ l, c0.Lane 0 l → (c0.g.vreg l 3).data.extractLsb' 16 16 = 0 ∧ (c0.g.vreg l 3).data.extractLsb' 5 2 ≠ 3)
    ∧ (∃ l, (cAt reqBad frag0).Lane 0 l ∧ ((cAt reqBad frag0).g.vreg l 3).data.extractLsb' 5 2 = 3)
    ∧ Issues (issuing reqBad frag0) (cAt reqBad frag0) [4, 1, 2, 3] 0 none :=
  ⟨of_lanes (by decide +kernel), ⟨0, ⟨by decide +kernel, by decide +kernel⟩, by decide +kernel⟩,
    issues_at rfl (by decide +kernel) (by decide +kernel) (by decide +kernel) (by simp)⟩

/-- v9 of lane 0 names an absent lane, and in a second group an absent row. -/
def groupAbsent : Group := groupEight.setV 0 9 ⟨0x108, false⟩
def groupNoRow : Group := regs0 [(0, 9, 3, false)] [] []
/-- id1 of 32 to 47 with x1 = 16 in lane 1. -/
def groupBadIndex : Group := { regs0 [] [] [] with x := [(1025, 16)], idx := [(1, 0xAF20)] }

/-- Whether an instruction ends in a trap of a cause with a detail. -/
def trapped (o : Out) (g : Group) (f : Frag) (cause detail : Nat) : Bool :=
  match o with
  | .next t => decide (t = (issuing g f).trap (cAt g f) cause 0 detail)
  | _ => false

/-- R57, R221, R377: an index of 48 in lane 1, a shuffle from lane 264, and votes that name lane 8 and row 1. -/
theorem test_bad_members :
    trapped (exec (.vmovx 0 4 0 1 32) (issuing groupBadIndex fragEight)) groupBadIndex fragEight 0x05 (1 + 65536 * 48) = true
    ∧ trapped (exec (.vshfl 0 3 2 9) (issuing groupAbsent fragEight)) groupAbsent fragEight 0x08 (65536 * 264) = true
    ∧ trapped (exec (.vvote 0 3 0 2 9) (issuing groupAbsent fragEight)) groupAbsent fragEight 0x08 (65536 * 8) = true
    ∧ trapped (exec (.vvoteW 0 3 0 2 9) (issuing groupNoRow fragEight)) groupNoRow fragEight 0x08 (65536 * 1) = true := by
  decide +kernel

/-- O8: id1 of 32 to 47 with x1 = 15, the last register, and with 16; every lane that is named is active, or lane 0 alone names one that is not. -/
theorem witness_LanesReadOtherRegistersAndLanes :
    (let c := cAt { regs0 [] [] [] with x := [(1024, 15)], idx := [(1, 0xAF20)] } { frag0 with mask := 1 }
     c.g.idxEn 1 = true ∧ (∀ l ∈ c.activeLanes, c.g.idxLo 1 ≤ (c.g.xreg l 1).toNat + 32 ∧ (c.g.xreg l 1).toNat + 32 ≤ c.g.idxHi 1
      ∧ (c.g.xreg l 1).toNat + 32 < c.g.regs ∧ ∀ w ∈ c.f.windows, (c.g.xreg l 1).toNat + 32 ∉ w.regs))
    ∧ (∀ l, c0.Lane 0 l → c0.f.mask.getLsbD ((c0.vd l 1).extractLsb' 0 10).toNat = true)
    ∧ (∀ l < 1024, c0.active.getLsbD l = true → c0.f.mask.getLsbD l = true)
    ∧ (let c := cAt groupBadIndex fragEight
       1 ∈ c.activeLanes ∧ c.g.idxHi 1 < (c.g.xreg 1 1).toNat + 32 ∧ c.g.idxEn 1 = true ∧ c.f.windows = [] ∧ (∀ m ∈ c.activeLanes, m < 1 →
         c.g.idxLo 1 ≤ (c.g.xreg m 1).toNat + 32 ∧ (c.g.xreg m 1).toNat + 32 ≤ c.g.idxHi 1 ∧ (c.g.xreg m 1).toNat + 32 < c.g.regs))
    ∧ (let c := cAt groupAbsent fragEight
       0 ∈ c.lanes 0 ∧ c.f.mask.getLsbD ((c.vd 0 9).extractLsb' 0 10).toNat = false ∧ ∀ m ∈ c.lanes 0, ¬m < 0) :=
  ⟨by decide +kernel, of_lanes (by decide +kernel), by decide +kernel, by decide +kernel, by decide +kernel⟩

/-- O9: lanes 0 to 7 name one another, and the one row; lane 0 names lane 8, and row 1. -/
theorem witness_VotesOverTheirMembers :
    (∀ l, l ∈ (cAt groupEight fragEight).lanes 0 → ∀ m ∈ voteMembers (cAt groupEight fragEight) false 9 l, fragEight.mask.getLsbD m = true)
    ∧ voteMembers (cAt groupEight fragEight) false 9 0 = [0, 1, 2, 3, 4, 5, 6, 7]
    ∧ (∀ l < 8, ∀ k < 32, ((cAt (regs0 ((List.range 8).map fun l => (l, 9, 1, false)) [] []) fragEight).vd l 9).getLsbD k = true → k = 0)
    ∧ (let c := cAt groupAbsent fragEight
       0 ∈ c.lanes 0 ∧ 8 ∈ voteMembers c false 9 0 ∧ c.f.mask.getLsbD 8 = false ∧ ∀ k < 8, ¬(k ∈ voteMembers c false 9 0 ∧ c.f.mask.getLsbD k = false))
    ∧ (let c := cAt groupNoRow fragEight
       0 ∈ c.lanes 0 ∧ (c.vd 0 9).getLsbD 1 = true ∧ (∀ m < 1024, m / 32 = 1 → c.f.mask.getLsbD m = false) ∧ c.f.mask.getLsbD 0 = true) := by
  decide +kernel

/-- O13: 0.2, the integer 13, 0.203125 inexact, ones and infinities, in every lane. -/
theorem witness_ConversionsToTheSelectedFormat :
    ∀ v ∈ [(0x3E4CCCCD, false), (13, false), (0x3E500000, true), (0x3F800000, false), (0x7F800000, false)],
      let g := regs0 ((List.range 32).map fun l => (l, 2, v.1, v.2)) [] []
      Issues (issuing g frag0) (cAt g frag0) [3, 2] 0 none ∧ (cAt g frag0).rm = 0 ∧ (cAt g frag0).sat = false ∧ 0 ∈ (cAt g frag0).lanes 0
        ∧ (∀ l ∈ (cAt g frag0).lanes 0, (cAt g frag0).v l 2 = ⟨BitVec.ofNat 32 v.1, v.2⟩)
        ∧ ∀ l < 1024, (cAt g frag0).active.getLsbD l = true → (cAt g frag0).vd l 2 = BitVec.ofNat 32 v.1 := by
  intro v hv
  simp only [List.mem_cons, List.not_mem_nil, or_false] at hv
  rcases hv with rfl | rfl | rfl | rfl | rfl <;>
    exact ⟨issues_at rfl (by decide +kernel) (by decide +kernel) (by decide +kernel) (by simp), by decide +kernel⟩

/-- O14: BRV in every lane, in none, in lane 0 alone, with the group's entries gone, and with the core's pool nearly so; a split fragment that
waits with and without room. -/
theorem witness_BranchesMoveAndSplitFragments :
    (∀ i < 1024, frag0.mask.getLsbD i = true → (c0.g.pred 0).getLsbD i = true)
    ∧ (c0.g.pred 1 = 0 ∧ c0.f.mask ≠ 0) ∧ c0.g.frags.firstFree 32 = some 1 ∧ c0.g.joins.firstFree 31 = some 0
    ∧ (let c := cAt { regs0 [] [] [(1, 1)] with joins := (List.range 31).map fun j => (j, ⟨0, 0, none, 2⟩) } frag0
       31 ≤ c.g.joins.length ∧ (c.g.pred 1).getLsbD 0 = true ∧ (c.g.pred 1).getLsbD 1 = false)
    ∧ s0.poolUsed 0 + 2 ≤ 128
    ∧ (let s : State := { s0 with groups := s0.groups ++ (List.range 4).map fun i => (i + 1, { group0 with frags := (List.range 32).map fun k => (k, frag0) }) }
       128 < s.poolUsed 0 + 2)
    ∧ ((issuing group0 { frag0 with state := .splitWait }).group? 0).isSome = true := by
  decide +kernel

/-- A ready fragment of lane 31 beside the issuing one, which holds the others. -/
def frag1 : Frag := { frag0 with mask := BitVec.ofNat 1024 (2 ^ 31) }
/-- The module with both, and a join entry. -/
def two (st : FragState) (pending : Nat) : State :=
  { s0 with groups := [(0, { group0 with frags := [(0, { frag0 with mask := BitVec.ofNat 1024 (2 ^ 31 - 1), join := some 0 }),
                                                     (1, { frag1 with state := st, join := some 0 })], joins := [(0, ⟨0x1010, 0, none, pending⟩)] })] }

/-- O15, O16: a sibling to wait for, a sibling that has arrived, and the last fragment of a group with nothing outstanding. -/
theorem witness_JoinsAndBarriers :
    ((two .ready 2).ctx?.map fun c => (c.f.join, c.g.joins.find 0, (c.g.frags.find 1).map (·.state)))
        = some (some 0, some ⟨0x1010, 0, none, 2⟩, some .ready)
    ∧ ((two .joinWait 1).ctx?.map fun c => (c.f.join, (c.g.joins.find 0).map (·.pending), (c.g.frags.find 1).map fun f => (f.state, f.join)))
        = some (some 0, some 1, some (.joinWait, some 0))
    ∧ (∃ c, (two .ready 2).ctx? = some c ∧ Issues (two .ready 2) c [] 0 none)
    ∧ c0.f.join = none ∧ c0.g.frags = [(c0.fid, c0.f)] ∧ c0.g.halt = none ∧ s0.drained c0.g c0.g.nextOp = true ∧ c0.g.lc = 0 ∧ s0.ec c0.gid c0.g = 0 :=
  ⟨by decide +kernel, by decide +kernel,
    ⟨_, rfl, issues_of rfl (by decide +kernel) (by decide +kernel) (by decide +kernel) (by decide +kernel) (by simp)⟩, by decide +kernel⟩

/-- O17: RM 4 is the last assigned code, RM 5 and a bit of rsvd are not; flags of 8 bits and of 9. -/
theorem witness_FmtAndFlagsAreWrittenWhole : FmtAssigned 4 ∧ ¬FmtAssigned 5 ∧ FmtAssigned 0xBBB0 ∧ ¬FmtAssigned 0xC00 ∧ ¬FmtAssigned 0x1000000
    ∧ (255 : Dword).extractLsb' 8 56 = 0 ∧ (256 : Dword).extractLsb' 8 56 ≠ 0 := by
  unfold FmtAssigned; decide +kernel

/-- O18: the first and the last number of the scalar form. -/
theorem witness_SpecialRegistersReadAndIndexSet : Issues s0 c0 [] 0 none ∧ 2 ≤ (2 : BitVec 6).toNat ∧ (0x12 : BitVec 6).toNat ≤ 0x12 :=
  ⟨witness_issues _ (by simp) _ (by simp), by decide, by decide⟩

/-- A load of the group that is not complete. -/
def load0 : LoadOp :=
  { id := 0, frag := 0, pc := 0x1004, kind := .typed 0, rd := 4, base := 0x2000, lanes := [], fmt := 0, acq := none, rel := none, hdr := 0x1000,
    window := 0, opened := true, poisonSeq := none }

/-- O19, O26: with everything performed, with a load outstanding, at depths 9 and 10. -/
theorem witness_CallsFencesAndLaunches : s0.drained c0.g c0.upto = true
    ∧ (issuing { group0 with loads := [load0], nextOp := 1 } frag0).drained (cAt { group0 with loads := [load0], nextOp := 1 } frag0).g
        (cAt { group0 with loads := [load0], nextOp := 1 } frag0).upto = false
    ∧ Issues (issuing { group0 with loads := [load0], nextOp := 1 } frag0) (cAt { group0 with loads := [load0], nextOp := 1 } frag0) [8] 0 none
    ∧ (9 : BitVec 4).toNat ≠ 10 ∧ (cAt { group0 with depth := 10 } frag0).g.depth.toNat = 10 ∧ c0.g.lag = 0
    ∧ (15 ≤ (cAt { group0 with ob := 17, cb := 1 } frag0).g.lag) ∧ (∀ m, c0.f.hold ≠ .batch m)
    ∧ (let g := { group0 with ob := 2, cb := 0 }
       0x8000 ≤ ((cAt g frag0).g.cb - 1).toNat ∧ ((0 : BitVec 16) - 0).toNat < 0x8000) :=
  ⟨by decide +kernel, by decide +kernel, issues_at rfl (by decide) (by decide +kernel) (by decide +kernel) (by simp), by decide, by decide +kernel,
    by decide +kernel, by decide +kernel, by simp [c0, frag0], by decide +kernel⟩

/-- O20: a group that is not halted, one whose halt has posted its record and one whose has not; a slot that is free and one that is held; an
overflow whose trap is enabled. -/
theorem witness_ExceptionsRecordAndHalt : (s0.group? 0).map (·.halt) = some none ∧ FormsNew s0 (gidDie 0)
    ∧ ((issuing { group0 with halt := some ⟨0, 0, 0, true, false⟩ } frag0).group? 0).map (fun g => g.halt.map (·.posted)) = some (some false) ∧ (s0.die 0).undelivered.has (((s0.die 0).seq + 1) % 4096) = false
    ∧ ((issuing { group0 with halt := some ⟨1, 3, 0, false, true⟩ } frag0).group? 0).map (fun g => g.halt.isSome) = some true
    ∧ (({ s0 with dies := [(0, { Die.reset 0 with undelivered := [(1, 1)] })] } : State).die 0).undelivered.has
        ((({ s0 with dies := [(0, { Die.reset 0 with undelivered := [(1, 1)] })] } : State).die 0).seq + 1) = true
    ∧ (let g := regs0 [(0, 1, 1, true)] [] []
       (cAt g { frag0 with fmt := 0x00200000 }).ioFlag ((cAt g { frag0 with fmt := 0x00200000 }).lanes 0) [1, 2]
         &&& (cAt g { frag0 with fmt := 0x00200000 }).te ≠ 0) := by
  unfold FormsNew
  decide +kernel

/-- O23: a packed element at the low and the high end of its bytes. -/
theorem witness_VectorStoresNameTheirWrites : c0.storeFlags 7 (c0.lanes 0) 4 &&& c0.te = 0 ∧ c0.sdFlag (c0.lanes 0) 4 &&& c0.te = 0
    ∧ (11 : BitVec 4).toNat ≤ 11 ∧ (61 : BitVec 6).toNat ≤ 61 ∧ (62 : BitVec 6).toNat ≤ 62 ∧ 3 ≤ (3 : BitVec 4).toNat ∧ (7 : BitVec 4).toNat ≤ 7
    ∧ ((c0.lanes 0).map fun l => l / 32).dedup = [0] ∧ (c0.mxBlock 4 5 0).2.2 &&& c0.te = 0 := by
  decide +kernel

/-- O24: the assigned operations at the ends of their ranges. -/
theorem witness_AtomicsIssueAtTheirLocations : AtomAssigned false 0 0 1 3 9 ∧ AtomAssigned false 15 0 0 0 0 ∧ AtomAssigned true 0 0 5 2 12
    ∧ AtomAssigned true 0 1 0 0 11 ∧ ¬AtomAssigned true 0 0 0 0 11 ∧ ¬AtomAssigned false 0 0 0 0 10 ∧ c0.ioFlag (c0.lanes 0) [20] &&& c0.te = 0
    ∧ (∀ l ∈ c0.lanes 0, ((c0.g.vreg l 22).data ++ (c0.g.vreg l 21).data : BitVec 64).toNat % 16 = 0)
    ∧ (∀ l ∈ c0.lanes 0, (c0.g.vreg l 21).data.toNat + 4 ≤ (s0.grantOf 0 c0.g).2)
    ∧ ∃ l ∈ (cAt (regs0 [(3, 21, 4096, false)] [] []) frag0).lanes 0,
        (s0.grantOf 0 c0.g).2 < ((cAt (regs0 [(3, 21, 4096, false)] [] []) frag0).g.vreg l 21).data.toNat + 4 := by
  refine ⟨?_, ?_, ?_, ?_, ?_, ?_, by decide +kernel⟩ <;> unfold AtomAssigned <;> decide +kernel

/-- The scalars of a copy of `n` bytes from `src` to the scratchpad at `dst`. -/
def copy0 (n dst src : Nat) : Group := regs0 [] [(20, dst), (21, src), (22, 2 ^ 32 + n), (23, 1)] []

/-- O25: 4,096 bytes fill the grant, one more is beyond it, 2^20 bytes need no power and 2^20 + 1 do; an update of 128 bytes, of 132, and one
that leaves the grant. -/
theorem witness_EngineOperationsJoinTheOpenBatch :
    (∀ x ∈ (copyOf (cAt (copy0 4096 0 0x2000) frag0) 20 1).padRows, x + (copyOf (cAt (copy0 4096 0 0x2000) frag0) 20 1).e0 ≤ 4096)
    ∧ (∃ x ∈ (copyOf (cAt (copy0 4097 0 0x2000) frag0) 20 1).padRows, 4096 < x + (copyOf (cAt (copy0 4097 0 0x2000) frag0) 20 1).e0)
    ∧ (let d := copyOf (cAt (copy0 (2 ^ 20) 0x4000 0x2000) frag0) 20 0; d.padRows = [] ∧ d.e0 * d.e1 * d.e2 ≤ 2 ^ 20)
    ∧ (let d := copyOf (cAt (copy0 (2 ^ 20 + 1) 0x4000 0x2000) frag0) 20 0; d.padRows = [] ∧ 2 ^ 20 < d.e0 * d.e1 * d.e2)
    ∧ Issues s0 c0 [] 0 (some 2) ∧ (0x2000 % 128 + 128 ≤ 128 ∧ 3968 + 128 ≤ (s0.grantOf 0 c0.g).2 ∧ 128 < 132 ∧ (s0.grantOf 0 c0.g).2 < 3972 + 128) :=
  ⟨by decide +kernel, by decide +kernel, by decide +kernel, by decide +kernel, witness_issues _ (by simp) _ (by simp), by decide +kernel⟩

/-- No die has a line that a cache holds modified. -/
theorem s0_mCache (line : Nat) : s0.mCache line = none := by
  have hx : ∀ k, s0.die k = Die.reset k := fun k => by simp [State.die, s0, issuing, State.place, State.reset]
  simp [State.mCache, State.mDie, hx, Die.reset]

/-- A pinned line, and the range of R259 that names it. -/
theorem witness_FencesBatchesPrefetchesAndPins : (s0.cache (cacheOfCore 0)).lines = [] ∧ c0.f.state = .ready ∧ c0.g.batch.get 0 c0.g.ob.toNat = 0
    ∧ ((c0.s 5).extractLsb' 0 32 = 0) := by decide +kernel

/-- An entry of a reservation table. -/
def res0 : ResOp :=
  { gid := 0, id := 7, pc := 0x1004, kind := .mzero, tile := 0, tiles := 1, args := [], done := 0, st := .queued, ticket := none, batch := 1, passed := 0,
    after := none, abandon := false, snap := none, stg := none }
/-- The module with the cluster changed. -/
def inCluster (f : Cluster → Cluster) : State := s0.modCluster 0 f
/-- A gang that lacks tile 0. -/
def noTiles : State := { s0 with grids := [(1, { probeGrid with gangs := [(0, { probeGang with tmask := 0xFE })] })] }
/-- The descriptor s40 to s46 of R283's example. -/
def loop0 : List Dword := [0x0000010000000000, 0x0000000200000010, 0x0000000100000004, 0x0000000200080201, 0x00000000000100B8, 0, 0]

/-- O27: tile 0 with room, a tile outside the gang's mask, a table of 32 entries; R283's loop, whose last byte is at 0x103, and one without steps. -/
theorem witness_MatrixOperationsTakeTheirEntry : TileFree s0 c0 0 ∧ (noTiles.tmask c0.g).getLsbD 0 = false
    ∧ (let s := inCluster fun x => { x with table := (List.range 32).map fun i => { res0 with id := i } }
       (s.tmask c0.g).getLsbD 0 = true ∧ s.disabledHalf 0 0 = false ∧ s.tableRoom 0 0 = false)
    ∧ resolveDfl loop0 0 = loop0 ∧ loopFault loop0 (loopDesc loop0) (s0.tmask c0.g) (s0.split 0) = none ∧ TileFree s0 c0 (loopDesc loop0).tile
    ∧ (loopDesc loop0).beyond 2 0x104 = none ∧ (loopDesc loop0).beyond 2 0x103 = some 0x103
    ∧ loopFault (loop0.set 3 0) (loopDesc (loop0.set 3 0)) (s0.tmask c0.g) (s0.split 0) = some 3
    ∧ (57 < (58 : BitVec 6).toNat ∧ (57 : BitVec 6).toNat ≤ 57) ∧ (loopDesc loop0).beyond 1 1 ≠ none ∧ (loopDesc loop0).beyond 1 4096 = none
    ∧ (let s : State := { s0 with dies := [(0, { Die.reset 0 with mhealth := 1 })] }
       (s.tmask c0.g).getLsbD 0 = true ∧ s.disabledHalf 0 0 = true ∧ s.disabledHalf 0 (loopDesc loop0).tile = true
        ∧ loopFault loop0 (loopDesc loop0) (s.tmask c0.g) (s.split 0) = none)
    ∧ (let s := inCluster fun x => { x with table := (List.range 32).map fun i => { res0 with id := i } }
       s.disabledHalf 0 (loopDesc loop0).tile = false ∧ s.tableRoom 0 (loopDesc loop0).tile = false
        ∧ loopFault loop0 (loopDesc loop0) (s.tmask c0.g) (s.split 0) = none) := by
  unfold TileFree
  decide +kernel

/-- O28: MRD of the last row and column of tile 7, and of a reserved bit; a held loop on the tile, and none. -/
theorem witness_MatrixReadoutStatusAndRelease : (0x7F7F07 : Dword) &&& ~~~0x7F7F07 = 0 ∧ (0x8 : Dword) &&& ~~~0x7F7F07 ≠ 0 ∧ (s0.tmask c0.g).getLsbD 7 = true
    ∧ (s0.cluster 0).table.find? (onTile 0) = none
    ∧ ((inCluster fun x => { x with table := [{ res0 with kind := .mloop, st := .held }] }).cluster 0).table.find? (onTile 0) = some { res0 with kind := .mloop, st := .held }
    ∧ (∀ e ∈ s0.groups, gidCluster e.1 = 0 → s0.group? e.1 = some e.2 ∧ ∃ f ∈ e.2.frags, f.2.state = .ready)
    ∧ ((s0.cluster 0).table.map fun r => (r.gid, r.id)).Nodup := by
  decide +kernel

/-- A store of one byte at virtual 0x2000. -/
def storeA : StoreOp :=
  { id := 0, pc := 0x1004, kind := .plain, lanes := [{ lane := 0, writes := [⟨0x2000, 0xFF, 0xAB⟩], st := .need, opd := 0, opdS := false, cmp := 0 }],
    fmt := 0, rel := none, performed := false, answers := [], homeLines := [], leaves := [] }

/-- The module's only queue with an entry. -/
def queueOf (e : StoreOp) : StoreQ :=
  { gid := 0, tenant := 1, asn := 1, grid := 1, gang := 0, live := true, saved := false, retIdx := none, ents := [e] }

/-- O29: a window that has ended, one that pends v5, a group of 8 registers, a group with 63 loads, with 63 stores, with 15 engine operations. -/
theorem witness_EncodingFaultsComeBeforeTheEffect :
    (∃ w ∈ ({ frag0 with windows := [⟨0, 0x1000, 0, [5]⟩] } : Frag).windows, w.left = 0)
    ∧ (∀ w ∈ ({ frag0 with windows := [⟨0, 0x1000, 1, [5]⟩] } : Frag).windows, w.left ≠ 0) ∧ c0.activeLanes ≠ []
    ∧ (0 ∈ c0.activeLanes ∧ ∀ m ∈ c0.activeLanes, 0 ≤ m) ∧ ({ group0 with regs := 8 } : Group).regs ≤ (8 : BitVec 7).toNat
    ∧ 63 ≤ (cAt { group0 with loads := List.replicate 63 load0 } frag0).g.lc ∧ c0.guarded 0 ≠ 0
    ∧ (let f : Frag := { frag0 with windows := [⟨0, 0x1000, 1, [5]⟩] }
       f.windows.find? (fun w => decide (5 ∈ w.regs)) = some ⟨0, 0x1000, 1, [5]⟩ ∧ [4, 5].find? (fun r => f.windows.any fun w => decide (r ∈ w.regs)) = some 5
         ∧ ∀ r ∈ [4], ∀ w ∈ f.windows, r ∉ w.regs)
    ∧ c0.activeLanes.head? = some 0 ∧ [7, 8].find? (fun r => decide (({ group0 with regs := 8 } : Group).regs ≤ r)) = some 8
    ∧ (let s : State := { s0 with queues := [(0, { queueOf storeA with ents := List.replicate 63 storeA })] }
       s.sc c0.g = 63)
    ∧ (inCluster fun x => { x with table := List.replicate 15 res0 }).ec 0 c0.g = 15 := by
  decide +kernel

/-- O30: a guard that holds in no lane. -/
theorem witness_GuardedOffInstructionsOnlyCount : GuardedOff s0 c0 [127] 1 where
  resident := rfl
  windows := by simp [c0, frag0]
  exist := by decide +kernel
  settled := by simp [c0, frag0]
  off := by decide +kernel

/-! ### States that meet the hypotheses of the statements: clauses, accesses, engines -/

/-- The translation of the page at 0: read, write, execute, treatment U, frame 2,048 of die 0. -/
def page0 : CtbEntry :=
  { asn := 1, vpn := 0, level := 3, frame := 2048, r := true, w := true, x := true, tr := 2, l2c := false, psh := false, frames := [(0, ⟨false, false⟩)],
    tenant := 1, priv := false, written := true }

/-- The fragment at the header of a clause of `ws`, which stands in the instruction cache, at 0x1000. -/
def atClause (ws : List Word) : State :=
  { issuing group0 { frag0 with pc := 0x1000, inClause := false, words := [] } with
    clusters := [(0, { Cluster.reset with ctb := [page0] })]
    cores := [(0, { Core.reset with icache := [((2048 * 65536 + 0x1000) / 128, ws.flatMap fun w => leBytes 4 w.toNat)] })] }

/-- O31: sum8's first clause stands in the cache; a branch that does not end its clause; a header that waits for lag 0 at a lag of 1; two ready
fragments, of ages 0 and 1. -/
theorem witness_ClausesAreChosenCheckedAndBegun :
    (∀ i < 4, CodeAt (atClause [0xA0FFFF03, 0x11500000, 0x11580000, 0x11540008]) 0 1 (0x1000 + 4 * i)
        ([0xA0FFFF03, 0x11500000, 0x11580000, 0x11540008].getD i 0))
    ∧ headerOk 0xA0FFFF03 = true ∧ ((0xA0FFFF03 : Word).extractLsb' 0 4).toNat = 3 ∧ clauseOk [0xA0FFFF02, 0x18000002, 0x11580000] = false
    ∧ s0.headerMet 0 { group0 with ob := 2, cb := 0 } 0xA00FFF03 = false ∧ s0.headerMet 0 group0 0xA0FFFF03 = true
    ∧ s0.issuable 0 group0 frag0 = true
    ∧ (({ s0 with groups := [(0, { group0 with frags := [(0, frag0), (1, { frag1 with stamp := 1 })] })] } : State).readyFrags 0).length = 2
    ∧ ((atClause []).group? 0).map (fun g => (g.frags.find 0).map fun f => (f.inClause, f.reread, f.join)) = some (some (false, false, none))
    ∧ (let f : Frag := { frag0 with pc := 0x1000, inClause := false, words := [], join := some 0 }
       SMap.find ([(0, (⟨0x1010, 0, none, 1⟩ : Join))] : SMap Join) 0 = some ⟨0x1010, 0, none, 1⟩ ∧ (0x1010 : Dword) ≠ f.pc)
    ∧ (atClause []).answers = [] := by
  refine ⟨fun i hi => ?_, by decide +kernel⟩
  refine ⟨page0, [0xA0FFFF03, 0x11500000, 0x11580000, 0x11540008].flatMap fun w : Word => leBytes 4 w.toNat, ?_⟩
  interval_cases i <;> decide +kernel

/-- O32: nothing to do; one core's turn and nothing else, at a SMOVI and at an unassigned opcode. -/
theorem witness_AStepRunsTheDecodedInstruction :
    (({ State.reset with due := [] } : State).moves = [])
    ∧ (let s := State.reset.place (probeWords 32 0x11500005)
       s.inputs = [] ∧ s.due = [] ∧ (∀ e ∈ s.groups, gidCore e.1 = 0) ∧ (s.core 0).turn = some (0, 0) ∧ (s.die 0).fence.getLsbD 4 = false
        ∧ (s.cluster 0).out = false ∧ (∀ e ∈ s.dies, e.2.heldRecs = []) ∧ s.moves.length ≠ 0 ∧ (s.group? 0).map (fun g => (g.frags.find 0).map fun f => (f.inClause, f.words.getD ((f.pc.toNat - f.hdr.toNat) / 4) 0))
            = some (some (true, 0x11500005)))
    ∧ decode 0x11500005 none = .ok (.smovi 20 5) ∧ decode 0x30000000 none = .error (.unassigned 0x30) := by
  decide +kernel

/-- O32: a move that has formed no record that is held, and one that has: die 0's next slot is still to be told of. -/
theorem witness_HeldRecordsStall :
    (s0.formed = [] ∧ ∀ e ∈ s0.dies, e.2.credits = [])
    ∧ (let s : State := { s0 with dies := [(0, { Die.reset 0 with undelivered := [(1, 1)] })], moving := some ⟨none, .bootStage4 0, false⟩ }
       let t := s.record 0 (mkRec 1 6 1 0 0 0 0 0 0 0)
       (t.formed.map fun e => (e.1, e.2.1.halt.isNone, e.2.2)) = [(0, true, true)]) := by
  decide +kernel

/-- R51, R155: and the step runs it. -/
theorem test_step_runs_smovi : next? (step (State.reset.withFetchWord 32 0x11500005)) (fun t => ((t.group? 0).map fun g => g.sreg 20) == some 5) = true := by
  decide +kernel

/-- The module with events due. -/
def due0 (s : State) (ev : List Instr) : State := { s with due := ev }
/-- A gang over dies 0 and 1, of which die 1's message is there or not. -/
def gang2 (m : Nat) : Gang := { probeGang with places := [(0, 0, 1), (16, 0, 2)], groups := [some 0, some 0x1000], barr := 3, dieMsgs := BitVec.ofNat 64 m }
/-- The module with that gang. -/
def withGang (x : Gang) : State := { s0 with grids := [(1, { probeGrid with gangs := [(0, x)] })] }

/-- O35: the other die's message is missing, and is there. -/
theorem witness_GangBarrierMessagesReleaseTheGang :
    (∃ d ∈ (gang2 0).dies, d ≠ 0 ∧ (gang2 0).dieMsgs.getLsbD d = false) ∧ (∀ d ∈ (gang2 2).dies, d = 0 ∨ (gang2 2).dieMsgs.getLsbD d = true)
    ∧ (withGang (gang2 2)).gang? 1 0 = some (gang2 2) := by
  decide +kernel

/-- O36: a group whose last fragment has gone; a grid whose last gang has retired, and one with a gang left. -/
theorem witness_GroupsAndGridsRetire :
    (let s : State := { s0 with groups := [(0, { group0 with frags := [] })] }
     (s.dist 0).up = true ∧ (s.group? 0).map (fun g => (g.frags.length, g.loads.length, s.ec 0 g, s.retireBlocked g)) = some (0, 0, 0, false)
       ∧ s.gang? 1 0 = some probeGang ∧ (s.dist probeGang.root).up = true)
    ∧ (let g := { probeGrid with gangs := [], retiredGangs := 1 }
       let s : State := { s0 with grids := [(1, g)] }
       s.grid? 1 = some g ∧ g.completing = false ∧ g.doneVa = 0 ∧ s.gridDone 1 g = true)
    ∧ s0.grid? 1 = some probeGrid ∧ s0.gridDone 1 probeGrid = false := by
  decide +kernel

/-- The line of virtual 0x2000, in frame 2,048. -/
def lineA : Nat := (2048 * 65536 + 0x2000) / 128
/-- A line of zeros in a state. -/
def lineIn (st : LineSt) : L1Line := ⟨st, 0, 0, List.replicate 128 0⟩
/-- Core 0's L1 with that line in a state, and no L1 with anything. -/
def l1 (st : Option LineSt) : List (Nat × Cache) := st.elim [] fun st => [(0, ⟨[(lineA, lineIn st)], [], []⟩)]

/-- One lane's access to n bytes at virtual 0x2000, translated to frame 2,048 of treatment tr. -/
def laneA (tr n : Nat) : LaneAcc :=
  { lane := 0, spans := [⟨0x2000, n, some (2048 * 65536 + 0x2000), tr, none, false⟩], st := .need, opd := 5, opdS := false, cmp := 0, old := 0, fl := 0 }
def lane0 : LaneAcc := laneA 2 4
/-- A load of it. -/
def lone (kind : LoadKind) (tr n : Nat) : LoadOp := { load0 with kind := kind, lanes := [laneA tr n] }
/-- The module with that load, an event due, and what core 0's L1 holds; the page is marked as written. -/
def withLoad (o : LoadOp) (st : Option LineSt) (ev : Instr) : State :=
  { due0 (issuing { group0 with loads := [o], nextOp := 1 } frag0) [ev] with
    caches := l1 st, clusters := [(0, { Cluster.reset with ctb := [{ page0 with tr := 0 }] })] }
/-- Its group. -/
def groupL (o : LoadOp) : Group := { group0 with loads := [o], nextOp := 1, frags := [(0, frag0)] }

/-- What an L1 must hold for a load of a page of treatment tr to be performed at once. -/
theorem lone_load (kind : LoadKind) (ev : Instr) {tr n : Nat} {st : Option LineSt} (hn : n = 4 ∨ n = 16)
    (h : tr = 2 ∨ tr = 1 ∧ st = none ∨ st = some .m) :
    LoneLoad (withLoad (lone kind tr n) st ev) 0 (groupL (lone kind tr n)) (lone kind tr n) (laneA tr n)
      [⟨0x2000, n, some (2048 * 65536 + 0x2000), tr, none, false⟩] tr where
  group := rfl
  loads := rfl
  lanes := rfl
  lane := by show 0 < 1024; decide
  need := ⟨rfl, rfl⟩
  spans := rfl
  place p hp := by
    obtain rfl := List.mem_singleton.1 hp
    exact ⟨rfl, rfl, show 0 < n by omega, _, rfl, show (2048 * 65536 + 0x2000) % 128 + n ≤ 128 by omega⟩
  sent p hp pa e := by
    obtain rfl := List.mem_singleton.1 hp
    obtain rfl := Option.some.inj e
    exact ⟨by show s0.linked 0 0 = true; decide +kernel, by show s0.heldBack 0 0 = false; decide +kernel⟩
  here p hp pa e := by
    obtain rfl := List.mem_singleton.1 hp
    obtain rfl := Option.some.inj e
    rcases h with h | ⟨h, rfl⟩ | rfl
    · exact .inl h
    · exact .inr (.inr ⟨h, rfl, fun _ h => absurd h (by intro h; cases h)⟩)
    · exact .inr (.inl rfl)
  clean p hp pa e i hi := by
    obtain rfl := List.mem_singleton.1 hp
    obtain rfl := Option.some.inj e
    rcases h with rfl | ⟨rfl, rfl⟩ | rfl
    · cases st <;> rfl
    · rfl
    · by_cases h : tr = 2
      · subst h; rfl
      · show if tr = 2 then _ else _
        rw [if_neg h]
        exact BitVec.getLsbD_zero
  unfenced := rfl
  unlaunched := rfl
  opened := rfl
  plain := ⟨rfl, rfl⟩
  queue := rfl
  ready := ⟨0, frag0, rfl, rfl⟩

/-- O37: every kind of load that reads memory, of a page of each treatment, with the line in the L1 and without; a near atomic whose line is
held in M, a far one, and one of 16 bytes. -/
theorem witness_LoadDataReturnsToTheRegister (kind : LoadKind) (ev : Instr) :
    (∀ x ∈ ([(2, 4, none), (2, 4, some .m), (1, 4, none), (1, 4, some .m), (0, 4, some .m), (2, 16, none)] : List (Nat × Nat × Option LineSt)),
      let o := lone kind x.1 x.2.1
      let s := withLoad o x.2.2 ev
      LoneLoad s 0 (groupL o) o (laneA x.1 x.2.1) [⟨0x2000, x.2.1, some (2048 * 65536 + 0x2000), x.1, none, false⟩] x.1
        ∧ ev ∈ s.due ∧ s.lineBusy lineA = false ∧ o.id = 0 ∧ o.fmt = 0)
    ∧ ((withLoad (lone kind 0 4) (some .m) ev).cache 0).lines.find lineA = some (lineIn .m) ∧ (lineIn .m).data.length = 128 := by
  refine ⟨fun x hx => ?_, rfl, rfl⟩
  simp only [List.mem_cons, List.not_mem_nil, or_false] at hx
  rcases hx with rfl | rfl | rfl | rfl | rfl | rfl <;> exact ⟨lone_load kind ev (by decide) (by decide), .head _, rfl, rfl, rfl⟩
theorem witness_markedPage (kind : LoadKind) (ev : Instr) :
    (withLoad (lone kind 0 4) (some .m) ev).markPages 0 1 [(0x2000, 2048 * 65536 + 0x2000)] Want.atomic = withLoad (lone kind 0 4) (some .m) ev := rfl
/-- O37: a load of the scratchpad's last word of the grant, and a readout of a tile at the ends of its range. -/
theorem witness_ScratchAndTileReadsReturn :
    (let a : LaneAcc := { lane0 with spans := [⟨4092, 4, none, 0, none, false⟩] }
     let o := { lone (.scratch 0) 2 4 with lanes := [a] }
     let s := withLoad o none (.loadDataReturn 0 0 .clean)
     (s.group? 0).map (·.loads) = some [o] ∧ a.st = .need ∧ o.opened = true ∧ (groupL o).fenced 0 = false ∧ (groupL o).launchBefore 0 = false
       ∧ s.sc (groupL o) = 0 ∧ ∀ i < 4, (s.cluster 0).spoiled ((s.grantOf 0 (groupL o)).1 + 4092 + i) = false)
    ∧ (let o := { lone (.tile true 0 0 127 96) 2 4 with lanes := [lane0, { lane0 with lane := 31 }, { lane0 with lane := 32 }] }
       let s := withLoad o none (.loadDataReturn 0 0 .clean)
       (s.group? 0).map (·.loads) = some [o] ∧ o.lanes ≠ [] ∧ (∀ a ∈ o.lanes, a.lane < 1024)
         ∧ 127 + 31 / 32 < 128 ∧ 96 + 31 % 32 < 128 ∧ ¬127 + 32 / 32 < 128) := by
  decide +kernel

/-- The entry of page 0 whose treatment is tr, that pushes may use. -/
def leafA (tr : Nat) : CtbEntry := { page0 with tr := tr, psh := true, frames := [(0, ⟨false, true⟩)] }
/-- The same entry, of a kind. -/
def storeOf (k : StoreKind) : StoreOp := { storeA with kind := k }
/-- The module with that entry, the page's treatment, and what core 0's L1 holds. -/
def withStore (e : StoreOp) (tr : Nat) (st : Option LineSt) (ev : List Instr) : State :=
  { s0 with due := .storePerformed 0 :: ev, clusters := [(0, { Cluster.reset with ctb := [leafA tr] })], caches := l1 st, queues := [(0, queueOf e)] }
/-- What its one lane writes. -/
def laneW : LaneStore := { lane := 0, writes := [⟨0x2000, 0xFF, 0xAB⟩], st := .need, opd := 0, opdS := false, cmp := 0 }

theorem lone_entry (k : StoreKind) (tr : Nat) (st : Option LineSt) (ev : List Instr) :
    LoneEntry (withStore (storeOf k) tr st ev) 0 (queueOf (storeOf k)) (storeOf k) c0.g where
  due := .head _
  queue := rfl
  ents := rfl
  waiting := ⟨rfl, rfl, rfl⟩
  live := rfl
  group := rfl
  loads := rfl
  free := ⟨rfl, rfl⟩
  ready := ⟨0, frag0, rfl, rfl⟩

theorem leaf_hit : ∀ tr < 3, ∀ w ∈ [Want.store, Want.push, Want.atomic],
    ({ Cluster.reset with ctb := [leafA tr] } : Cluster).ctbHit 1 0 w false = some (leafA tr) := by decide +kernel
theorem leaf_place (tr : Nat) : lineDie ((leafA tr).pa (128 * (0x2000 / 128)) / 128) = 0 := by
  have e : (leafA tr).pa = (leafA 0).pa := rfl
  rw [e]
  decide +kernel
theorem lone_line (k : StoreKind) {tr : Nat} (h : tr < 3) (st : Option LineSt) (ev : List Instr) :
    LoneLine (withStore (storeOf k) tr st ev) (queueOf (storeOf k)) (storeOf k) laneW (0x2000 / 128) (leafA tr) where
  lanes := rfl
  need := rfl
  writes := ⟨by simp [laneW], by decide⟩
  fresh := rfl
  leaf := by
    have hc : (withStore (storeOf k) tr st ev).cluster 0 = { Cluster.reset with ctb := [leafA tr] } := rfl
    have hg : gidCluster (queueOf (storeOf k)).gid = 0 := by simp [queueOf, gidCluster]
    rw [State.lookup, if_neg (by norm_num), hg, hc, show pageOf (0x2000 / 128 / 512 * 65536) = 0 by decide]
    exact leaf_hit tr h k.want (by cases k <;> simp [StoreKind.want])
  written := rfl
  sent := by
    rw [leaf_place, show gidDie (queueOf (storeOf k)).gid = 0 by simp [queueOf, gidDie]]
    exact (by decide +kernel : s0.linked 0 0 = true)
  open' := by
    rw [leaf_place, show gidDie (queueOf (storeOf k)).gid = 0 by simp [queueOf, gidDie], State.heldBack, show route 0 0 = [] by decide +kernel]
    rfl

/-- O38: an entry of every kind, on a page of every treatment. -/
theorem witness_StoresArePerformed (k : StoreKind) {tr : Nat} (h : tr < 3) (st : Option LineSt) (ev : List Instr) :
    LoneEntry (withStore (storeOf k) tr st ev) 0 (queueOf (storeOf k)) (storeOf k) c0.g
    ∧ LoneLine (withStore (storeOf k) tr st ev) (queueOf (storeOf k)) (storeOf k) laneW (0x2000 / 128) (leafA tr)
    ∧ (leafA tr).pa (128 * (0x2000 / 128)) / 128 = lineA ∧ (leafA tr).pa laneW.va / 128 = lineA ∧ (leafA tr).pa laneW.va % 128 + 4 ≤ 128 :=
  ⟨lone_entry .., lone_line k h .., rfl, rfl, (by decide : (leafA 0).pa laneW.va % 128 + 4 ≤ 128)⟩

/-- O38: the line in M, and not; a push to core 16; a scratchpad atomic; a far atomic at its bank, and a sum that it adds to a slot; maintenance of
the line; a delivery that is taken, ones that are refused, with the line held in M too; a push that every target has answered. -/
theorem witness_PushesAreAnswered :
    (let s := withStore (storeOf .plain) 0 (some .m) []
     (s.cache 0).lines.find lineA = some (lineIn .m) ∧ (lineIn .m).psn = 0 ∧ (withStore (storeOf .plain) 0 none []).holdsM 0 lineA = false
       ∧ (withStore (storeOf .plain) 1 none []).pushComing 0 lineA = false)
    ∧ (let s := withStore (storeOf (.push [16])) 0 none []
       s.lineBusy lineA = false ∧ (∀ h ∈ s.holders lineA, s.reach (lineDie lineA) (h / 80) = true)
        ∧ ((0 : Nat) == 2 || !(leafA 0).psh || !(leafA 0).pt (0x2000 / 128 / 512)) = false)
    ∧ (let s := withStore (storeOf (.atomic .scratch 0)) 2 none []
       (s.cluster 0).spoiled (((s.cluster 0).grantOf 1 0).1 + laneW.va) = false)
    ∧ (let e := { storeOf (.atomic .far 11) with leaves := [(0x2000 / 128 / 512, leafA 2)] }
       let s := withStore e 2 none [.farAtomicAtBank (.store 0 0)]
       (s.queue? 0).map (·.ents) = some [e] ∧ s.linked 0 (paDie ((leafA 2).pa laneW.va)) = true ∧ s.heldBack 0 (paDie ((leafA 2).pa laneW.va)) = false
        ∧ s.lineBusy ((leafA 2).pa laneW.va / 128) = false ∧ s.poisoned ((leafA 2).pa laneW.va) = false
        ∧ (slotAdd (s.readNat ((leafA 2).pa laneW.va) 16) (ofFp32 laneW.opd) laneW.opdS).isSome = true)
    ∧ ((withStore (storeOf (.maint true 1 0x2000 1)) 0 (some .m) []).maintLines 0 1 0x2000 1 = [(lineA, leafA 0)])
    ∧ (let s := withStore { storeOf (.push [16]) with performed := true, answers := [(16, 64)] } 0 none [.pushDelivery 0 0 16 64 0 true false []]
       s.mustRefuse 16 64 0 = false ∧ s.due.find? (delivers 16 64) = some (.pushDelivery 0 0 16 64 0 true false []) ∧ s.reach (lineDie 64) 0 = true)
    ∧ (let s := { withStore (storeOf .plain) 0 none [.pushDelivery 0 0 16 64 0 true false []] with caches := [(20, { Cache.reset with miss := (List.range 8).map fun i => (256 * (i + 1) + 64, (⟨[], none, 0⟩ : Miss)) })] }
       s.mustRefuse 16 64 0 = true)
    ∧ (let s := { withStore (storeOf .plain) 0 none [.pushDelivery 0 0 0 lineA 0 true true []] with caches := l1 (some .m) }
       s.holdsM 0 lineA = true ∧ s.due.find? (delivers 0 lineA) = some (.pushDelivery 0 0 0 lineA 0 true true []))
    ∧ (((withStore { storeOf (.push [16]) with performed := true } 0 none [.pushAnswered 0 0]).queue? 0).bind fun x => x.ents.find? fun e => e.id == 0)
        = some { storeOf (.push [16]) with performed := true } := by
  decide +kernel

/-- A module whose cache 1 holds line 64 in a state. -/
def withLine (st : LineSt) (ev : Instr) : State := { s0 with due := [ev], caches := [(1, ⟨[(64, lineIn st)], [], []⟩)] }

/-- O39: a line no cache holds; one that another cache shares, and one that it holds modified; an invalidation, a recall and a fill of it. -/
theorem witness_CoherenceMovesALine :
    (s0.lineBusy 64 = false ∧ s0.holdsM 0 64 = false ∧ s0.mCache 64 = none ∧ (∀ k ∈ s0.holders 64, k = 0) ∧ s0.linked 0 (lineDie 64) = true
      ∧ s0.reach (lineDie 64) (1 / 80) = true)
    ∧ (let s := { withLine .s (.homeOwnershipRequest 0 64) with
                  dies := [(0, { Die.reset 0 with dieDir := [(16, 1)], home := [(16, ⟨1, []⟩)] })], clusters := [(0, { Cluster.reset with filter := [(64, 2)] })] }
       s.mCache 64 = none ∧ s.lineBusy 64 = false ∧ s.holdsM 0 64 = false ∧ ∃ k ∈ s.holders 64, k ≠ 0)
    ∧ (let s := { withLine .m (.homeOwnershipRequest 0 64) with
                  dies := [(0, { Die.reset 0 with dieDir := [(16, 1)], home := [(16, ⟨1, [(0, 0)]⟩)] })], clusters := [(0, { Cluster.reset with filter := [(64, 2)] })] }
       s.mCache 64 = some 1 ∧ s.lineBusy 64 = false ∧ s.holdsM 0 64 = false ∧ s.linked 0 (lineDie 64) = true)
    ∧ ((withLine .s (.invalidationReceived 1 64 0)).cache 1).lines.find 64 = some (lineIn .s)
    ∧ ((withLine .m (.recallReceived 1 64 true)).cache 1).lines.find 64 = some (lineIn .m)
    ∧ (({ s0 with caches := [(1, ⟨[], [(64, ⟨[], none, 0⟩)], []⟩)] } : State).cache 1).miss.find 64 = some ⟨[], none, 0⟩ := by
  decide +kernel

/-! ### States that meet the hypotheses of the statements: walks, engines, power, grids -/

/-- The bytes of the table of space 1 (a root of one page that maps the whole space to itself, treatment U), and tenant 1's frame 2,048. -/
def walkable (s : State) : State :=
  ([(0x1000008, 1), (0x100000A, 0xB8), (0x100000B, 0x0B), (0x100000E, 0x10), (0xBB80000, 0xBA), (0x4000, 1), (0x4001, 0x10)] : List (Nat × Nat)).foldl
    (fun s e => s.writeByte e.1 (BitVec.ofNat 8 e.2)) s
/-- A load of 4 bytes at 0x8000000, not yet translated. -/
def far0 : LoadOp := { load0 with lanes := [{ lane0 with spans := [⟨0x8000000, 4, none, 0, none, false⟩] }], opened := false }
/-- The module with that load. -/
def withFar : State := issuing { group0 with loads := [far0], nextOp := 1 } frag0
/-- A parked load at entry 3 of die 0. -/
def quag0 : Quag :=
  { st := .parked, asn := 1, vpn := 2048, cluster := 0, tenant := 1, va := 0x8000000, gid := 0, kind := 0, access := 0, level := 1, clock := 0,
    pc := 0x1004, members := [(.load 0 0, 2048)], lines := [], frame := 2048 }
/-- Die 0 with that entry. -/
def withQuag (q : Quag) (s : State) : State := { s with dies := [(0, { Die.reset 0 with quag := [(3, q)] })] }

/-- Time: after n (perCycle + 1) steps every counter has advanced by n at least. -/
theorem elapsed_ge (d n : Nat) : n ≤ elapsedSum d (n * (Config.perCycle + 1)) := by
  have mono : ∀ a b, elapsedSum d a ≤ elapsedSum d (a + b) := fun a b => by
    induction b with
    | zero => exact Nat.le_refl _
    | succ b ih => exact ih.trans (by show _ ≤ elapsedSum d (a + b) + _ + _; omega)
  induction n with
  | zero => simp
  | succ n ih =>
    have h : (n + 1) * (Config.perCycle + 1) = n * (Config.perCycle + 1) + Config.perCycle + 1 := by ring
    have hm : (n * (Config.perCycle + 1) + Config.perCycle + 1) % (Config.perCycle + 1) = 0 := by rw [← h]; exact Nat.mul_mod_left _ _
    have hs := mono (n * (Config.perCycle + 1)) Config.perCycle
    rw [h]
    show _ ≤ elapsedSum d (n * (Config.perCycle + 1) + Config.perCycle) + _ + _
    rw [if_pos hm]
    omega

/-- The state `n` cycles on, at least. -/
def later (s : State) (n : Nat) : State := { s with tick := n * (Config.perCycle + 1) }
theorem later_clock (s : State) (n d : Nat) (h : (s.die d).clockBase = 0) : n ≤ (later s n).clock d := by
  have h' : ((later s n).die d).clockBase = 0 := h
  rw [State.clock, h']
  exact elapsed_ge d n

/-- The limit of the parking of die 0, and the clock now and that much later: a state has each. -/
theorem witness_time (s : State) (n d : Nat) (hb : (s.die d).clockBase = 0) (ht : s.tick = 0) : s.clock d = 0 ∧ n ≤ (later s n).clock d :=
  ⟨by simp [State.clock, ht, elapsedSum], later_clock s n d hb⟩

/-- How a walk ends, and the frame or the kind. -/
def ends : WalkRes → Nat × Nat
  | .ok e => (0, e.frame)
  | .fault k _ => (1, k)
  | .scrub _ f => (2, f)
  | .closed h => (3, h)

/-- O40: a walk that ends in a translation, and one that finds no table; a queue of one walk; a scrub still awaited, and ended; a parked entry. -/
theorem witness_WalksFillOrPark :
    (ends ((walkable withFar).walk 0 1 0x8000000 Want.load false) = (0, 0)
      ∧ (walkable withFar).partyOf (.load 0 0) 2048 = some (⟨0, 1, 1, 0, 0x1004⟩, Want.load, 0x8000000))
    ∧ (withFar.walk 0 1 0x8000000 Want.load false = .fault 5 0 ∧ withFar.partyOf (.load 0 0) 2048 = some (⟨0, 1, 1, 0, 0x1004⟩, Want.load, 0x8000000)
        ∧ (withFar.die 0).quagOf 1 2048 .parked = none ∧ (withFar.die 0).quagRoom 1 ≠ none)
    ∧ Instr.pageWalk 0 1 2048 (.load 0 0) ∈ (due0 withFar [.pageWalk 0 1 2048 (.load 0 0)]).walking 0
    ∧ ((withQuag quag0 withFar).die 0).quagOf 1 2048 .parked ≠ none
    ∧ (let s := (walkable withFar).writeByte 0x4001 0x20
       ends (s.walk 0 1 0x8000000 ⟨false, false, false, 0⟩ false) = (2, 2048) ∧ s.linked 0 (paDie (65536 * 2048)) = true
         ∧ ownState (s.ownEntry (65536 * 2048)) = 2)
    ∧ ownState ((walkable withFar).ownEntry (65536 * 2048)) ≠ 2
    ∧ (((withQuag quag0 withFar).die 0).quag.find 3 = some quag0 ∧ ((withQuag quag0 withFar).die 0).qtmo.getLsbD 63 = true)
    ∧ (∀ e ∈ (withFar.die 0).quag, e.2.st ≠ .rewalk) ∧ (withFar.cluster 0).ctb = []
    ∧ { page0 with vpn := 2048, frames := [(2048, ⟨true, false⟩)] }.joins { page0 with vpn := 2048, frames := [(2048, ⟨true, false⟩)] } = true := by
  decide +kernel
/-- O40: a parked access of a queue, before its answer's time and at it. -/
theorem witness_parkLate :
    let q := { quag0 with members := [(.queueRec 0 5, 2048)] }
    let limit := 0 + (((withQuag q s0).die 0).qtmo.extractLsb' 0 32).toNat * 4096
    (withQuag q s0).clock 0 < limit ∧ limit ≤ (later (withQuag q s0) limit).clock 0 ∧ FormsNew (withQuag q s0) 0 := by
  intro q limit
  have h := witness_time (withQuag q s0) limit 0 rfl rfl
  have hl : 0 < limit := by decide +kernel
  exact ⟨by omega, h.2, rfl⟩

/-- A copy of one row of 4 bytes from 0x8000000 to scratchpad 16, and an update of one element there. -/
def copyD : CopyDesc :=
  { dir := 1, dst := 16, src := 0x8000000, e0 := 4, e1 := 1, e2 := 1, ss1 := 0, ss2 := 0, ds1 := 0, ds2 := 0 }
def eng0 : EngOp := { id := 0, pc := 0x1004, kind := .copy copyD, batch := 1, ticket := none, skip := [], failed := none }
def fup0 : EngOp := { eng0 with kind := .fupd 0 0 0x8000000 16 4 0 }
/-- The page at 0x8000000. -/
def page1 : CtbEntry := { page0 with vpn := 2048, frames := [(2048, ⟨false, false⟩)] }
/-- The module with an engine operation. -/
def withEng (o : EngOp) (ev : List Instr) : State :=
  { issuing { group0 with engs := [o], nextOp := 1 } frag0 with
    due := ev, clusters := [(0, { Cluster.reset with grants := [⟨1, 0, 0, 4096⟩], fills := [⟨0, 4096, none⟩], ctb := [page1] })] }

/-- O41: a copy, an update, one that has failed; fragments that wait for ICINV and IPIN. -/
theorem witness_EngineOperationsTakeEffect :
    (let s := withEng eng0 [.copyComplete 0 0]
     let g := { group0 with engs := [eng0], nextOp := 1, frags := [(0, frag0)] }
     s.group? 0 = some g ∧ s.sc g = 0
       ∧ (copyD.bytes.map (·.2)).Nodup ∧ (∀ b ∈ copyD.bytes, s.copyEnd 0 g eng0 copyD true b.1 = some (.mem b.1 2))
       ∧ s.linked 0 (paDie 0x8000003) = true ∧ s.heldBack 0 (paDie 0x8000003) = false)
    ∧ (let s := withEng fup0 [.fupdPerformed 0 0]
       s.lookup 0 1 0x8000000 (fup0.wantOf false) = some page1 ∧ s.lookup 0 1 (0x8000000 / 65536 * 65536) (fup0.wantOf false) = some page1
        ∧ page1.tr = 2 ∧ s.linked 0 (paDie (page1.pa 0x8000000)) = true ∧ s.heldBack 0 (paDie (page1.pa 0x8000000)) = false ∧ (s.die 0).undelivered.has (((s.die 0).seq + 1) % 4096) = false)
    ∧ ((withEng { fup0 with failed := some (1, 0x8000000, false) } [.engineOperationFailed 0 0 1 0x8000000]).group? 0).map (fun g => (g.engs, g.halt))
        = some ([{ fup0 with failed := some (1, 0x8000000, false) }], none)
    ∧ (let s := withEng { fup0 with failed := some (1, 0x8000000, false) } [.engineOperationFailed 0 0 1 0x8000000]
       (s.die 0).credits = [] ∧ s.inFlight 0 (.copy 0 0) = false)
    ∧ ((issuing group0 { frag0 with state := .opWait, hold := .icinv 0 0 1 }).group? 0).map (fun g => (g.frags.find 0).map (·.hold)) = some (some (.icinv 0 0 1))
    ∧ (let s := { atClause [0, 0] with groups := [(0, { group0 with frags := [(0, { frag0 with state := .opWait, hold := .ipin 20 0x1000 1 })] })] }
       s.lookup 0 1 (128 * (0x1000 / 128)) Want.fetch = some page0 ∧ (s.core 0).icache.has (page0.pa 0x1000 / 128) = true ∧ (s.core 0).pins = []) := by
  decide +kernel

/-- The module with a reservation table, and a power controller. -/
def withTable (r : ResOp) (p : Power) : State :=
  { inCluster fun x => { x with table := [r] } with dies := [(0, { Die.reset 0 with power := p })] }
/-- A power controller at rest. -/
def power0 : Power := (Die.reset 0).power

/-- O42: an MZERO and R283's loop at the head of the table, a loop at work, an engine without tiles, a grant that fits to the last unit and one
that does not, an overload that begins, and one that lasts. -/
theorem witness_PowerIsGrantedAndKStepsAdd :
    (let s := withTable res0 power0
     (s.cluster 0).table = [res0] ∧ s.halfOf 0 0 = false ∧ (s.group? 0).map (·.halt) = some none
       ∧ ∀ e ∈ s.groups, gidCluster e.1 = 0 → s.group? e.1 = some e.2 ∧ ∃ f ∈ e.2.frags, f.2.state = .ready)
    ∧ (let r := { res0 with kind := .mloop, args := loop0, ticket := some 1 }
       let s := withTable r { power0 with held := [(1, 12)], units := 12 }
       s.powered 0 (some 1) = true ∧ (s.group? 0).map (fun g => (g.loads.length, s.sc g)) = some (0, 0))
    ∧ (let r := { res0 with kind := .mloop, args := loop0, st := .running }
       (loopDesc loop0).n ≤ 128 ∧ r.done + 1 < (loopDesc loop0).steps ∧ (loopDesc loop0).steps = 2)
    ∧ ((inCluster id).cluster 0).table = [] ∧ ({ s0 with grids := [] } : State).tilesHeld 0 = 0
    ∧ power0.overSince = none ∧ power0.units + 96 ≤ power0.cap ∧ power0.cap < power0.units + 97
    ∧ (([(1, 12)] : List (Nat × Nat)).find? fun e => e.1 == 1) = some (1, 12) ∧ FormsNew (withTable res0 power0) 0 := by
  unfold FormsNew
  decide +kernel
/-- Two loops with power in the table, the second of a higher prio, the first passed over n times. -/
def loops (n : Nat) : State :=
  let r := { res0 with kind := .mloop, args := loop0, ticket := some 1, passed := n }
  { inCluster (fun x => { x with table := [r, { r with id := 8, args := loop0.set 4 (0x00000000000100B8 ||| 0x80000), passed := 0, tile := 2, tiles := 4 }] }) with
    dies := [(0, { Die.reset 0 with power := { power0 with held := [(1, 12)], units := 12 } })] }
/-- O42: an MCFG over a tile with an entry; two loops, of which the higher prio goes first, and the other at its 16th time; the last step of a
loop, one of 129 columns, and one whose bytes are poisoned. -/
theorem witness_ArbiterAndSteps :
    (let s := inCluster fun x => { x with table := [{ res0 with kind := .mcfg, args := [0, 3] }], tiles := [(0, { Tile.reset with ents := [(0, ⟨5, false, false⟩)] })] }
     ((s.cluster 0).tiles.get Tile.reset 0).ents.find 0 = some ⟨5, false, false⟩ ∧ s.halfOf 0 0 = false)
    ∧ (∀ n ∈ [0, 15], ((loops n).eligible 0 false).length = 2 ∧ (∀ e ∈ (loops n).eligible 0 false, e.passed < 16)
        ∧ (((loops n).eligible 0 false).find? fun e => ((loops n).eligible 0 false).all fun o => decide ((loopDesc o.args).prio ≤ (loopDesc e.args).prio)).map (·.id) = some 8)
    ∧ ((((loops 16).eligible 0 false).find? fun e => decide (16 ≤ e.passed)).map (·.id) = some 7)
    ∧ (((loops 16).cluster 0).table.map fun e => (e.gid, e.id)).Nodup
    ∧ (∀ e ∈ ((loops 16).cluster 0).table, e.kind = .mloop ∧ e.done < (loopDesc e.args).steps ∧ e.ticket ≠ none ∧ e.st ≠ .running)
    ∧ (let r := { res0 with kind := .mloop, args := loop0, st := .running, done := 1, ticket := some 1 }
       let s := withTable r { power0 with held := [(1, 12)], units := 12 }
       (loopDesc r.args).steps = r.done + 1 ∧ s.powered 0 (some 1) = true ∧ s.split 0 = false
         ∧ ∀ o ∈ (loopDesc r.args).offsets r.done, (s.cluster 0).spoiled ((s.grantOf 0 c0.g).1 + o) = false)
    ∧ (128 < (loopDesc (loop0.set 3 0x0000000200088101)).n ∧ (loopDesc (loop0.set 3 0x0000000200088101)).k = 4)
    ∧ (let r := { res0 with kind := .mloop, args := loop0, st := .running }
       let s := inCluster fun x => { x with table := [r], spoison := [0] }
       ∃ o ∈ (loopDesc r.args).offsets r.done, (s.cluster 0).spoiled ((s.grantOf 0 c0.g).1 + o) = true) := by
  decide +kernel
/-- O42: the reading is above the limit since cycle 0, now and 8,500,000 cycles on. -/
theorem witness_powerLate : (withTable res0 { power0 with overSince := some 0 }).clock 0 < 0 + 8500000
    ∧ 0 + 8500000 ≤ (later (withTable res0 { power0 with overSince := some 0 }) 8500000).clock 0 := by
  obtain ⟨h, h'⟩ := witness_time (withTable res0 { power0 with overSince := some 0 }) 8500000 0 rfl rfl
  exact ⟨by omega, by omega⟩

/-- A launch record of one gang whose descriptor is at 0x8000100, and a descriptor: 1,024 lanes of 64 registers, no tiles. -/
def record0 : List Byte :=
  leBytes 2 1 ++ List.replicate 6 0 ++ leBytes 8 0x8000100 ++ leBytes 4 1 ++ leBytes 4 1 ++ leBytes 4 1 ++ List.replicate 164 0
def descr0 : List Byte :=
  leBytes 4 1 ++ leBytes 4 64 ++ leBytes 8 0x1000 ++ leBytes 2 1024 ++ [64, 1, 0, 0, 1, 0] ++ List.replicate 40 0
/-- The launcher of the probe group. -/
def launcher0 : Launcher :=
  { tenant := 1, asn := 1, depth := 1, dies := [0], queue := none, parent := some (1, 0, 0), batch := some (0, 1), record := 0 }
/-- A fragment that waits for its LAUNCH of a record. -/
def launching (bs : List Byte) : State :=
  { issuing group0 { frag0 with state := .opWait, hold := .launch 8 (BitVec.ofNat 1024 1) 0x2000 bs 1 0 } with
    clusters := [(0, { Cluster.reset with ctb := [page0] })]
    mem := (descr0.zipIdx.foldl (fun (s : State) e => s.writeByte (0x8000100 + e.2) e.1) (walkable State.reset)).mem }
/-- Whether a record is accepted. -/
def accepts : Verdict → Bool
  | .accept _ _ => true
  | _ => false

/-- A die with one grid to place: three cores of cluster 0 are full, the other clusters are out of service. -/
def kdesc0 : KDesc := kdescOf descr0
def grid0 : Grid := { probeGrid with desc := kdesc0, gangs := [] }
def placing (d : Dist) : State :=
  { State.reset with
    due := [], groups := ([64, 128, 192] : List Nat).map fun k => (k, { group0 with lanes := 1024, regs := 64 })
    clusters := (List.range 15).map fun c => (c + 1, { Cluster.reset with out := true })
    grids := [(1, grid0)], dies := [(0, { Die.reset 0 with dist := d })] }
def dist0 : Dist := { Dist.reset with tickets := [(1, ⟨0, 0, 1, [], [], false⟩)] }

theorem anyOrder_perm {α : Type} (l : List α) : ∀ k, (anyOrder k l).Perm l := by
  induction l with
  | nil => exact fun _ => .nil
  | cons x xs ih =>
    refine fun k => List.perm_middle.trans (.cons x ?_)
    rw [List.take_append_drop]
    exact ih (k + 1)

/-- Whatever order the clusters are tried in, a gang goes to the only cluster that can take it. -/
theorem planGang_single {s : State} {d grid c : Nat} {k : KDesc} {m : Byte} {ps : List Place}
    (hm : ((clustersOf d).filterMap fun c => s.maskFor c k.tiles ((s.grid? grid).elim 0 (·.tenant))).dedup = [m])
    (hc : ((clustersOf d).filter fun c => s.usable grid c k m
      && (decide (k.tiles = 0) || s.maskFor c k.tiles ((s.grid? grid).elim 0 (·.tenant)) == some m)) = [c])
    (hr : k.groups ≤ s.clusterRoom c k) (hp : s.spread k [c] (List.range k.groups) = ps) (hs : seatsAll k.groups ps = true) :
    s.planGang d grid k none = some (m, ps) := by
  have em := List.perm_singleton.1 (hm ▸ ((anyOrder_perm (clustersOf d) s.fresh).filterMap _).dedup)
  have ec := List.perm_singleton.1 (hc ▸ (anyOrder_perm (clustersOf d) s.fresh).filter _)
  have e : s.tryPlace grid k (anyOrder s.fresh (clustersOf d)) true [m] = some (m, ps) := by
    simp only [State.tryPlace, ec]
    simp [hr, hp, hs]
  simp only [State.planGang, em, e]

/-- O43: core 0 of cluster 0 takes the gang. -/
theorem placing_plan (b : Bool) :
    (placing { dist0 with tokens := if b then [(1, 0)] else [] }).planGang 0 1 kdesc0 none = some (0, [⟨0, 0, [(0, 0)]⟩]) := by
  cases b <;> exact planGang_single (c := 0) (by decide +kernel) (by decide +kernel) (by decide +kernel) (by decide +kernel) (by decide +kernel)

/-- A placement on its way: die 0's gang 0 of grid 1, with a part in die 1. -/
def pending0 : Pending := ⟨1, 0, 0, [⟨16, 0, [(0, 1024)]⟩], [], []⟩

/-- O43: a record that is rejected, one that is accepted, a ticket, a steal of none and of one, a token, and a reservation. -/
theorem witness_LaunchesTicketsAndPlacements :
    recordOk record0 = true ∧ recordOk (record0.set 0 2) = false ∧ recField (record0.set 0 2) 0x20 8 = 0 ∧ ((launching record0).dist 0).up = true
    ∧ ((launching record0).group? 0).map (fun g => (g.frags.find 0).map (·.hold)) = some (some (.launch 8 (BitVec.ofNat 1024 1) 0x2000 record0 1 0))
    ∧ accepts ((launching record0).judge 0 launcher0 record0 (.launchDesc 0 0)) = true
    ∧ (launching record0).grid? 1 = some probeGrid ∧ probeGrid.aborted = false
    ∧ (let s : State := { launching record0 with grids := [(1, { probeGrid with aborted := true })] }
       accepts (s.judge 0 launcher0 record0 (.launchDesc 0 0)) = true ∧ recField record0 0x20 8 = 0)
    ∧ (let s := placing dist0
       (s.dist 0).up = true ∧ s.grid? 1 = some grid0 ∧ grid0.desc = kdesc0 ∧ (s.dist 0).tickets.find 1 = some ⟨0, 0, 1, [], [], false⟩ ∧ (0 : Nat) < 1)
    ∧ (1 - 0) / 2 = 0 ∧ (2 - 0) / 2 ≠ 0 ∧ (placing dist0).linked 0 1 = true ∧ (placing { dist0 with tokens := [(1, 0)] }).restoresFirst 0 grid0 = false
    ∧ (1, 0) ∈ ((placing { dist0 with tokens := [(1, 0)] }).dist 0).tokens ∧ (0 : Nat) / 16 = 0
    ∧ (let s := placing { dist0 with pending := [pending0] }
       s.stillFree grid0.desc 0 (pending0.places.filter fun x => x.cluster / 16 == 1) = true ∧ (s.dist 1).up = true ∧ (s.dist 0).up = true ∧ s.linked 0 1 = true ∧ grid0.aborted = false ∧ (s.dist 0).pending = [pending0]
        ∧ ∀ e ∈ peerDies 0 pending0.places, e = 1) := by
  decide +kernel

/-! ### States that meet the hypotheses of the statements: pre-emption, service cores -/

/-- The module whose one gang has run `n` of an expected 256 instructions. -/
def gridOf (x : Gang) : Grid := { probeGrid with desc := { probeGrid.desc with wi := 256, idem := true }, gangs := [(0, x)] }
def ranOf (n : Nat) (x : Gang) : State :=
  { s0 with groups := [(0, { group0 with instrs := n, frags := [(0, frag0)] })], grids := [(1, gridOf x)] }
/-- A grid of queue 5 of priority 3 that waits for room, and one of a queue of priority 2 that has it. -/
def wants0 : Grid := { probeGrid with queue := some (5, true, 3), gangs := [] }
def waiting0 : State :=
  { s0 with grids := [(7, wants0), (1, { probeGrid with queue := some (4, true, 2) })]
            dies := [(0, { Die.reset 0 with dist := { Dist.reset with waits := [(7, 0)] } })] }

/-- A gang that halts, and the module with its group halted. -/
def gangH : Gang := { probeGang with st := .halting, why := .save }
def halting0 : State :=
  { issuing { group0 with halt := some ⟨0, 0, 0, true, false⟩ } frag0 with due := [.haltComplete 1 0], grids := [(1, { probeGrid with gangs := [(0, gangH)] })] }

/-- O44: 63, 64, 191 and 192 of 256 parts done; the queue that waits; a gang that drains; one that halts, with its group halted; a grid whose
gangs are gone. -/
theorem witness_PreemptionHaltsAndAborts :
    ((ranOf 63 probeGang).progress (gridOf probeGang) probeGang = 63
      ∧ (ranOf 63 probeGang).gangCalls probeGang = false ∧ (ranOf 63 probeGang).gang? 1 0 = some probeGang)
    ∧ (ranOf 64 probeGang).progress (gridOf probeGang) probeGang = 64
    ∧ (ranOf 191 probeGang).progress (gridOf probeGang) probeGang = 191
    ∧ (ranOf 192 probeGang).progress (gridOf probeGang) probeGang = 192
    ∧ (waiting0.dist 0).waits = [(7, 0)] ∧ (waiting0.waitOf 5 7).isSome = true ∧ wants0.tenant = probeGrid.tenant ∧ (∃ y ∈ probeGang.places, y.1 / 16 = 0)
    ∧ (ranOf 0 { probeGang with st := .draining, since := 0 }).gang? 1 0 = some { probeGang with st := .draining, since := 0 }
    ∧ (halting0.gang? 1 0 = some gangH ∧ halting0.barrierQuiet 1 0 = true) ∧ (∀ gid ∈ gangH.gids, (halting0.group? gid).map (fun g =>
         (g.halt.isSome, g.loads.length, g.engs.length, halting0.sc g, g.frags.map fun e => e.2.hold)) = some (true, 0, 0, 0, [.none]))
    ∧ (halting0.cluster 0).table = []
    ∧ (∀ e ∈ ({ s0 with grids := [(1, { probeGrid with gangs := [] })] } : State).grids, e.2.parent.map (·.1) ≠ some 1) := by
  refine ⟨?_, ?_, ?_, ?_, ?_, ?_, ?_, ?_, ?_, ?_, ?_, ?_, ?_⟩ <;> decide +kernel
/-- O44: at the start and at the end of 65,536 and 1,048,576 cycles, and of the limit of a halt. -/
theorem witness_haltLate : waiting0.clock 0 < 0 + 65536 ∧ 0 + 65536 ≤ (later waiting0 65536).clock 0 ∧ waiting0.clock 0 < 0 + 1048576
    ∧ 0 + 1048576 ≤ (later waiting0 1048576).clock 0
    ∧ (let limit := 0 + ((waiting0.die 0).qtmo.extractLsb' 0 32).toNat * 4096 + 2 ^ 24
       waiting0.clock 0 < limit ∧ limit ≤ (later waiting0 limit).clock 0) := by
  have h := fun n => witness_time waiting0 n 0 rfl rfl
  obtain ⟨h0, h1⟩ := h 65536
  refine ⟨by omega, by omega, by omega, by have := (h 1048576).2; omega, ?_, (h _).2⟩
  show _ < 0 + _ + 2 ^ 24
  omega

/-- A load that is outstanding elsewhere, a parked fetch, a parked store, a queue's parked read. -/
def parked (m : MemRef) (g : Group) (f : Frag) : State := withQuag { quag0 with members := [(m, 2048)], lines := [(0, [1])] } (issuing g f)

/-- O45: no load in the cluster; 14 and 15 words taken; an entry that waits for a walk, and parked entries of each kind. -/
theorem witness_InvalidationsAndAnswers :
    (∀ e ∈ s0.groups, gidCluster e.1 = 0 → e.2.loads = [])
    ∧ (let s := inCluster fun x => { x with svc := { Svc.reset with sqbuf := List.replicate 14 0 } }; (s.svc 0).sqbuf.length < 15)
    ∧ (let s := { parked (.load 0 0) group0 frag0 with
                  clusters := [(0, { Cluster.reset with svc := { Svc.reset with sqbuf := List.replicate 15 0, sqsel := 3 } })] }
       (s.svc 0).sqbuf.length = 15 ∧ (s.die 0).quag.find ((s.svc 0).sqsel.extractLsb' 0 10).toNat ≠ none)
    ∧ (∀ q, ((withQuag { quag0 with st := .rewalk } s0).die 0).quag.find 3 = some q → q.st ≠ .parked)
    ∧ ((parked (.load 0 0) group0 frag0).die 0).quag.find 3 = some { quag0 with members := [(.load 0 0, 2048)], lines := [(0, [1])] }
    ∧ ((parked (.fetch 0 0) group0 { frag0 with state := .memPark, hold := .fetch }).group? 0).map (fun g => (g.frags.find 0).map (·.hold)) = some (some .fetch)
    ∧ (let e := { storeA with lanes := [{ lane := 0, writes := [⟨0x8000000, 0xFF, 1⟩], st := .need, opd := 0, opdS := false, cmp := 0 }] }
       let s := withQuag { quag0 with members := [(.store 0 0, 2048)] } (withStore e 2 none [])
       (s.queue? 0).map (fun x => (x.ents, x.live, x.gid)) = some ([e], true, 0) ∧ ∀ l ∈ e.lanes, ∀ w ∈ l.writes, pageOf w.addr = quag0.vpn)
    ∧ ((withQuag { quag0 with members := [(.queueRec 0 5, 2048)] } s0).die 0).quag.find 3 = some { quag0 with members := [(.queueRec 0 5, 2048)] }
    ∧ (∀ e ∈ s0.queues, e.2.ents = []) ∧ (quag0.members ≠ [] ∧ quag0.st = .parked)
    ∧ (far0.opened = false ∧ far0.kind.global = true ∧ (far0.lanes.flatMap fun a => a.spans.map fun p => (p.data, p.pa)) = [(none, none)]) := by
  refine ⟨by decide +kernel, by decide +kernel, by decide +kernel, fun q h => ?_, by decide +kernel⟩
  obtain rfl : { quag0 with st := .rewalk } = q := Option.some.inj h
  exact (by decide : QuagSt.rewalk ≠ .parked)

/-- A ring slot of weight 1 with one record, at 0x8000; a handle of a call of lanes 0 and 1. -/
def rec0 (kind : Nat) : RingRec := { off := 0, size := 128, kind := kind, handle := 1, taken := false, retired := false }
def ring0 (rs : List RingRec) : RingSlot := { tenant := 1, weight := 1, size := 0, base := 0x8000, wpos := 0, recs := rs, budget := 0 }
def handle0 (kind : Nat) : Handle := { kind := kind, gid := 0, frag := 0, entry := 3, callers := 3, staged := 0, held := [], resumed := 0 }
/-- A fragment of lanes 0 and 1 that waits for call `call` or for a scalar trap. -/
def calling (kind reg call : Nat) : Frag :=
  { frag0 with mask := 3, state := .callWait, call := some { reg := reg, call := call, callers := 3, handle := some 1, kind := kind } }
/-- Cluster 0 with a handle and a service core, beside that fragment. -/
def called (h : Handle) (f : Frag) (svc : Svc) : State :=
  { issuing group0 f with clusters := [(0, { Cluster.reset with rings := [(0, ring0 [rec0 h.kind])], handles := [(1, h)], svc := svc })] }

/-- O46: fields of a ring of 1 MiB at the end of the scratchpad and past it; records that wait; calls of a lane and of a scalar trap, and a
fault's handle; a full and a partial release, and one that was held; a loop held for its tile; the start of a period; a budget spent. -/
theorem witness_RingsResultsAndResumptions :
    (let v : Dword := 0x300101A000300000
     let size := v.extractLsb' 37 3
     let base := v.extractLsb' 0 32
     size.toNat < 6 ∧ base.toNat % 2 ^ (15 + size.toNat) = 0 ∧ base.toNat + 2 ^ (15 + size.toNat) ≤ 2 ^ 22)
    ∧ (let v : Dword := 0x300101A000400000
       let size := v.extractLsb' 37 3
       let base := v.extractLsb' 0 32
       ¬(size.toNat < 6 ∧ base.toNat % 2 ^ (15 + size.toNat) = 0 ∧ base.toNat + 2 ^ (15 + size.toNat) ≤ 2 ^ 22))
    ∧ (∀ e ∈ (s0.cluster 0).rings, e.2.untaken = none) ∧ (ring0 [rec0 1]).untaken = some (rec0 1) ∧ (s0.cluster 0).waiting = []
    ∧ (∀ q ∈ (ring0 [{ rec0 1 with taken := true, retired := true }, rec0 0]).recs, q.kind = 0 ∨ q.retired = true ∧ q.taken = true)
    ∧ (∃ q ∈ (ring0 [rec0 1]).recs, q.kind ≠ 0 ∧ ¬(q.retired = true ∧ q.taken = true)) := by
  refine ⟨?_, ?_, ?_, ?_, ?_, ?_, ?_⟩ <;> decide +kernel
/-- The group of `called`. -/
def groupC (f : Frag) : Group := { group0 with frags := [(0, f)] }
theorem witness_waiters :
    (let s := called (handle0 1) (calling 1 8 2) { Svc.reset with scsel := 0x100000001 }
     s.waiter 0 (selHandle (s.svc 0).scsel) = some (handle0 1, groupC (calling 1 8 2), calling 1 8 2, ⟨1, 8, 2, 3, some 1⟩)
       ∧ (calling 1 8 2).mask.getLsbD (selLane (s.svc 0).scsel) = true ∧ (handle0 1).callers.getLsbD (selLane (s.svc 0).scsel) = true)
    ∧ (let s := called (handle0 2) (calling 2 20 1) { Svc.reset with scsel := 0x100000000 }
       s.waiter 0 (selHandle (s.svc 0).scsel) = some (handle0 2, groupC (calling 2 20 1), calling 2 20 1, ⟨2, 20, 1, 3, some 1⟩))
    ∧ ((called (handle0 3) frag0 Svc.reset).cluster 0).handles.find (slHandle 0xC000000100000000) = some (handle0 3)
    ∧ (let s := called (handle0 1) (calling 1 8 2) Svc.reset
       s.waiter 0 (slHandle 0xC000000100000000) = some (handle0 1, groupC (calling 1 8 2), calling 1 8 2, ⟨1, 8, 2, 3, some 1⟩)
        ∧ slLanes 0x8000000100000001 &&& (calling 1 8 2).mask = 1 ∧ (calling 1 8 2).mask = 3 ∧ s.poolUsed 0 < 128
        ∧ (groupC (calling 1 8 2)).frags.firstFree 32 = some 1)
    ∧ (let h := { handle0 1 with held := [3] }
       (called h (calling 1 8 2) Svc.reset).waiter 0 1 = some (h, groupC (calling 1 8 2), calling 1 8 2, ⟨1, 8, 2, 3, some 1⟩)
        ∧ (3 : Mask) &&& (calling 1 8 2).mask = (calling 1 8 2).mask) := by
  refine ⟨?_, ?_, ?_, ?_, ?_⟩ <;> decide +kernel
theorem witness_loopsAndBudgets :
    (let r := { res0 with kind := .mloop, st := .held }
     let s := inCluster fun x => { x with table := [r] }
     (s.cluster 0).table = [r] ∧ r.tiles.getLsbD ((0 : Dword).extractLsb' 0 3).toNat = true ∧ s.disabledHalf 0 ((0 : Dword).extractLsb' 0 3).toNat = false)
    ∧ s0.sbudget 0 = 0 ∧ (inCluster fun x => { x with rings := [(0, { ring0 [] with budget := 5 })] }).sbudget 0 ≠ 0
    ∧ (([(0, ring0 [])] : SMap RingSlot).map (·.1)).Pairwise (· < ·) := by
  refine ⟨?_, ?_, ?_, ?_⟩ <;> decide +kernel
/-- O46: within a period and after it; 85,000 cycles of a budget's end. -/
theorem witness_budgetLate : s0.clock 0 / 850000 = (s0.svc 0).periodStart / 850000 ∧ (later s0 850000).clock 0 / 850000 ≠ 0 / 850000
    ∧ s0.clock 0 < 0 + 85000 ∧ 0 + 85000 ≤ (later s0 85000).clock 0 := by
  have h := fun n => witness_time s0 n 0 rfl rfl
  have a := h 850000
  have b := h 85000
  exact ⟨by rw [a.1]; rfl, by omega, by omega, by omega⟩

/-- O47: a message within a partition, one across a fence, a channel with 16 messages, a queue with 255 and with 256, a
message on its way to a service core and to a distributor. -/
theorem witness_MessagesAreSentAndReceived :
    (let m := (s0.svc 0).message
     (s0.svc 0).sendStalled = none ∧ s0.msgDropped (.svc 0) (msgDst m.hdr) = false ∧ s0.unaccepted (.svc 0) (msgDst m.hdr) < 16)
    ∧ (let s := { (inCluster fun x => { x with svc := { Svc.reset with smsgdst := 16 } }) with dies := [(0, { Die.reset 0 with fence := 0x1F })] }
       s.msgDropped (.svc 0) (msgDst (s.svc 0).message.hdr) = true)
    ∧ (let s := { s0 with chans := List.replicate 16 (.svc 0, .svc 0, ⟨0, []⟩) }
       s.msgDropped (.svc 0) (msgDst (s.svc 0).message.hdr) = false ∧ 16 ≤ s.unaccepted (.svc 0) (msgDst (s.svc 0).message.hdr))
    ∧ (let s := inCluster fun x => { x with svc := { Svc.reset with rcv := List.replicate 255 (.svc 0, ⟨0, []⟩) } }
       (s.svc 0).rcv.length < 256 ∧ (s.cluster 0).out = false ∧ (s.svc 0).sendStalled = none)
    ∧ (let s := inCluster fun x => { x with svc := { Svc.reset with rcv := List.replicate 256 (.svc 0, ⟨0, []⟩) } }
       256 ≤ (s.svc 0).rcv.length)
    ∧ (0x400000000000 : Dword).extractLsb' 40 8 = 0x40 ∧ (s0.dist 0).up = true
    ∧ s0.svcHeld 0 = false ∧ (inCluster fun x => { x with svc := { Svc.reset with sendStalled := some ⟨0, []⟩ } }).svcHeld 0 = true
    ∧ recordOf (.svc 0, .svc 0, ⟨0, []⟩) = none ∧ (inCluster fun x => { x with out := true }).cluster 0 = { s0.cluster 0 with out := true }
    ∧ FormsNew s0 (0 / 16) ∧ FormsNew s0 (endDie (.svc 0)) := by
  unfold FormsNew
  refine ⟨?_, ?_, ?_, ?_, ?_, ?_, ?_, ?_, ?_, ?_, ?_, ?_, ?_⟩ <;> decide +kernel
theorem witness_sendLate : s0.clock 0 < 0 + 2 ^ 24 ∧ 0 + 2 ^ 24 ≤ (later s0 (2 ^ 24)).clock 0 := by
  have h := witness_time s0 (2 ^ 24) 0 rfl rfl
  exact ⟨by omega, by omega⟩

/-! ### States that meet the hypotheses of the statements: images, distributors, devices -/

/-- A halted group of 8 registers, the first of a gang of two, and its image. -/
def groupS : Group := { group0 with regs := 8, halt := some ⟨0, 0, 0, true, false⟩, frags := [(0, frag0)] }
def gangS : Gang := { probeGang with st := .halted, groups := [some 0, some 256], places := [(0, 0, 1), (1, 0, 2)], tmask := 0 }
def gridS : Grid := { probeGrid with desc := { probeGrid.desc with regs := 8, groups := 2, tiles := 0, scratch := 0 }, gangs := [(0, gangS)] }
def svcS (op : BitVec 2) : Svc := { Svc.reset with sctxa := 0x8000000, sctxop := op }
/-- Cluster 0 with that group, its service core saving it to 0x8000000. -/
def saving0 (mem : List Host.Cell) : State :=
  { State.reset with
    mem := mem, due := [.contextSaveComplete 0], groups := [(0, groupS)], queues := [(0, { gid := 0, tenant := 1, asn := 1, grid := 1, gang := 0, live := true, saved := false, retIdx := none, ents := [] })]
    grids := [(1, gridS)], clusters := [(0, { Cluster.reset with svc := svcS 1 })] }
def image0 : List Byte := (saving0 []).image 0 groupS
/-- The bytes of that image that are not 0, by R68: the header with its offsets, the fragment, and p0. -/
def cells0 : List (Nat × Nat) :=
  [(0, 1), (5, 10), (12, 1), (16, 32), (18, 8), (20, 1), (30, 1), (65, 1), (68, 128), (69, 2), (72, 128), (73, 2), (76, 128), (77, 4), (81, 5),
   (84, 128), (85, 5), (89, 10), (93, 10), (256, 4), (257, 16), (265, 16), (276, 1), (280, 255), (288, 255), (289, 255), (290, 255), (291, 255),
   (1152, 255), (1153, 255), (1154, 255), (1155, 255)]
/-- Memory with bytes at 0x8000000, in frame 2,048, which tenant 1 owns. -/
def holding (bs : List (Nat × Nat)) : List Host.Cell :=
  (0x4000, 1) :: (0x4001, 0x10) :: bs.map fun e => (0x8000000 + e.1, BitVec.ofNat 8 e.2)
theorem test_image_layout : image0.length = 2560 ∧ (image0.zipIdx.filter fun e => e.1 != 0).map (fun e => (e.2, e.1.toNat)) = cells0 := by decide +kernel
/-- Cluster 0, where that group's image is awaited at identity 0. -/
def restoring0 : State :=
  { saving0 (holding cells0) with
    due := [.contextRestoreComplete 0], groups := [], grids := [(1, { gridS with gangs := [(0, { gangS with st := .restoring, groups := [none, some 256], saves := [0] })] })]
    clusters := [(0, { Cluster.reset with svc := svcS 1, restored := [(0, ⟨1, 0, 0, true⟩)] })] }


theorem plain_at {s : State} (ho : ownState (s.readNat 16384 8) ≠ 2) (hp : s.poison = []) (hd : s.dies = [])
    (hc : s.caches = []) {n : Nat} (hn : n ≤ 65536) :
    PlainBytes s 0 0x8000000 n := by
  intro i hi
  have hq : paDie (0x8000000 + i) = 0 := by unfold paDie; omega
  have hf : paOff (0x8000000 + i) = 0x8000000 + i := by unfold paOff; omega
  have hx : ∀ k, s.die k = Die.reset k := fun k => by simp [State.die, hd]
  have hl : lineDie ((0x8000000 + i) / 128) = 0 := by unfold lineDie paDie; omega
  have ht : (0x8000000 + i) / 65536 = 2048 := by omega
  refine ⟨by omega, ?_, ?_, ?_, ?_, ?_, ?_⟩
  · have hh : inHole (0x8000000 + i) = false := by rw [inHole, hf, hbmBytes]; exact decide_eq_false (by omega)
    have hr : regFrame (paOff (0x8000000 + i)) = false := by rw [hf]; simp [regFrame]; omega
    rw [backed, hh, hr]; rfl
  · have hr : regFrame (paOff (0x8000000 + i)) = false := by rw [hf]; simp [regFrame]; omega
    have hb : ∀ k, s.deviceByte k = s.readByte k := fun k => by rw [State.deviceByte, hc]; rfl
    have hn : s.deviceNat 16384 8 = s.readNat 16384 8 := by
      simp only [State.deviceNat, State.deviceBytes, State.readNat, State.readBytes, hb]
      rfl
    rw [State.ownEntry, hr, hf, hq, ht, if_neg (by simp)]
    show ownState (s.deviceNat 16384 8) ≠ 2
    rwa [hn]
  · simp [State.poisoned, hp]
  · rw [hq]; rfl
  · simp [State.lineBusy, hx, Die.reset]
  · simp [State.mCache, State.mDie, hl, hx, Die.reset]

/-- A gang record of grid 1's gang 0, of class 0 with one group and no tiles, and a die with room in cluster 0's core 0 for it. -/
def record1 : List (Nat × Nat) := [(0, 1), (8, 1), (0x10, 1), (0x12, 1), (0x14, 1), (0x20, 1)]
def gangR : Gang := { probeGang with st := .saved, groups := [none], places := [], tmask := 0, saves := [0] }
def gridR : Grid := { grid0 with gangs := [(0, gangR)] }
def regang0 : State :=
  { placing dist0 with mem := holding record1, dies := [], due := [.gangRestore ⟨0, 0⟩ 0x8000000], grids := [(1, gridR)] }

/-- O48: the only cluster that can take the words of a record. -/
theorem replan_single {s : State} {d grid c : Nat} {g : Grid} {m : Byte} {ids : List Nat} (hcls : g.desc.cls ≠ 2)
    (hc : ((clustersOf d).filter fun c => s.usable grid c g.desc m && s.maskAllowed c m g.tenant && decide (ids.length ≤ s.clusterRoom c g.desc)) = [c]) :
    s.replan grid g m (s.restoreClusters d g) [ids] = some [⟨c, (s.grantRoom c g.desc.scratch).getD 0, s.seatGroups c g.desc ids []⟩] := by
  have ec := List.perm_singleton.1 (hc ▸ (anyOrder_perm (clustersOf d) s.fresh).filter _)
  rw [State.replan, State.restoreClusters]
  simp only [if_pos hcls]
  rw [← List.head?_filter, ec]
  rfl

/-- The bytes that the restore reads, and what their checks come to, part by part. -/
def restored0 : List Byte :=
  (List.range (imgLayout ((List.range 256).map fun i => restoring0.readByte (0x8000000 + i))).2).map fun i => restoring0.readByte (0x8000000 + i)
theorem restored0_eq : restored0 = (List.range 2560).map fun i => restoring0.readByte (0x8000000 + i) := by
  rw [restored0, show (imgLayout ((List.range 256).map fun i => restoring0.readByte (0x8000000 + i))).2 = 2560 by decide +kernel]
theorem restored0_zeros {off n : Nat} (h : off + n ≤ 2560) (hz : ∀ i < n, restoring0.readByte (0x8000000 + (off + i)) = 0) :
    firstFail (zeros restored0 off n) = none := by
  simp only [firstFail, zeros, Option.map_eq_none_iff, List.find?_eq_none, List.mem_map, List.mem_range]
  rintro _ ⟨i, hi, rfl⟩
  simp [restored0_eq, List.getD_eq_getElem?_getD, show off + i < 2560 by omega, hz i hi]
theorem restored0_sections : firstFail (sectionChecks restored0 (((restoring0.gang? 1 0).map (·.tmask)).getD 0) (restoring0.split 0) gridS.desc.scratch) = none := by
  have app : ∀ a b, firstFail (a ++ b) = none ↔ firstFail a = none ∧ firstFail b = none := fun a b => by simp [firstFail]
  have c1 : imgCounts restored0 = (1, 0, 0, 0) := by decide +kernel
  have c2 : imgLayout restored0 = ([256, 640, 640, 1152, 1280, 1408, 2560, 2560], 2560) := by decide +kernel
  have c3 : recField restored0 0x10 2 = 32 := by decide +kernel
  have c4 : recField restored0 0x12 2 = 8 := by decide +kernel
  simp only [sectionChecks, c1, c2, c3, c4, app]
  refine ⟨⟨⟨⟨⟨⟨⟨⟨⟨⟨by decide +kernel, restored0_zeros (by decide) (by decide +kernel)⟩, rfl⟩, rfl⟩, rfl⟩, restored0_zeros (by decide) (by decide +kernel)⟩, rfl⟩,
    restored0_zeros (by decide) (by decide +kernel)⟩, rfl⟩, rfl⟩, rfl⟩

/-- O48: a group to be saved and one being saved; its image at the place of a restore; a gang record; a cluster told of it. -/
theorem witness_ImagesAreSavedAndRestored :
    (((saving0 []).group? 0).map (·.halt.isSome) = some true ∧ (svcS 0).sctxop ≠ 1 ∧ (0x40000 : Dword).extractLsb' 18 2 = 1
      ∧ (0x80000 : Dword).extractLsb' 18 2 = 2)
    ∧ ((saving0 (holding [])).groupQuiet 0 groupS = true ∧ gangS.lastSave 0 = false ∧ (∀ e ∈ groupS.frags, e.2.hold = .none) ∧ (saving0 (holding [])).gang? 1 0 = some gangS
      ∧ (∀ e ∈ (saving0 (holding [])).groups, e.1 = 0) ∧ PlainBytes (saving0 (holding [])) 0 0x8000000 ((saving0 (holding [])).image 0 groupS).length)
    ∧ (PlainBytes restoring0 0 0x8000000 restored0.length ∧ 256 ≤ restored0.length
        ∧ firstFail (headerChecks ((List.range 256).map fun i => restoring0.readByte (0x8000000 + i)) (restoring0.grid? 1)) = none
        ∧ firstFail (sectionChecks restored0 (((restoring0.gang? 1 0).map (·.tmask)).getD 0) (restoring0.split 0) gridS.desc.scratch) = none
        ∧ restoring0.imgFits restored0 0 = true)
    ∧ (let h := (List.range 128).map fun i => regang0.readByte (0x8000000 + i)
       regang0.grid? 1 = some gridR ∧ regang0.gang? 1 0 = some gangR ∧ firstFail (regang0.recordChecks h) = none
        ∧ PlainBytes regang0 0 0x8000000 (128 + recField h 0x14 1 * gridR.desc.scratch)
        ∧ regang0.replan 1 gridR (BitVec.ofNat 8 (recField h 0x15 1)) (regang0.restoreClusters 0 gridR)
            ((List.range (recField h 0x14 1)).map fun i => (List.range 16).filter fun e => bits (recField h (0x20 + 4 * i) 4) e e == 1 && decide (e ∈ gangR.saves))
            = some [⟨0, 0, [(0, 0)]⟩])
    ∧ (s0.svc 0).rcv.length < 256 := by
  refine ⟨by decide +kernel, ⟨by decide +kernel, by decide +kernel, by decide +kernel, by decide +kernel, by decide +kernel, plain_at (by decide +kernel) (by decide +kernel) (by decide +kernel) (by decide +kernel) (by decide +kernel)⟩,
    ⟨plain_at (by decide +kernel) (by decide +kernel) (by decide +kernel) (by decide +kernel) (by simp [restored0_eq]), by simp [restored0_eq], by decide +kernel, restored0_sections, by decide +kernel⟩,
    ⟨by decide +kernel, by decide +kernel, by decide +kernel, plain_at (by decide +kernel) (by decide +kernel) (by decide +kernel) (by decide +kernel) (by decide +kernel), ?_⟩, by decide +kernel⟩
  rw [show ((List.range _).map _ : List (List Nat)) = [[0]] by decide +kernel, replan_single (c := 0) (by decide +kernel) (by decide +kernel)]
  decide +kernel

/-- A queue of priority 3. -/
def bind0 : QBind := ⟨0x8000000, 1, 1, 1, 4, true, 3, some 0, []⟩
/-- A queue's table entry at die 0, queue 0: bound, and with a reserved bit. -/
def tabled (v : Nat) : State := { State.reset with due := [.queueBinding 0 0], mem := [(0x7000015, BitVec.ofNat 8 v)] }
/-- Die `d` with its distributor, and events due. -/
def withDist (d : Nat) (x : Dist) (ev : List Instr) : State := { State.reset with due := ev, dies := [(d, { Die.reset d with dist := x })] }

/-- O49: entries that are valid and not, and one whose fields are not legal; a queue that waits for a slot; distributors that beat, that have
stopped, that stop with and without a neighbour to adopt them; a checkpoint. -/
theorem witness_QueuesAndDistributors :
    ((tabled 0).deviceNat (queueEntryAt 0 0 + 0x15) 1 / 128 % 2 ≠ 1 ∧ (tabled 0x80).deviceNat (queueEntryAt 0 0 + 0x15) 1 / 128 % 2 = 1
      ∧ (tabled 0xFF).queueEntry 0 0 = none)
    ∧ (let s := { State.reset with mem := [(0x7000008, 1), (0x7000010, 1), (0x7000012, 1), (0x7000014, 4), (0x7000015, 0x80)] }
       s.queueEntry 0 0 ≠ none)
    ∧ ((0x3FF : Word).toNat < 1024 ∧ 1024 ≤ (0x400 : Word).toNat)
    ∧ (let s := withDist 0 { Dist.reset with binds := [(5, bind0)] } []
       (s.dist 0).up = true ∧ (s.dist 0).slots = [] ∧ bind0.prio < 8 ∧ (s.die 0).fmode.getLsbD 1 = false)
    ∧ (State.reset.dist 0).alive = true ∧ State.reset.adopterOf 0 = some 1
    ∧ ((withDist 0 { Dist.reset with alive := false } [.heartbeatLost 1 0]).dist 0).up = false
    ∧ ({ withDist 1 { Dist.reset with alive := false } [] with dies := [(1, { Die.reset 1 with fence := 16 }), (8, { Die.reset 8 with fence := 16 })] } : State).adopterOf 0 = none
    ∧ (∃ i < 2048, checkpointAt 0 / 32 + i ∈ ({ State.reset with poison := [checkpointAt 0 / 32 + 2047] } : State).poison)
    ∧ (State.reset.poison = [] ∧ (State.reset.dist 0).ckpt = none)
    ∧ ((State.reset.dist 0).adopter = none ∧ (State.reset.die 0).fence.getLsbD 4 = false ∧ (State.reset.dist 1).alive = true ∧ (State.reset.dist 0).held = []
      ∧ (State.reset.dist 0).adopting = [] ∧ FormsNew State.reset 1)
    ∧ (let s := { State.reset with dies := [(0, { Die.reset 0 with dist := { Dist.reset with alive := false, adopter := some 1 } }),
                                            (1, { Die.reset 1 with dist := { Dist.reset with adopting := [0] } })] }
       ∀ k ∈ (s.dist 1).adopting, (s.dist k).adopter = some 1) := by
  unfold FormsNew
  refine ⟨?_, ?_, ?_, ?_, ?_, ?_, ?_, ?_, ⟨2047, by decide, .head _⟩, ?_, ?_, ?_⟩ <;> decide +kernel
/-- O49: a checkpoint that can be read. -/
theorem witness_checkpoint {s : State} {d : Nat} (hp : s.poison = []) (hc : (s.dist d).ckpt = none) : s.readCheckpoint d = some Ckpt.empty := by
  simp [State.readCheckpoint, hp, hc]
theorem witness_beatLate : s0.clock 0 < 0 + 2 ^ 20 ∧ 0 + 2 ^ 20 ≤ (later s0 (2 ^ 20)).clock 0 ∧ s0.clock 1 < 0 + 4 * 2 ^ 20
    ∧ 0 + 4 * 2 ^ 20 ≤ (later s0 (4 * 2 ^ 20)).clock 1 := by
  have a := witness_time s0 (2 ^ 20) 0 rfl rfl
  have b := witness_time s0 (4 * 2 ^ 20) 1 rfl rfl
  exact ⟨by omega, by omega, by omega, by omega⟩

/-- O50: rows of tenants 1 and 2 that share a core, and none; a boundary value of each register's writer; die 6 and die 57. -/
theorem witness_RegistersTakeTheirWrites :
    tcfgClash 0 0x8001000100000000 0x8002000100000000 = true ∧ tcfgClash 0 0x8001000100000000 0x8002000200000000 = false
    ∧ (({ s0 with dies := [(0, { Die.reset 0 with tcfg := [(15, 0x8002000100000000)] })] } : State).die 0).tcfg.get 0 15 = 0x8002000100000000
    ∧ (8 : Dword).getLsbD 3 = true ∧ (s0.die 0).fmode.getLsbD 3 = false ∧ (0 : Dword).getLsbD 3 = (s0.die 0).fmode.getLsbD 3
    ∧ (6 : BitVec 6).toNat ≤ 6 ∧ 57 ≤ (57 : BitVec 6).toNat ∧ (0x0400000000000000 : Dword).extractLsb' 58 2 = 1
    ∧ (0x0800000000000000 : Dword).extractLsb' 58 2 = 2 ∧ Agent.firmware ≠ .host ∧ (1 : BitVec 10) ≠ 0
    ∧ ((inCluster fun x => { x with svc := { Svc.reset with mode := .s } }).svc 0).mode = .s
    ∧ ((inCluster fun x => { x with svc := { Svc.reset with mode := .u } }).svc 0).mode = .u := by
  refine ⟨?_, ?_, ?_, ?_, ?_, ?_, ?_, ?_, ?_, ?_, ?_, ?_, ?_, ?_⟩ <;> decide +kernel

/-- Die 0 with a change, and an event due. -/
def withDie (f : Die → Die) (ev : List Instr) : State := { s0 with due := ev, dies := [(0, f (Die.reset 0))] }
/-- A switch of tenant 1 to tenant 2 that waits for a gang, and a scrub of the one entry at 0x1000 of frame 2,048. -/
def switch0 : Switch := ⟨1, 2, 1, 0, 0x1000, 1, [(1, 0)], [], 1, false⟩
def scrub0 : Scrub := { boot := false, tout := 1, tin := 2, dies := 1, closed := false, cores := 1, halves := 0, list := 0x8010000, n := 1, freed := [] }
def scrubbing (cells : List Host.Cell) : State := { withDie (fun x => { x with scrub := some scrub0 }) [.sluiceScrub 0 []] with mem := cells }
def entryCells : List Host.Cell := [(0x8010003, 8), (0x8010008, 1), (0x801000C, 1), (0x801000E, 2)]

/-- O51: a switch of a tenant that the die has not, and that it has; one whose gang is saved; a list that is well formed and one whose frame is
another tenant's; tokens for the module and for a host; a delegated signature that is awaited. -/
theorem witness_ScrubsTokensAndReports :
    (let w := fun i => ([0x0000000200000001, 1, 0, 0x8010000, 1] : List Dword).getD i 0
     (w 0).extractLsb' 48 16 = 0 ∧ (w 0).extractLsb' 12 20 = 0 ∧ (w 2).extractLsb' 32 32 = 0 ∧ (w 4).extractLsb' 32 32 = 0
       ∧ (s0.die 0).hasTenant ((w 0).extractLsb' 0 16).toNat = false
       ∧ ((withDie (fun x => { x with tcfg := [(0, 0x8001000100000000)] }) []).die 0).hasTenant ((w 0).extractLsb' 0 16).toNat = true)
    ∧ ((withDie (fun x => { x with dist := { x.dist with switch := some switch0 } }) []).dist 0).switch = some switch0
    ∧ (let s := withDie (fun x => { x with dist := { x.dist with switch := some switch0 } }) []
       ∀ e ∈ s.switchGangs 0 switch0.tout switch0.cores switch0.halves, e ∈ switch0.gangs)
    ∧ ((s0.gang? 1 0).map (·.st) = some .placed ∧ ({ s0 with grids := [(1, { probeGrid with gangs := [(0, gangR)] })] } : State).gang? 1 0 = some gangR)
    ∧ (let es := rangeList ((scrubbing entryCells).listBytes 0 scrub0)
       es.length = 1 ∧ (scrubbing entryCells).badEntry es = none ∧ ∀ e ∈ es, ∀ f ∈ e.frames, 2 ^ 27 ≤ paOff f)
    ∧ (scrubbing ([(0x4001, 0x10)] ++ entryCells)).badEntry (rangeList ((scrubbing ([(0x4001, 0x10)] ++ entryCells)).listBytes 0 scrub0)) = some 0
    ∧ (let s := withDie (fun x => { x with tokens := [1] }) [.tokenSign 0 0 0]
       (s.die 0).nextToken = some 1 ∧ (s.tokenBytes 0 1).getD 0x11 0 = 0)
    ∧ (let s := { withDie (fun x => { x with tokens := [1], lcfg := 0x8000000000000000 }) [.tokenSign 0 0 0] with
                  mem := [(tokenAt 0 1 + 0x11, 1)], links := [(0, { Link.reset with up := true })] }
       (s.tokenBytes 0 1).getD 0x11 0 = 1 ∧ s.hostLink 0 = some 0 ∧ s.hostWait = [] ∧ (s.links.find 0).isSome = true
         ∧ ({ Link.reset with up := true } : Link).spend.isSome = true ∧ ({ s with links := [] } : State).hostLink 0 = none)
    ∧ (let x := (withDie (fun x => { x with tokens := [1], tokAsk := [(1, 0)] }) [.delegatedSignTimeout 0]).die 0
       x.tokens.find? (fun n => x.tokAsk.has n && n % 2 ^ 32 == (1 : Word).toNat) = some 1 ∧ x.tokAsk = [(1, 0)]) := by
  refine ⟨?_, ?_, ?_, ?_, ?_, ?_, ?_, ?_, ?_⟩ <;> decide +kernel
theorem witness_signLate : s0.clock 0 < 0 + 2 ^ 30 ∧ 0 + 2 ^ 30 ≤ (later s0 (2 ^ 30)).clock 0 := by
  have h := witness_time s0 (2 ^ 30) 0 rfl rfl
  exact ⟨by omega, by omega⟩

/-- O52: stage 1 is due from reset, which reads firmware unless fmode[2] gives the boot to the host; the last stage 2; stage 4 of the boot core, and of another once Peat runs. -/
theorem witness_ResetAndBoot : Instr.bootStage1 true true ⟨true, true⟩ ∈ State.reset.due
    ∧ Instr.bootStage2 5 true true ∈ ({ State.reset with due := [.bootStage2 5 true true] } : State).due
    ∧ Instr.bootStage3 0 false ∈ ({ State.reset with due := [.bootStage3 0 false] } : State).due
    ∧ Instr.bootStage4 17 ∈ ({ State.reset with due := [.bootStage4 17], boot := 4 } : State).due ∧ 4 ≤ ({ State.reset with boot := 4 } : State).boot
    ∧ (State.reset.die 0).fmode.getLsbD 2 = false ∧ (State.reset.ctl 0).enabled = false
    ∧ (let s := withDie (fun x => { x with fmode := 4 }) [.bootStage1 true true ⟨true, true⟩]
       (s.die 0).fmode.getLsbD 2 = true ∧ s.romLoad.isSome = false) :=
  ⟨.head _, .head _, .head _, .head _, Nat.le_refl _, by decide +kernel, by decide +kernel, by decide +kernel⟩

/-- An access of a service core to its last doubleword of line 0x100000 (0x8000078), which its cache holds, and one that is not aligned. -/
def access0 (op : SvcOp) (va : Dword) : SvcAccess := { op := op, va := va, size := 3, signed := true, value := 1, rd := 31, aq := false, rl := false }
def accessing (op : SvcOp) (va : Dword) : State :=
  { State.reset with due := [.serviceCoreAccess 0 (access0 op va)], mem := holding [], caches := [(4, ⟨[(0x100000, lineIn .m)], [], []⟩)] }
/-- Die 0 with an error record of its own, still to be told of, and a service core. -/
def logged (svc : Svc) : State :=
  { s0 with due := [], clusters := [(0, { Cluster.reset with svc := svc })] }.record 0 (mkRec 1 6 1 0 0 0 0 0 0 0)
/-- A service core in S-mode's lower mode, to which firmware delegates calls; and one that runs a word at 0x8000000. -/
def user0 : Svc := { Svc.reset with mode := .u, csrs := [(0x302, 0x100)] }
def running (bs : List (Nat × Nat)) (svc : Svc) : State :=
  let s := { State.reset with due := [], mem := holding bs, clusters := [(0, { Cluster.reset with svc := { svc with running := true, pc := 0x8000000 } })] }
  { s with due := [s.hartEvent 0] }

/-- O53: a die not yet fenced; a record for a service core, with room and none; a host's link; a patrol; a core at work; its aligned and
misaligned accesses; a delegated trap and one from M-mode. -/
theorem witness_FailuresRecordsAndServiceAccesses :
    (s0.die 0).fence.getLsbD 4 = false ∧ (s0.cluster 0).out = false ∧ inHole (32 * (0x3B9ACA00 : BitVec 38).toNat) = false
    ∧ (let s := logged Svc.reset
       Instr.errorRecordDelivered 0 1 false ∈ s.due ∧ s.chans.map recordOf = [some (0, 1)] ∧ s.chans.map (fun e => (e.1, e.2.1)) = [(.dist 0, .svc 0)]
         ∧ s.msgDropped (.dist 0) (.svc 0) = false ∧ (s.die 0).undelivered.get 0 1 = 1 ∧ (s.die 0).heldRecs = [] ∧ (s.svc 0).rcv.length < 256)
    ∧ 256 ≤ ((logged { Svc.reset with rcv := List.replicate 256 (.svc 0, ⟨0, []⟩) }).svc 0).rcv.length
    ∧ (let s := { withDie (fun x => { x with errctl := 0x8000000000000000 }) [.errorRecordDelivered 0 1 true] with links := [(0, { Link.reset with up := true })] }
       s.hostFirst 0 1 = true ∧ Instr.errorRecordDelivered 0 1 true ∈ s.due ∧ s.draining (linkDie (s.die 0).hlink) (4 + (s.die 0).hlink) = false ∧ (s.die 0).hen = true ∧ (s.die 0).hlink ≤ 13
         ∧ s.samePart 0 (linkDie (s.die 0).hlink) = true ∧ s.links.find (s.die 0).hlink = some { Link.reset with up := true }
         ∧ ({ Link.reset with up := true } : Link).spend.isSome = true ∧ s.sends 0 (linkDie (s.die 0).hlink) = true ∧ (s.die 0).heldRecs = [])
    ∧ (let s := accessing .load 0x8000078
       s.svcHeld 0 = false ∧ (s.svc 0).mode = .m ∧ ownState (s.ownEntry 0x8000078) ≠ 2 ∧ s.reach 0 (paDie 0x8000078) = true
         ∧ regFrame (paOff 0x8000078) = false ∧ inHole 0x8000078 = false ∧ 0x8000078 % 2 ^ (3 : BitVec 2).toNat = 0
         ∧ (s.cache (cacheOfSvc 0)).lines.find (0x8000078 / 128) = some (lineIn .m) ∧ (lineIn .m).psn = 0 ∧ (lineIn .m).data.length = 128)
    ∧ (0x8000079 : Dword).toNat % 2 ^ (3 : BitVec 2).toNat ≠ 0
    ∧ (user0.mode ≠ .m ∧ (user0.csr 0x302).getLsbD 8 = true ∧ (user0.csr 0x302).getLsbD 9 = false ∧ Svc.reset.mode = .m) := by
  refine ⟨?_, ?_, ?_, ?_, ?_, ?_, ?_, ?_, ?_⟩ <;> decide +kernel
/-- What a service core fetches, and how it ends: at a pc (1), in a trap (2), or waiting (3). -/
def hartEnds (s : State) : Nat × Nat × Nat × Nat × Nat :=
  match s.hartFetch 0 with
  | .inl (w, raw, n, t) =>
    match t.hartExec 0 w n with
    | .next pc _ => (w, raw, n, 1, pc.toNat)
    | .trap k _ _ => (w, raw, n, 2, k)
    | .waits _ => (w, raw, n, 3, 0)
  | .inr _ => (0, 0, 0, 0, 0)
/-- O53: a service core at an instruction that goes on, at one that traps, and one that an interrupt is pending for; what the fetch gives. -/
theorem witness_serviceCoreRuns :
    (∀ bs ∈ ([[(0, 0x93), (2, 0x10)], [(0, 0x73)]] : List (List (Nat × Nat))), let s := running bs Svc.reset
      s.hartEvent 0 ∈ s.due ∧ (s.cluster 0).out = false ∧ (s.svc 0).running = true ∧ s.svcHeld 0 = false ∧ s.svcIrq 0 = none)
    ∧ hartEnds { running [(0, 0x93), (2, 0x10)] Svc.reset with due := [] } = (0x100093, 0x100093, 4, 1, 0x8000004)
    ∧ hartEnds { running [(0, 0x73)] Svc.reset with due := [] } = (0x73, 0x73, 4, 2, 11)
    ∧ hartEnds { running [(0, 0x05), (1, 0x20)] Svc.reset with due := [] } = (0, 0, 0, 0, 0)
    ∧ (running [] { Svc.reset with mode := .u, sie := 0x40000 }).svcIrq 0 = some (false, 18) := by
  refine ⟨?_, ?_, ?_, ?_, ?_⟩ <;> decide +kernel

/-! ### States that meet the hypotheses of the statements: calls, storage, links -/

/-- Lane 0 of the group has made call `n`, which Peat has taken, with the arguments `a`, at handle 1 of cluster 0. -/
def callF (n : Nat) : Frag := { frag0 with mask := 1, state := .callWait, call := some { kind := 1, reg := 8, call := n, callers := 1, handle := some 1 } }
def callRing : RingSlot := ring0 [{ rec0 1 with size := 320, taken := true }]
def callBy (b : State) (n : Nat) (a : List Nat) : State :=
  { b with groups := [(0, groupC (callF n))]
           clusters := [(0, { Cluster.reset with
             scratch := (0x8040, 1) :: a.zipIdx.flatMap fun e => (List.range 4).map fun i => (0x80C0 + 4 * e.2 + i, BitVec.ofNat 8 (e.1 / 256 ^ i))
             rings := [(0, callRing)], handles := [(1, { handle0 1 with callers := 1 })] })] }
def served0 (n : Nat) : Served := ⟨{ handle0 1 with callers := 1 }, groupC (callF n), callF n, ⟨1, 8, n, 1, some 1⟩, [0]⟩

theorem call_served {b : State} (n : Nat) (a : List Nat) (hb : (b.die 0).fmode.getLsbD 4 = false) :
    (callBy b n a).served 0 1 = some (served0 n) := by
  have hd : ((callBy b n a).die (0 / 16)).fmode.getLsbD 4 = false := hb
  have hr : ((callBy b n a).cluster 0).recOf 1 = some (0x8000, true) := rfl
  have hw : (callBy b n a).waiter 0 1 = some ({ handle0 1 with callers := 1 }, groupC (callF n), callF n, ⟨1, 8, n, 1, some 1⟩) := rfl
  rw [State.served, hd, hr, hw]
  exact congrArg (fun l => some (Served.mk _ _ _ _ l)) (by decide +kernel : lanesOf ((1 : Mask) &&& 1) 32 = [0])
theorem one_call {b : State} {n : Nat} {a : List Nat} (hb : (b.die 0).fmode.getLsbD 4 = false) (ha : (callBy b n a).argsOf 0 1 (served0 n) 0 = a) :
    OneCall (callBy b n a) 0 1 n (served0 n) a where
  served := call_served n a hb
  kind := rfl
  call := rfl
  one := ⟨0, by decide, rfl, ha⟩

theorem free_some {s : State} {d f : Nat} {m : BitVec 16} (hf : f < dieFrames) (hm : m.getLsbD (f % 16) = true)
    (h : ownState (s.ownEntry (d * 2 ^ 37 + 65536 * f)) = 0) (h' : bits (s.ownEntry (d * 2 ^ 37 + 65536 * f)) 63 17 = 0) :
    (s.freeFrame d m).isSome = true := by
  have hm : f ∈ (List.range dieFrames).filter fun f =>
      m.getLsbD (f % 16) &&
      let e := s.ownEntry (d * 2 ^ 37 + 65536 * f)
      ownState e == 0 && bits e 63 17 == 0 :=
    List.mem_filter.2 ⟨List.mem_range.2 hf, Bool.and_eq_true_iff.2 ⟨hm, Bool.and_eq_true_iff.2 ⟨beq_iff_eq.2 h, beq_iff_eq.2 h'⟩⟩⟩
  unfold State.freeFrame
  simp only [List.isEmpty_iff, List.ne_nil_of_mem hm, if_false, Option.isSome_some]

/-- Space 1 with its tables, of which the last is empty, and frame 2,049 free. -/
def mappable : State :=
  ([(0x1000008, 1), (0x100000A, 0xB8), (0x100000B, 0x0B), (0x100000E, 0x10), (0xBB80000, 1), (0xBB80002, 0xB9), (0xBB80003, 0x0B),
    (0xBB90000, 1), (0xBB90002, 0xBA), (0xBB90003, 0x0B), (0x4009, 0)] : List (Nat × Nat)).foldl (fun s e => s.writeByte e.1 (BitVec.ofNat 8 e.2))
    (withDie (fun x => { x with tcfg := [(0, 0x8001FFFF00000000)] }) [])
theorem mappable_page (b : List Byte) : ((callBy mappable 3 [0x10000, 0, 1, 7, 0xFFFFFFFF, 0]).mapPages 0 1 1 0x10000 7 [b]).isSome = true := by
  generalize hs : callBy mappable 3 [0x10000, 0, 1, 7, 0xFFFFFFFF, 0] = s
  have hp : s.pageSlot 0 0x10000 3 (bits (s.spaceEntry 0 1) 42 16) 1 = some (s, 0xBBA0008) := by subst hs; decide +kernel
  have hz : bits (s.deviceNat 0xBBA0008 8) 1 0 = 0 := by subst hs; decide +kernel
  have hf : (s.freeFrame 0 ((s.die 0).sliceGroups 1)).isSome = true :=
    free_some (f := 2049) (by decide) (by subst hs; decide +kernel) (by subst hs; decide +kernel) (by subst hs; decide +kernel)
  obtain ⟨f, hf⟩ := Option.isSome_iff_exists.1 hf
  have hm : s.mapPage 0 1 1 0x10000 7 b ≠ none := by
    rw [State.mapPage, show ((1 : BitVec 16).toNat) = 1 from rfl, hp]
    simp [hz, hf]
  obtain ⟨u, hu⟩ := Option.ne_none_iff_exists'.1 hm
  exact congrArg Option.isSome (show (s.mapPage 0 1 1 0x10000 7 b).bind (fun s => s.mapPages 0 1 1 0x20000 7 []) = some u by rw [hu]; rfl)

/-- Whether a reach gets something that a test accepts. -/
def gets {α : Type} (r : Reach α) (p : α → Bool) : Bool :=
  match r with
  | .got x _ => p x
  | _ => false
/-- A file "a" of tenant 1 on controller 0, which cluster 0's service core can use, open at descriptor 3; a socket at descriptor 4. -/
def file0 : FileEnt := { tenant := 1, path := [0x61], data := [1, 2, 3], durable := [], cut := none, ctl := 0, reported := 0, flushed := 0, writeErr := false }
def peat0 : Peat :=
  { Peat.reset with files := [(0, file0)], fds := [(3, .file 1 0 3), (4, .sock 1 4 0 0 0 false [9]), (6, .sock 1 4 0 0 0 true [])], quota := [(16, 1), (26, 0)], blocks := [(2 ^ 64 + 64, 1)],
                    completions := [(7, 7)], handlers := [(1, 1, 0x8000100)] }
def nvme0 : Nvme := { Nvme.reset with ready := true, queues := [0] }
/-- That multikernel over the memory of `walkable`, with "a" at 0x8000000 and a launch record at 0x8001000. -/
def peated : State :=
  { s0 with
    mem := (record0.zipIdx.foldl (fun (s : State) e => s.writeByte (0x8001000 + e.2) e.1)
        (descr0.zipIdx.foldl (fun (s : State) e => s.writeByte (0x8000100 + e.2) e.1) ((walkable State.reset).writeByte 0x8000000 0x61))).mem
    peat := peat0, nvme := [(0, nvme0)], ports := [(0, { Port.reset with up := true })] }

/-- O54, O55: the arguments of each call, as its record holds them. -/
theorem witness_arguments : ∀ e ∈ ([(1, [64, 0, 0, 0, 0, 0]), (1, [65536, 0, 0, 0, 0, 0]), (2, [64, 0, 0, 0, 0, 0]), (2, [128, 0, 0, 0, 0, 0]),
      (3, [0x10000, 0, 1, 7, 0xFFFFFFFF, 0]), (4, [0, 0, 1, 0, 0, 0]), (5, [0x8000100, 0, 11, 0, 0, 0]), (6, [0x8000000, 0, 3, 0, 0, 0]),
      (7, [3, 0x8000000, 0, 3, 0, 0]), (8, [3, 0x8000000, 0, 1, 3, 0]), (9, [3, 0, 0, 0, 0, 0]), (10, [3, 0, 0, 0, 0, 0]), (10, [5, 0, 0, 0, 0, 0]),
      (11, [4, 1, 0, 0, 0, 0]), (11, [6, 0, 0, 0, 0, 0]), (12, [4, 0x8000000, 0, 1, 0, 0]), (13, [4, 0x8000000, 0, 1, 0, 0]), (14, [0x8001000, 0, 0, 0, 0, 0]),
      (15, [1, 0, 0, 0, 0, 0]), (15, [7, 0, 0, 0, 0, 0]), (16, [0, 0, 0, 0, 0, 0])] : List (Nat × List Nat)),
    (callBy s0 e.1 e.2).argsOf 0 1 (served0 e.1) 0 = e.2 := by
  decide +kernel
/-- O54: every call, with what its clause asks of its arguments and of Peat. -/
theorem witness_CallsAnsweredAtOnce :
    OneCall (callBy peated 1 [64, 0, 0, 0, 0, 0]) 0 1 1 (served0 1) [64, 0, 0, 0, 0, 0] ∧ sizeClass 64 = some 0 ∧ sizeClass 65536 = some 10
    ∧ 0 < peat0.quotaOf (16 * 1 + 0) ∧ peat0.quotaOf (16 * 1 + 10) = 0
    ∧ peat0.blocks.find (2 ^ 64 * 1 + 128) = none ∧ peat0.blocks.find (2 ^ 64 * 1 + 64) = some (0 + 1)
    ∧ (∃ u, (callBy mappable 3 [0x10000, 0, 1, 7, 0xFFFFFFFF, 0]).mapPages 0 1 1 0x10000 7 (filePages [] 0 1) = some u)
    ∧ (7 < 128 ∧ 7 / 16 % 4 ≠ 3 ∧ 7 / 8 % 2 = 0) ∧ (11 < 16 ∧ 11 / 4 % 2 = 0) ∧ (3 < 64 ∧ 3 % 4 ≠ 0 ∧ 3 / 8 % 2 = 0)
    ∧ gets ((callBy peated 6 [0x8000000, 0, 3, 0, 0, 0]).readPath 0 1 0x8000000 4096) (· == some [0x61]) = true
    ∧ peat0.files.find? (fun e => e.2.tenant == 1 && e.2.path == [0x61]) = some (0, file0) ∧ peated.fileOut file0 = false
    ∧ peated.fd 1 5 = none ∧ (peated.fd 1 3 = some (.file 1 0 3) ∧ peated.fd 1 4 = some (.sock 1 4 0 0 0 false [9]) ∧ peated.fd 1 6 = some (.sock 1 4 0 0 0 true []))
    ∧ (peated.hostFiles 0 1 3 = false ∧ peated.hostFiles 0 1 5 = false ∧ (peated.die 0).fmode.getLsbD 5 = false) ∧ (served0 16).w.call = 16 := by
  refine ⟨one_call (by decide +kernel) (by decide +kernel), by decide +kernel, by decide +kernel, by decide +kernel, by decide +kernel, by decide +kernel, by decide +kernel,
    Option.isSome_iff_exists.1 (mappable_page _), by decide, by decide, by decide, ?_, by decide +kernel, by decide +kernel, by decide +kernel, by decide +kernel, by decide +kernel, rfl⟩
  decide +kernel

/-- A fault handler's grid that answers entry 3 of die 0 by its TRAPI, and a yield. -/
def trapping (code : Nat) : State :=
  { withQuag quag0 (called { handle0 2 with callers := 3 } (calling 2 20 code) Svc.reset) with
    peat := { Peat.reset with handlerGrids := [(1, 0, 3, 0)] }
    groups := [(0, { groupC (calling 2 20 code) with s := [(20, 3)] })]
    clusters := [(0, { Cluster.reset with rings := [(0, { ring0 [{ rec0 2 with taken := true }] with budget := 9 })], handles := [(1, handle0 2)]
                                          scratch := [(0x8018, 3)] })] }
/-- The record of a launch of a handler, and its handle. -/
def handling : State :=
  { withQuag quag0 peated with
    clusters := [(0, { Cluster.reset with rings := [(0, ring0 [{ rec0 3 with taken := true }])], handles := [(1, handle0 3)] })] }

/-- O55: what the clauses ask of each call that waits, of a handler's answer and of its launch. -/
theorem witness_CallsThatWaitAndFaultHandlers :
    OneCall (callBy peated 7 [3, 0x8000000, 0, 3, 0, 0]) 0 1 7 (served0 7) [3, 0x8000000, 0, 3, 0, 0]
    ∧ ((callBy peated 7 []).waitsOf (served0 7) = [] ∧ (peated.nvme.map (·.1)).Nodup ∧ peated.fdFile 1 3 = some (0, file0, 3) ∧ (3 : Nat) / 16 % 2 = 0)
    ∧ ((callBy peated 7 []).spanMap 0 1 0x8000000 3 Want.store).isSome = true ∧ ((callBy peated 8 []).spanMap 0 1 0x8000000 1 Want.load).isSome = true
    ∧ (peated.ioReady 0 0 = true ∧ 2 ≤ peated.ioRoom 0 0 ∧ (3 : Nat) ≤ file0.data.length ∧ 3 + 1 < 2 ^ 63 ∧ peated.fileRoom 0 file0 (3 + 1) = true)
    ∧ (peated.fd 1 4 = some (.sock 1 4 0 0 0 false [9]) ∧ (peated.ports.get Port.reset 0).up = true)
    ∧ gets (((callBy peated 13 []).takeCompletions 0).spanWrite 0 1 0x8000000 [9]) (fun _ => true) = true
    ∧ gets (((callBy peated 14 []).takeCompletions 0).spanRead 0 1 0x8001000 192) (· == record0) = true
    ∧ (match (callBy peated 14 []).peatLaunch 0 record0 launcher0 with | .accept _ _ => true | _ => false) = true
    ∧ ((callBy peated 15 []).grid? 1 = some probeGrid ∧ (callBy peated 15 []).grid? 7 = none ∧ peat0.completions.find 7 = some 7)
    ∧ (((trapping 1).served 0 1).map (fun v => (v.w.kind, v.w.call, (trapping 1).trapValue 0 1 v)) = some (2, 1, 3)
      ∧ (trapping 1).peat.handlerGrids.find? (fun k => k.1 == 1 && k.2.2.1 == 3) = some (1, 0, 3, 0) ∧ quag0.clock = 0 ∧ ((trapping 1).die 0).quag.find 3 = some quag0)
    ∧ (((trapping 2).served 0 1).map (fun v => (v.w.kind, v.w.call)) = some (2, 2) ∧ ((trapping 2).cluster 0).slotOf 1 = some 0)
    ∧ ((handling.cluster 0).recOf 1 = some (0x8000, true) ∧ (handling.die 0).quag.find 3 = some quag0 ∧ handling.peat.handlers.find 1 = some (1, 0x8000100)
      ∧ 1 / 2 ^ quag0.kind % 2 = 1)
    ∧ (match handling.peatLaunch 0 (leBytes 2 1 ++ leBytes 2 0 ++ leBytes 4 0 ++ leBytes 8 0x8000100 ++ leBytes 4 1 ++ leBytes 4 1 ++ leBytes 4 1 ++ leBytes 4 0
        ++ leBytes 8 0 ++ leBytes 8 0 ++ faultRecord quag0.va 0 1 0 0 3 quag0.level 0 ++ leBytes 8 3 ++ List.replicate 104 0)
        { tenant := 1, asn := 1, depth := 0, dies := [0], queue := none, parent := none, batch := none, record := 0 } with
       | .accept _ _ => true | _ => false) = true := by
  refine ⟨one_call (by decide +kernel) (by decide +kernel), ?_, ?_, ?_, ?_, ?_, ?_, ?_, ?_, ?_, ?_, ?_, ?_, ?_⟩ <;> decide +kernel

/-- A command 0 of service core 0 on block 5 of namespace 1, with its page at 0x8000000 or the job of a file call. -/
def cmd0 (op : NvmeOp) (job : Option FileJob) : NvmeCmd :=
  { cid := 0, core := 0, op := op, nsid := 1, lba := 5, n := 1, prps := [0x8000000], fua := false, clock := 0, status := none, job := job, covers := [] }
/-- Controller 0, whose namespace 1 has six blocks, with that command. -/
def ctl0 (q : NvmeCmd) : Nvme :=
  { Nvme.reset with ready := true, spaces := [(1, 6, true)], cmds := [q], cache := [(2 ^ 40 + 5, [1])], cqs := [0], queues := [0] }
def storing (q : NvmeCmd) (ev : Instr) : State := { peated with nvme := [(0, ctl0 q)], due := [ev] }

/-- O56: a read for a file call, a write of the last block, a flush, the two that free blocks, a completion, a fatal status, a controller that is
reset and not ready, one without namespaces. -/
theorem witness_StorageCommandsTakeEffect :
    (let q := cmd0 .read (some ⟨0, 0, 3, 1, 0x8000000⟩)
     let s := storing q (.nvmeRead 0 0)
     s.cmdOf 0 0 .read = some q ∧ (ctl0 q).inSpace q = true ∧ q.places = [0x8000000, 0x8000001, 0x8000002] ∧ (∀ p ∈ q.places, s.lineBusy (p / 128) = false)
       ∧ (∀ p ∈ q.places, (s.die (paDie p)).fence.getLsbD 4 = false)
       ∧ ∀ p ∈ q.places, (({ s with dies := [(0, { Die.reset 0 with fence := 0x1F })] } : State).die (paDie p)).fence.getLsbD 4 = true)
    ∧ (let q := cmd0 .write (some ⟨0, 0, 3, 1, 0x8000000⟩)
       let s := { storing q (.nvmeWrite 0 0) with poison := [0x8000000 / 32] }
       s.cmdOf 0 0 .write = some q ∧ (ctl0 q).inSpace q = true ∧ s.peat.files.find 0 = some file0 ∧ (∀ p ∈ q.places, (s.die (paDie p)).fence.getLsbD 4 = false) ∧ FormsNew s q.die
        ∧ (∀ p ∈ q.places, backed p = true ∧ s.lineBusy (p / 128) = false ∧ s.mCache (p / 128) = none) ∧ ∃ p ∈ q.places, s.poisoned p = true)
    ∧ (let q := { cmd0 .read none with lba := 6 }
       (storing q (.nvmeRead 0 0)).cmdOf 0 0 .read = some q ∧ (ctl0 q).inSpace q = false)
    ∧ ((storing (cmd0 .write none) (.nvmeWrite 0 0)).cmdOf 0 0 .write = some (cmd0 .write none) ∧ (ctl0 (cmd0 .write none)).inSpace (cmd0 .write none) = true)
    ∧ ((storing (cmd0 .flush none) (.nvmeFlush 0 0)).cmdOf 0 0 .flush = some (cmd0 .flush none) ∧ ((ctl0 (cmd0 .flush none)).cache.map (·.1)).Nodup
      ∧ (ctl0 (cmd0 .flush none)).cache.find (2 ^ 40 + 5) = some [1] ∧ (2 ^ 40 + 5) / 2 ^ 40 = 1)
    ∧ (storing (cmd0 .writeZeroes none) (.nvmeWriteZeroes 0 0)).cmdOf 0 0 .writeZeroes = some (cmd0 .writeZeroes none)
    ∧ (∀ j ∈ [none, some (⟨0, 0, 3, 1, 0x8000000⟩ : FileJob)], (storing (cmd0 .deallocate j) (.nvmeDatasetManagement 0 0)).cmdOf 0 0 .deallocate = some (cmd0 .deallocate j))
    ∧ (let q := { cmd0 .read none with status := some .ok }
       (ctl0 q).cmds.find? (fun q => q.cid == 0 && q.status.isSome) = some q)
    ∧ ((ctl0 (cmd0 .read none)).out = false ∧ (ctl0 (cmd0 .read none)).cfs = false ∧ Nvme.reset.ready = false ∧ ({ Nvme.reset with spaces := [] } : Nvme).spaces = []
      ∧ (0 : BitVec 10).toNat ∈ (ctl0 (cmd0 .read none)).cqs ∧ (1 : BitVec 10).toNat ∉ (ctl0 (cmd0 .read none)).cqs
      ∧ (0 : BitVec 10).toNat ∈ (ctl0 (cmd0 .read none)).queues ∧ (1 : BitVec 10).toNat ∉ (ctl0 (cmd0 .read none)).queues
      ∧ (ctl0 (cmd0 .read none)).spaces.find 1 = some (6, true) ∧ (ctl0 (cmd0 .read none)).async = 0 ∧ (ctl0 (cmd0 .read none)).spaces ≠ []
      ∧ (ctl0 (cmd0 .read none)).features.find 6 = none ∧ (ctl0 (cmd0 .read none)).features.find 7 = none
      ∧ ({ ctl0 (cmd0 .read none) with features := [(6, 0)] }.features.find 6) = some (0 : Word).toNat ∧ (1 : Word) ≠ 0xFFFFFFFF ∧ s0.boot < 4 ∧ 4 ≤ ({ s0 with boot := 4 } : State).boot) := by
  unfold FormsNew
  refine ⟨?_, ?_, ?_, ?_, ?_, ?_, ?_, ?_, ?_⟩ <;> decide +kernel
theorem witness_page (i : Nat) (h : i < 4096) : backed (0x8000000 + i) = true
    ∧ (storing (cmd0 .write none) (.nvmeWrite 0 0)).poisoned (0x8000000 + i) = false
    ∧ (storing (cmd0 .write none) (.nvmeWrite 0 0)).lineBusy ((0x8000000 + i) / 128) = false
    ∧ (storing (cmd0 .write none) (.nvmeWrite 0 0)).mCache ((0x8000000 + i) / 128) = none := by
  have p := plain_at (s := storing (cmd0 .write none) (.nvmeWrite 0 0)) (by decide +kernel) rfl rfl rfl (Nat.le_refl _) i (by omega)
  exact ⟨p.2.1, p.2.2.2.1, p.2.2.2.2.2⟩
theorem witness_commandLate : s0.clock 0 < 0 + 2 ^ 34 ∧ 0 + 2 ^ 34 ≤ (later s0 (2 ^ 34)).clock 0 := by
  have h := witness_time s0 (2 ^ 34) 0 rfl rfl
  exact ⟨by omega, by omega⟩

/-- Die 0 with link 0 up and enabled in space 1, over the memory of `walkable`. -/
def linked : State :=
  { withDie (fun x => { x with lcfg := 0x8800000000000001 }) [] with
    mem := (walkable State.reset).mem, links := [(0, { Link.reset with up := true, outstanding := [3], fails := 0, records := [(3, (0, 1))] })], ports := [(0, { Port.reset with up := true })] }
/-- How an address of a host translates. -/
def linkEnds : LodeXl → Nat
  | .ok _ pa => pa
  | .status n _ => n
  | .reg _ => 0

/-- A descriptor of `n` bytes at 0x8000000. -/
def tx0 (n : Nat) : TxDesc := { core := 0, head := [], parts := [(0x8000000, n)], ipSum := false, l4Sum := false, segment := 0, sock := none }
theorem s0_lineBusy (line : Nat) : s0.lineBusy line = false := by
  have hx : ∀ k, s0.die k = Die.reset k := fun k => by simp [State.die, s0, issuing, State.place, State.reset]
  simp [State.lineBusy, hx, Die.reset]
/-- O57: a descriptor of a frame, one whose payload has a poisoned byte, and one of a byte too many. -/
theorem witness_descriptors :
    (∀ i < 60, backed (0x8000000 + i) = true ∧ s0.poisoned (0x8000000 + i) = false ∧ (s0.die (paDie (0x8000000 + i))).fence.getLsbD 4 = false)
    ∧ (backed 0x8000000 = true ∧ ({ s0 with poison := [0x8000000 / 32] } : State).poisoned 0x8000000 = true)
    ∧ (((tx0 60).parts.map (·.2)).sum ≤ 262144 ∧ 262144 < ((tx0 262145).parts.map (·.2)).sum)
    ∧ ∀ line, s0.lineBusy line = false ∧ s0.mCache line = none :=
  ⟨by decide +kernel, by decide +kernel, by decide, fun l => ⟨s0_lineBusy l, s0_mCache l⟩⟩

/-- O57: frames of 60 and of 9,014 bytes, whichever entry steers them; a request of a whole line, plain and with a poisoned byte; a tag that is
outstanding, and one that is not; a link that trains, for the third time. -/
theorem witness_PortsAndLodeLinks :
    (s0.port 0).up = false ∧ (linked.port 0).up = true ∧ ((List.replicate 60 (0 : Byte)).length = 60 ∧ (List.replicate 9014 (0 : Byte)).length ≤ 9014)
    ∧ (∀ body, (linked.port 0).steer.get 0 (steerIndex body) = 0) ∧ (linked.cluster 0).out = false ∧ (linked.die 0).fence.getLsbD 4 = false
    ∧ (linked.link 0).up = true ∧ (0x8000080 : Dword).toNat % 128 + (128 : Byte).toNat ≤ 128
    ∧ linkEnds (linked.lodeXlate 0 0x8000080 Want.load) = 0x8000080 ∧ linkEnds (linked.lodeXlate 0 0x8000080 Want.store) = 0x8000080
    ∧ linkEnds (linked.lodeXlate 0 0x2000000 Want.load) ≠ 0
    ∧ linked.mCache (0x8000080 / 128) = none ∧ linked.lineBusy (0x8000080 / 128) = false
    ∧ ({ linked with dies := [(0, { Die.reset 0 with txns := [⟨0x8000080 / 128, 0, true, [], 0⟩] })] } : State).lineBusy (0x8000080 / 128) = true ∧ (({ linked with poison := [0x8000080 / 32] } : State).poisoned 0x8000080 = true)
    ∧ 3 ∈ (linked.link 0).outstanding ∧ 4 ∉ (linked.link 0).outstanding ∧ (linked.link 0).records.find 3 = some (0, 1) ∧ (linked.die 0).heldRecs = []
    ∧ linked.hostWait = [] ∧ FormsNew linked (linkDie 0)
    ∧ ((0 : BitVec 4).toNat < 14 ∧ (s0.link 0).outstanding = [] ∧ (s0.link 0).fails < 3 ∧ ({ Link.reset with fails := 2 } : Link).fails = 2) := by
  unfold FormsNew
  refine ⟨?_, ?_, ⟨rfl, Nat.le_of_eq (List.length_replicate ..)⟩, fun _ => rfl, ?_, ?_, ?_, ?_, ?_, ?_, ?_, ?_, ?_, ?_, ?_, ?_, ?_, ?_, ?_, ?_, ?_, ?_⟩ <;> decide +kernel
/-- O57: a check sequence that is not a frame's. -/
theorem witness_badFcs (body : List Byte) : crc32 body + 1 ≠ crc32 body := by
  intro h
  have := congrArg (· - crc32 body) h
  simp at this

/-- O58: dies 0 and 1 of different partitions; counts that make the total and that do not; a drain; a boundary of die 0 and one it has not. -/
theorem witness_PermitsAndBoundaries :
    (let s := withDie (fun x => { x with fwctl := 0x100 }) []
     (s.die 0).auditctl.getLsbD 63 = true ∧ neighbour 0 1 = some 1 ∧ s.partsClash 0 1 = true ∧ (s.die 0).shut.getLsbD 1 = false)
    ∧ neighbour 0 0 = none ∧ (State.reset.die 0).permits.find (permitKey (.lode 0)) = none
    ∧ (8191 : Word).toNat + (1 : Word).toNat = permitTotal (.lode 0) ∧ (8191 : Word).toNat + (0 : Word).toNat ≠ permitTotal (.lode 0)
    ∧ ((withDie (fun x => { x with permits := [(1, ⟨(1, 1), some 0⟩)] }) []).die 0).permits.find (permitKey (.boundary 0 1)) = some ⟨(1, 1), some 0⟩
    ∧ (s0.die 0).fence.getLsbD 1 = false ∧ (s0.die 0).closed 1 = false ∧ (s0.die 0).rates = []
    ∧ ((withDie (fun x => { x with fence := 2 }) []).die 0).closed 1 = true := by
  refine ⟨?_, ?_, ?_, ?_, ?_, ?_, ?_, ?_, ?_, ?_⟩ <;> decide +kernel

/-- O58: a request of die 0 to die 1 that is unanswered 2^20 cycles on. -/
def asking : State := { s0 with caches := [(0, { Cache.reset with miss := [(2 ^ 30, ⟨[], none, 0⟩)] })] }
theorem witness_unanswered : s0.unanswered 0 1 = false ∧ (later asking (2 ^ 20)).unanswered 0 1 = true := by
  refine ⟨by decide +kernel, ?_⟩
  have h : 0 + 2 ^ 20 ≤ (later asking (2 ^ 20)).clock 0 := by have := later_clock asking (2 ^ 20) 0 rfl; omega
  unfold State.unanswered
  exact Bool.or_eq_true_iff.2 (.inl (Bool.or_eq_true_iff.2 (.inl (List.any_eq_true.2 ⟨_, .head _, Bool.and_eq_true_iff.2 ⟨rfl,
    List.any_eq_true.2 ⟨_, .head _, Bool.and_eq_true_iff.2 ⟨by decide +kernel, decide_eq_true h⟩⟩⟩⟩))))

/-- O58: an audit that is not yet due and one that is; one whose counts have been compared, and one whose are to be; a boundary with a request
outstanding and one without; a flit that the far side of a closed boundary stops, and none. -/
theorem witness_AuditsAndFlits :
    (let asks : List Instr := [.stealRequest 1 1 0]
     (State.reset.outstanding (.boundary 0 1) = 0 ∧ (due0 s0 asks).outstanding (.boundary 0 1) = 1 ∧ (due0 s0 asks).asking 0 1 = asks)
     ∧ (let s := { due0 s0 asks with dies := [(1, { Die.reset 1 with fence := 1 })] }
        s.block 0 1 = some (1, 0, true) ∧ (s.die 1).closed 0 = true ∧ (s.dist 1).up = true ∧ neighbour 1 0 = some 0 ∧ (s.die 1).rates = [])
     ∧ ∀ i ∈ s0.due, s0.flow i = none)
    ∧ (∀ b ∈ [true, false], ((withDie (fun x => { x with audited := [(permitKey (.boundary 0 1), (0, b))] }) []).die 0).audited.find (permitKey (.boundary 0 1)) = some (0, b))
    ∧ FormsNew s0 0 := by
  unfold FormsNew
  decide +kernel
theorem witness_auditLate :
    let x := s0.die 0
    let due' := (x.audited.get (0, false) (permitKey (.boundary 0 1))).1 + 4096 * max 1 (x.auditctl.extractLsb' 32 16).toNat
    s0.clock 0 < due' ∧ due' ≤ (later s0 due').clock 0 := by
  intro x due'
  have h := witness_time s0 due' 0 rfl rfl
  have : 0 < due' := by show 0 < _ + 4096 * max 1 _; omega
  exact ⟨by omega, h.2⟩

/-- O58: within a drain and at its end. -/
theorem witness_drainLate : s0.clock 0 < 0 + 2 ^ 20 ∧ 0 + 2 ^ 20 ≤ (later s0 (2 ^ 20)).clock 0 :=
  ⟨witness_beatLate.1, witness_beatLate.2.1⟩

/-- O33, O34: a well-formed instruction; memory in its form, before a step and after it. -/
theorem witness_wellFormedAndCanonical : (Instr.smovi 20 5).hasWord = true ∧ (Instr.smovi 20 5).wellFormed = true ∧ Memory.wf State.reset.mem = true
    ∧ next? (step (State.reset.withFetchWord 32 0x11500005)) (fun t => Memory.wf t.mem) = true := by
  decide +kernel

/-- The scratchpad of R283's example. -/
def example283 : Cluster :=
  { Cluster.reset with
    scratch := [(0, 0x0A), (1, 0xFD), (2, 7), (16, 5), (17, 5), (18, 5), (19, 5), (0x100, 0xC5), (0x101, 0x53), (0x102, 0x55), (0x103, 0xC0)]
    fills := [⟨0, 4096, none⟩] }
/-- R283: after step 0 the entries are 7 and −3, after step 1 they are 27 and −8. -/
theorem test_ksteps :
    (let r := { res0 with kind := .mloop, tile := 1, args := loop0, st := .running }
     let a := example283.writeStep r (loopDesc loop0) 0 0
     let b := a.writeStep { r with done := 1 } (loopDesc loop0) 0 0
     let entries := fun (c : Cluster) => ([0, 1] : List Nat).map fun j => ((c.tiles.get Tile.reset 1).ents.get TEntry.zero j).acc.toInt
     entries a = [7, -3] ∧ entries b = [27, -8] ∧ ((b.tiles.get Tile.reset 1).ents.get TEntry.zero 2).acc = 0) := by
  decide +kernel

end Sys2Proof.Tests
end

section
/-!
PROOFS. Immediates and literals, and the writes of fmt and of the flags (08: R185, R186, R196, R198).
-/

namespace Sys2Proof.Machine

variable {s : State} {c : Ctx}

/-! ### The values that the pairs of immediates and literals build -/

/-- A value that fits the 18-bit immediate is what its sign extension gives back (R154, R185). -/
theorem signExtend_imm18 {v : Int} (lo : -2 ^ 17 ≤ v) (hi : v < 2 ^ 17) : (BitVec.ofInt 18 v).signExtend 64 = BitVec.ofInt 64 v :=
  congrArg (BitVec.ofInt 64) (BitVec.toInt_ofInt_eq_self (by decide) lo hi)

/-- R185: SLUI's shift multiplies by 2^18. -/
theorem ofInt_shiftLeft_18 (v : Int) : BitVec.ofInt 64 v <<< 18 = BitVec.ofInt 64 (v * 2 ^ 18) := by
  rw [BitVec.shiftLeft_eq_mul_twoPow, BitVec.ofInt_mul]; rfl

/-- R185: the high part is the value rounded to a multiple of 2^18, and the low part what is left, of either sign. -/
theorem slui_saddi_builds {v : Int} (lo : -(2 ^ 35) - 2 ^ 17 ≤ v) (hi : v ≤ 2 ^ 35 - 2 ^ 18 + 2 ^ 17 - 1) :
    ∃ h l : BitVec 18, h.signExtend 64 <<< 18 + l.signExtend 64 = BitVec.ofInt 64 v := by
  obtain ⟨q, r, hv, hr⟩ : ∃ q r : Int, v = q * 2 ^ 18 + r ∧ -2 ^ 17 ≤ r ∧ r < 2 ^ 17 :=
    ⟨(v + 2 ^ 17) / 2 ^ 18, (v + 2 ^ 17) % 2 ^ 18 - 2 ^ 17, by omega, by omega, by omega⟩
  have hq : -2 ^ 17 ≤ q ∧ q < 2 ^ 17 := by omega
  refine ⟨BitVec.ofInt 18 q, BitVec.ofInt 18 r, ?_⟩
  rw [signExtend_imm18 hq.1 hq.2, signExtend_imm18 hr.1 hr.2, ofInt_shiftLeft_18, ← BitVec.ofInt_add, hv]

/-- R186: SMOVHL keeps the low word that SMOVL wrote. -/
theorem smovl_low (l : Word) : (l.signExtend 64).extractLsb' 0 32 = l := by
  ext i hi
  have h64 : i < 64 := by omega
  rw [BitVec.getElem_extractLsb', Nat.zero_add, BitVec.getLsbD_signExtend]
  simp [hi, h64]

theorem smovl_smovhl_builds (v : Dword) : ∃ lo hi : Word, hi ++ (lo.signExtend 64).extractLsb' 0 32 = v := by
  refine ⟨v.extractLsb' 0 32, v.extractLsb' 32 32, ?_⟩
  rw [smovl_low, BitVec.extractLsb'_append_extractLsb'_eq_extractLsb' (start₂ := 32) (start₁ := 0) rfl]
  exact BitVec.extractLsb'_eq_self

/-! ### Instructions that write one scalar (R183) -/

theorem scalarResult_of_exec {i : Instr} {len : Nat} {d : BitVec 6} {val : Ctx → Dword} (he : ∀ s, exec i s = scalarOp true len d val s) :
    ScalarResult i len d val := fun s _ h => he s ▸ scalarOp_result len d val h

/-! ### Writing fmt (R59, R196) -/

theorem fmtLegal_iff (w : Word) : fmtLegal w = true ↔ FmtAssigned w := by simp [fmtLegal, FmtAssigned, and_assoc]

theorem setS_frags (g : Group) (d : Nat) (v : Dword) : (g.setS d v).frags = g.frags := by rw [(setS_writes g d v).rest]

theorem setFmt_rest (g : Group) (fid : Nat) (w : Word) : g.setFmt fid w = { g with frags := (g.setFmt fid w).frags } := modFrag_rest ..

theorem setFmt_find_self {g : Group} {fid : Nat} {f : Frag} (hf : g.frags.find fid = some f) (w : Word) :
    (g.setFmt fid w).frags.find fid = some { f with fmt := w } := by rw [Group.setFmt, modFrag_find, if_pos rfl, hf]; rfl

theorem setFmt_find_ne (g : Group) {fid k : Nat} (w : Word) (h : k ≠ fid) : (g.setFmt fid w).frags.find k = g.frags.find k := by
  rw [Group.setFmt, modFrag_find, if_neg h]

/-- R196: the value FMTSET gives fmt: `a` in the bits of the mask `b`, and as before in the others. -/
def Ctx.fmtMasked (c : Ctx) (a b : BitVec 6) : Word :=
  (c.f.fmt &&& ~~~(c.s b).extractLsb' 0 32) ||| ((c.s a).extractLsb' 0 32 &&& (c.s b).extractLsb' 0 32)

/-- R198: sr.flags takes the values of one byte. -/
theorem high56_eq_zero_iff (v : Dword) : v.extractLsb' 8 56 = 0 ↔ v.toNat < 256 := by
  rw [← BitVec.toNat_inj, BitVec.extractLsb'_toNat, Nat.shiftRight_eq_div_pow, show (0 : BitVec 56).toNat = 0 from rfl]
  omega

/-! ### What FMTSET and WRSR do when they issue -/

theorem exec_fmtset (d a b : BitVec 6) (h : Issues s c [] 0 none) :
    exec (.fmtset d a b) s = .next (if fmtLegal (c.fmtMasked a b) = true then
      s.commit c 4 ((c.g.setFmt c.fid (c.fmtMasked a b)).setS d.toNat (c.f.fmt.zeroExtend 64))
    else s.trap c 0x02 0 (c.fmtMasked a b).toNat) :=
  (rfl : _ = execFmtset d a b s).trans h.plain

theorem exec_wrsr_fmt (a : BitVec 6) (h : Issues s c [] 0 none) :
    exec (.wrsr a 0x0A) s = .next (if (c.s a).extractLsb' 32 32 = 0 ∧ fmtLegal ((c.s a).extractLsb' 0 32) = true then
      s.commit c 4 (c.g.setFmt c.fid ((c.s a).extractLsb' 0 32))
    else s.trap c 0x02 0 (c.s a).toNat) :=
  (rfl : _ = execWrsr a 0x0A s).trans (h.run rfl rfl)

theorem exec_wrsr_flags (a : BitVec 6) (h : Issues s c [] 0 none) :
    exec (.wrsr a 0x0B) s = .next (if (c.s a).toNat < 256 then s.commit c 4 { c.g with flags := (c.s a).extractLsb' 0 8 }
    else s.trap c 0x02 0 (c.s a).toNat) :=
  (rfl : _ = execWrsr a 0x0B s).trans (h.run rfl rfl)

/-! ### The statements -/

/-- Settles O2: each form is the shared scalar operation; SLUI and SADDI split the value at bit 18 with a signed low part, and
SMOVL and SMOVHL give its two words. -/
theorem scalarImmediatesAndLiterals : Obligations.ScalarImmediatesAndLiterals := by
  refine ⟨⟨fun d i => ?_, fun d i => ?_, fun d i => ?_, fun _ => slui_saddi_builds⟩, fun d l => ?_, fun d l => ?_, fun d a l => ?_,
    smovl_smovhl_builds⟩
  all_goals exact scalarResult_of_exec fun _ => rfl

/-- Settles O17: a value that R59 allows is written to the issuing fragment's fmt and to no other, the flags are written whole, and any
other value takes the trap. -/
theorem fmtAndFlagsAreWrittenWhole : Obligations.FmtAndFlagsAreWrittenWhole := by
  refine ⟨fun d a b s c h => ?fmtset, fun d => ?fmtget, fun a s c h => ?wrsrFmt, fun a s c h => ?wrsrFlags⟩
  case fmtset =>
    intro m new
    rw [← fmtLegal_iff, exec_fmtset d a b h]
    have hf := setFmt_find_self (ctx?_eq h.resident).2 (c.fmtMasked a b)
    exact ⟨fun ha => ⟨_, _, _, congrArg _ (if_pos ha), commit_done 4 _ (by rw [setS_frags]; exact hf), setS_writes .., setFmt_rest ..,
      hf, fun _ => setFmt_find_ne _ _⟩, fun ha => congrArg _ (if_neg ha)⟩
  case fmtget => exact scalarResult_of_exec fun _ => rfl
  case wrsrFmt =>
    rw [← fmtLegal_iff, exec_wrsr_fmt a h]
    have hf := setFmt_find_self (ctx?_eq h.resident).2 ((c.s a).extractLsb' 0 32)
    exact ⟨fun hv => ⟨_, _, congrArg _ (if_pos hv), commit_done 4 _ hf, setFmt_rest .., hf, fun _ => setFmt_find_ne _ _⟩,
      fun hv => congrArg _ (if_neg hv)⟩
  case wrsrFlags =>
    rw [ne_eq, high56_eq_zero_iff, exec_wrsr_flags a h]
    exact ⟨fun hv => ⟨_, congrArg _ (if_pos hv), commit_done 4 _ (ctx?_eq h.resident).2⟩, fun hv => congrArg _ (if_neg hv)⟩

end Sys2Proof.Machine
end

section
/-!
PROOFS. Carry-less products, requantisation, moves, and the lanes that VCOMP, VEXP and VSCAN read (09: R214, R219, R220, R225, R226).
-/

namespace Sys2Proof.Machine

variable {s : State} {c : Ctx}

/-! ### Instructions that write one register (R208) -/

theorem integerResult_of_exec {i : Instr} {len : Nat} {gd : BitVec 3} {d : BitVec 7} {srcs : List (BitVec 7)} {val : Ctx → Nat → Word}
    (he : ∀ s, exec i s = vecInt true len gd d srcs val s) : IntegerResult i len gd d srcs val :=
  fun s _ h => he s ▸ vecInt_result rfl len gd d srcs val h

theorem pureResult_of_exec {i : Instr} {gd : BitVec 3} {d : BitVec 7} {srcs : List (BitVec 7)} {val : Ctx → Nat → VReg}
    (he : ∀ s, exec i s = vecMove gd d srcs val s) : PureResult i gd d srcs val :=
  fun s _ h => he s ▸ vecMove_result gd d srcs val h

theorem mem_lanes {gd l : Nat} : l ∈ c.lanes gd ↔ c.Lane gd l := lanesOf_mem.trans and_comm

/-- R54: p0 holds in every lane. -/
theorem guarded_zero (c : Ctx) : c.guarded 0 = c.active := BitVec.and_allOnes

theorem lanes_zero (c : Ctx) : c.lanes 0 = c.activeLanes := by rw [Ctx.lanes, guarded_zero, Ctx.activeLanes]

/-- Only the lanes that are written matter, and the values in them. -/
theorem WritesV.congr {g g' : Group} {r : Nat} {P Q : Nat → Prop} {val val' : Nat → VReg} (h : WritesV g g' r P val)
    (hl : ∀ l, Q l ↔ P l) (hv : ∀ l, Q l → val l = val' l) : WritesV g g' r Q val' :=
  ⟨h.rest, fun l hq => (h.written l ((hl l).1 hq)).trans (hv l hq), fun l k hk hn => h.others l k hk fun hp => hn ⟨hp.1, (hl l).2 hp.2⟩⟩

/-! ### Carry-less products (R219) -/

/-- Bit `i` of a sum of shifted copies is the sum of the bits that reach it. -/
theorem getLsbD_clmul_foldl (a b : Word) {i : Nat} (hi : i < 64) (js : List Nat) (acc : Dword) :
    (js.foldl (fun (acc : BitVec 64) j => if a.getLsbD j then acc ^^^ (b.zeroExtend 64 <<< j) else acc) acc).getLsbD i
      = js.foldl (fun x j => x ^^ (a.getLsbD j && (decide (j ≤ i) && b.getLsbD (i - j)))) (acc.getLsbD i) := by
  induction js generalizing acc with
  | nil => rfl
  | cons j js ih =>
    rw [List.foldl_cons, List.foldl_cons, ih]
    congr 1
    cases a.getLsbD j with
    | false => simp
    | true =>
      have hij : i - j < 64 := by omega
      have hji : (!decide (i < j)) = decide (j ≤ i) := by rw [← decide_not]; exact decide_eq_decide.2 Nat.not_lt
      rw [if_pos rfl, BitVec.getLsbD_xor, BitVec.getLsbD_shiftLeft, BitVec.getLsbD_setWidth, hji, decide_eq_true hi, decide_eq_true hij]
      simp only [Bool.true_and]

theorem getLsbD_clmul (a b : Word) {i : Nat} (hi : i < 64) : (clmul a b).getLsbD i = carrylessBit a b i :=
  (getLsbD_clmul_foldl a b hi (List.range 32) 0).trans (by rw [BitVec.ofNat_eq_ofNat, BitVec.getLsbD_zero]; rfl)

/-- The product of two words of 32 bits has 63: no pair of bits reaches bit 63. -/
theorem carrylessBit_63 (a b : Word) : carrylessBit a b 63 = false := by
  refine List.foldlRecOn (motive := fun x => x = false) (List.range 32) _ rfl fun x hx j hj => ?_
  have hj := List.mem_range.1 hj
  have hb : b.getLsbD (63 - j) = false := BitVec.getLsbD_of_ge _ _ (by omega)
  simp [hx, hb]

theorem clmul_low (a b : Word) : (clmul a b).extractLsb' 0 32 = BitVec.ofFnLE fun i : Fin 32 => carrylessBit a b i := by
  ext i hi
  rw [BitVec.getElem_extractLsb', BitVec.getElem_ofFnLE, Nat.zero_add, getLsbD_clmul a b (by omega)]

theorem clmul_high (a b : Word) :
    (clmul a b).extractLsb' 32 32 = BitVec.ofFnLE fun i : Fin 32 => decide (i.val < 31) && carrylessBit a b (32 + i) := by
  ext i hi
  rw [BitVec.getElem_extractLsb', BitVec.getElem_ofFnLE, getLsbD_clmul a b (by omega)]
  by_cases h : i < 31
  · simp [h]
  · obtain rfl : i = 31 := by omega
    simp [carrylessBit_63]

/-! ### Requantisation (R220) -/

/-- The quotient's multiple of 2^k lies below n by the remainder, and the next one above it by the rest of 2^k. -/
theorem divRound_nearest_even (n : Int) (k : Nat) : RequantRounds 0 n k (divRound 0 n k) := by
  have hp : (0 : Int) < 2 ^ k := by positivity
  have h0 := Int.emod_nonneg n hp.ne'
  have hlt := Int.emod_lt_of_pos n hp
  have hq : n / 2 ^ k * 2 ^ k = n - n % 2 ^ k := eq_sub_of_add_eq (Int.ediv_mul_add_emod n _)
  simp only [RequantRounds, divRound]
  split
  · next h =>
    have hd : |n / 2 ^ k * 2 ^ k - n| = n % 2 ^ k := by rw [hq, abs_of_nonpos (by omega)]; omega
    rw [hd]; exact h
  · next h =>
    have hd : |(n / 2 ^ k + 1) * 2 ^ k - n| = 2 ^ k - n % 2 ^ k := by rw [add_mul, hq, abs_of_nonneg (by omega)]; omega
    rw [hd]; omega

theorem divRound_half_away (n : Int) (k : Nat) : RequantRounds 1 n k (divRound 1 n k) := by
  simp only [RequantRounds, divRound]
  have hcast : (((2 * n.natAbs + 2 ^ k) / (2 * 2 ^ k) : Nat) : Int) = (2 * |n| + 2 ^ k) / (2 * 2 ^ k) := by push_cast; rfl
  rw [hcast]
  rcases lt_trichotomy n 0 with h | rfl | h
  · rw [if_pos h, Int.sign_eq_neg_one_of_neg h, neg_one_mul]
  · have hp : (0 : Int) < 2 ^ k := by positivity
    rw [if_neg (lt_irrefl _), Int.sign_zero, zero_mul, abs_zero, mul_zero, zero_add, Int.ediv_eq_zero_of_lt hp.le (by omega)]
  · rw [if_neg h.le.not_gt, Int.sign_eq_one_of_pos h, one_mul]

theorem divRound_floor (n : Int) (k : Nat) : RequantRounds 2 n k (divRound 2 n k) := by
  have hp : (0 : Int) < 2 ^ k := by positivity
  exact ⟨Int.ediv_mul_le n hp.ne', Int.lt_ediv_add_one_mul_self n hp⟩

/-- R220: every assigned rounding of the model is the one of the table. -/
theorem divRound_rounds {rnd : BitVec 2} (h : rnd ≠ 3) (n : Int) (k : Nat) : RequantRounds rnd.toNat n k (divRound rnd.toNat n k) := by
  obtain rfl | rfl | rfl : rnd = 0 ∨ rnd = 1 ∨ rnd = 2 := by revert rnd; decide
  · exact divRound_nearest_even n k
  · exact divRound_half_away n k
  · exact divRound_floor n k

theorem vreqLegal_iff (w : Word) : vreqLegal w = true ↔ w.extractLsb' 16 16 = 0 ∧ w.extractLsb' 5 2 ≠ 3 := by simp [vreqLegal]

/-- A code of 4 bits fits the word. -/
theorem toInt_ofInt_satInt_4 (q : Int) : (BitVec.ofInt 32 (satInt q 4)).toInt = max (-8) (min 7 q) := by
  rw [BitVec.toInt_ofInt_eq_self (by decide) (by simp only [satInt]; omega) (by simp only [satInt]; omega), satInt, min_comm]; rfl

/-- A code of 8 bits fits the word. -/
theorem toInt_ofInt_satInt_8 (q : Int) : (BitVec.ofInt 32 (satInt q 8)).toInt = max (-128) (min 127 q) := by
  rw [BitVec.toInt_ofInt_eq_self (by decide) (by simp only [satInt]; omega) (by simp only [satInt]; omega), satInt, min_comm]; rfl

/-- R220: the word written holds the clipped code as it is. -/
theorem vreqValue_toInt (a b w : Word) :
    let q := divRound (w.extractLsb' 5 2).toNat (a.toInt * b.toInt) (31 + (w.extractLsb' 0 5).toNat) + (w.extractLsb' 8 8).toInt
    (vreqValue a b w).toInt = if w.getLsbD 7 then max (-8) (min 7 q) else max (-128) (min 127 q) := by
  intro q
  change (BitVec.ofInt 32 (satInt q (if w.getLsbD 7 then 4 else 8))).toInt = _
  split
  · exact toInt_ofInt_satInt_4 q
  · exact toInt_ofInt_satInt_8 q

theorem all_vreqLegal_iff (gd : Nat) (w : Nat → Word) : ((c.lanes gd).all fun l => vreqLegal (w l)) = true
    ↔ ∀ l, c.Lane gd l → (w l).extractLsb' 16 16 = 0 ∧ (w l).extractLsb' 5 2 ≠ 3 := by
  simp only [List.all_eq_true, vreqLegal_iff, mem_lanes]

theorem exec_vreq (g : BitVec 3) (d a b : BitVec 7) (h : Issues s c [d.toNat, a.toNat, b.toNat, b.toNat + 1] g.toNat none) :
    exec (.vreq g d a b) s = .next (if ((c.lanes g.toNat).all fun l => vreqLegal (c.g.vreg l (b.toNat + 1)).data) = true then
      s.commitFlags c 4 (c.g.writeV d.toNat (c.lanes g.toNat) fun l =>
        ⟨vreqValue (c.vd l a) (c.vd l b) (c.g.vreg l (b.toNat + 1)).data, false⟩) (c.ioFlag (c.lanes g.toNat) [a.toNat, b.toNat, b.toNat + 1])
    else s.trap c 0x03 0 c.iword.toNat) :=
  (rfl : _ = execVreq g d a b s).trans (h.run rfl rfl)

/-! ### Compress and expand (R225) -/

/-- In a pairing of two lists, an element of the first is found with the element at its own place of the second. -/
theorem find?_zip_fst {ks vs : List Nat} (hn : ks.Nodup) {j l : Nat} (hj : ks[j]? = some l) :
    (ks.zip vs).find? (fun p => p.1 == l) = vs[j]?.map fun v => (l, v) := by
  induction ks generalizing vs j with
  | nil => simp at hj
  | cons k ks ih =>
    obtain ⟨hk, hn⟩ := List.nodup_cons.1 hn
    cases vs with
    | nil => rfl
    | cons v vs =>
      cases j with
      | zero =>
        obtain rfl : k = l := by simpa using hj
        simp
      | succ j =>
        rw [List.getElem?_cons_succ] at hj
        have hne : (k == l) = false := beq_false_of_ne fun h => hk (h ▸ List.mem_of_getElem? hj)
        rw [List.zip_cons_cons, List.find?_cons, hne, List.getElem?_cons_succ]
        exact ih hn hj

theorem find?_zip_fst_none {ks vs : List Nat} {l : Nat} (h : l ∉ ks) : (ks.zip vs).find? (fun p => p.1 == l) = none :=
  List.find?_eq_none.2 fun _ hp he => h (beq_iff_eq.1 he ▸ (List.of_mem_zip hp).1)

theorem lanesOf_sorted (m : Mask) (n : Nat) : (lanesOf m n).Pairwise (· < ·) := List.pairwise_lt_range.filter _

theorem lanesOf_nodup (m : Mask) (n : Nat) : (lanesOf m n).Nodup := (lanesOf_sorted m n).imp Nat.ne_of_lt

/-- R225: what lane `l` takes: the lane it is paired with, or the fill. -/
def Ctx.paired (c : Ctx) (d a : BitVec 7) (keep : BitVec 1) (ps : List (Nat × Nat)) (l : Nat) : VReg :=
  match ps.find? fun p => p.1 == l with
  | some p => c.v p.2 a
  | none => if keep = 1 then c.v l d else VReg.zero

theorem compress_of_exec {i : Instr} {d a : BitVec 7} {keep : BitVec 1} {pairs : Ctx → List (Nat × Nat)}
    (he : ∀ s, exec i s = compressOp d a keep pairs s) (h : Issues s c [d.toNat, a.toNat] 0 none) :
    ∃ t g, exec i s = .next t ∧ Done s t c (c.after 4) g
      ∧ WritesV c.g g d.toNat (· ∈ c.activeLanes) (c.paired d a keep (pairs c)) := by
  obtain ⟨g, hdone, hw⟩ := commitV_done 4 d 0 (c.paired d a keep (pairs c)) h.resident
  rw [lanes_zero] at hdone
  exact ⟨_, g, (he s).trans (h.run rfl rfl), hdone, hw.congr (fun _ => by rw [← lanes_zero, mem_lanes]) fun _ _ => rfl⟩

/-! ### Scans (R226) -/

/-- R226: what a scan gathers at lane `l`: the values of the lanes of `ls` below it, and its own unless the scan is exclusive. -/
def scanPrefix (op : Nat) (excl : Bool) (val : Nat → Word) (acc : Word) (ls : List Nat) (l : Nat) : Word :=
  (ls.filter fun m => decide (m < l) || (!excl && m == l)).foldl (fun x m => scanOp op x (val m)) acc

/-- A scan is inclusive, e = 0, or exclusive, e = 1. -/
theorem inclusive_eq_not_exclusive : ∀ e : BitVec 1, (e == 0) = !(e == 1) := by decide

theorem scanPrefix_cons_lt (op : Nat) (excl : Bool) (val : Nat → Word) (acc : Word) (ls : List Nat) {k l : Nat} (h : k < l) :
    scanPrefix op excl val acc (k :: ls) l = scanPrefix op excl val (scanOp op acc (val k)) ls l := by
  simp [scanPrefix, h]

/-- The lowest lane has nothing below it. -/
theorem scanPrefix_cons_self (op : Nat) (excl : Bool) (val : Nat → Word) (acc : Word) {ls : List Nat} {l : Nat} (h : ∀ m ∈ ls, l < m) :
    scanPrefix op excl val acc (l :: ls) l = if excl then acc else scanOp op acc (val l) := by
  have hnil : (ls.filter fun m => decide (m < l) || (!excl && m == l)) = [] := List.filter_eq_nil_iff.2 fun m hm => by
    have := h m hm
    simp [this.le, this.ne']
  rw [scanPrefix, List.filter_cons, hnil]
  cases excl <;> simp

theorem scanLanes_eq_map (op : Nat) (excl : Bool) (val : Nat → Word) (acc : Word) {ls : List Nat} (hs : ls.Pairwise (· < ·)) :
    scanLanes op excl val acc ls = ls.map fun l => (l, scanPrefix op excl val acc ls l) := by
  induction ls generalizing acc with
  | nil => rfl
  | cons k ls ih =>
    obtain ⟨hk, hs⟩ := List.pairwise_cons.1 hs
    rw [scanLanes, ih _ hs, List.map_cons, scanPrefix_cons_self op excl val acc hk]
    exact congrArg _ (List.map_congr_left fun l hl => by rw [scanPrefix_cons_lt op excl val acc ls (hk l hl)])

/-- The writes of the lanes of a scan are one write of the register. -/
theorem foldl_scanLanes (g : Group) (d op : Nat) (excl : Bool) (val : Nat → Word) (acc : Word) (m : Mask) (n : Nat) :
    (scanLanes op excl val acc (lanesOf m n)).foldl (fun g r => g.setV r.1 d ⟨r.2, false⟩) g
      = g.writeV d (lanesOf m n) fun l => ⟨scanPrefix op excl val acc (lanesOf m n) l, false⟩ := by
  rw [scanLanes_eq_map op excl val acc (lanesOf_sorted m n), List.foldl_map]; rfl

/-- R226: the value VSCAN writes in lane `l`. -/
def Ctx.scanned (c : Ctx) (g : BitVec 3) (a : BitVec 7) (e : BitVec 1) (op : BitVec 3) (l : Nat) : Word :=
  scanPrefix op.toNat (e == 1) (fun m => c.vd m a) (scanId op.toNat) (c.lanes g.toNat) l

theorem exec_vscan (g : BitVec 3) (d a : BitVec 7) (e : BitVec 1) (op : BitVec 3) (ho : op.toNat ≤ 5)
    (h : Issues s c [d.toNat, a.toNat] g.toNat none) :
    exec (.vscan g d a e op) s = .next (s.commitFlags c 4
      (c.g.writeV d.toNat (c.lanes g.toNat) fun l => ⟨c.scanned g a e op l, false⟩) (c.ioFlag (c.lanes g.toNat) [a.toNat])) :=
  calc exec (.vscan g d a e op) s
    _ = execVscan g d a e op s := rfl
    _ = .next (s.commitFlags c 4
          ((scanLanes op.toNat (e == 1) (fun m => c.vd m a) (scanId op.toNat) (c.lanes g.toNat)).foldl
            (fun g r => g.setV r.1 d.toNat ⟨r.2, false⟩) c.g)
          (c.ioFlag (c.lanes g.toNat) [a.toNat])) := h.run (decide_eq_true ho) rfl
    _ = _ := by rw [Ctx.lanes, foldl_scanLanes]; rfl

/-! ### The statements -/

/-- Settles O4: bit i of the model's sum of shifted copies is R219's sum of bit products, and bit 63 is 0. -/
theorem carrylessProductsAreTheirBits : Obligations.CarrylessProductsAreTheirBits := by
  refine ⟨fun g d a b => ?low, fun g d a b => ?high⟩
  case low => simp only [← clmul_low]; exact integerResult_of_exec fun _ => rfl
  case high => simp only [← clmul_high]; exact integerResult_of_exec fun _ => rfl

/-- Settles O5: the legal words round as their table says and the clipped code fits the word; a reserved value in a guarded lane takes
the other branch of the whole instruction. -/
theorem vreqRequantises : Obligations.VreqRequantises := by
  intro g d a b s c h w fl
  rw [exec_vreq g d a b h]
  refine ⟨fun hlegal => ?legal, fun ⟨l, hl, hbad⟩ => ?reserved⟩
  case legal =>
    obtain ⟨t, h', ht, hdone, hw⟩ := writeV_ends 4 d g (fun l => ⟨vreqValue (c.vd l a) (c.vd l b) (w l), false⟩) fl h.resident
    refine ⟨t, h', fun l => vreqValue (c.vd l a) (c.vd l b) (w l), ?_, hdone, hw,
      fun l hl => ⟨_, divRound_rounds (hlegal l hl).2 _ _, vreqValue_toInt ..⟩⟩
    rw [if_pos ((all_vreqLegal_iff g.toNat w).2 hlegal), ← ht]
  case reserved =>
    rw [if_neg fun hall => ?_]
    obtain ⟨hrsvd, hrnd⟩ := (all_vreqLegal_iff g.toNat w).1 hall l hl
    exact hbad.elim (fun h => h hrsvd) hrnd

/-- Settles O6: both are the shared move, and p0 selects va in every lane. -/
theorem movesCopyDataAndSticky : Obligations.MovesCopyDataAndSticky := by
  have hsel : ∀ p d a b, PureResult (.vsel p d a b) 0 d [a, b] fun c l => if (c.g.pred p.toNat).getLsbD l then c.v l a else c.v l b :=
    fun p d a b => pureResult_of_exec fun _ => rfl
  refine ⟨fun g d a => pureResult_of_exec fun _ => rfl, hsel, fun d a b s c h => ?p0⟩
  case p0 =>
    obtain ⟨t, g, ht, hdone, hw⟩ := hsel 0 d a b s c h
    refine ⟨t, g, ht, hdone, hw.congr (fun _ => Iff.rfl) fun l hl => if_pos ?_⟩
    exact (BitVec.getLsbD_allOnes).trans (decide_eq_true (getLsbD_lt hl.1))

/-- Settles O10: lane a_j is paired with s_j, as the destination of VCOMP and as the source of VEXP; the lanes are in order, so that what
the scan has gathered at a lane is the values of the lanes below it. -/
theorem compressExpandAndScan : Obligations.CompressExpandAndScan := by
  refine ⟨fun d a keep p s c h => ?moves, fun g d a e op s c ho h => ?scan⟩
  case moves =>
    intro as ss fill
    have hn : as.Nodup := lanesOf_nodup _ _
    constructor
    · obtain ⟨t, g, ht, hdone, hw⟩ := compress_of_exec (i := .vcomp d a keep p) (fun _ => rfl) h
      refine ⟨t, g, _, ht, hdone, hw, fun j l hj => ?_⟩
      rw [Ctx.paired, find?_zip_fst hn hj]
      cases ss[j]? <;> rfl
    · obtain ⟨t, g, ht, hdone, hw⟩ := compress_of_exec (i := .vexp d a keep p) (fun _ => rfl) h
      refine ⟨t, g, _, ht, hdone, hw, fun j l m hs ha => ?_, fun l _ hl => ?_⟩
      · rw [Ctx.paired, find?_zip_fst (hn.filter _) hs, ha]; rfl
      · rw [Ctx.paired, find?_zip_fst_none hl]; rfl
  case scan =>
    intro fl
    obtain ⟨t, h', ht, hdone, hw⟩ := writeV_ends 4 d g (fun l => ⟨c.scanned g a e op l, false⟩) fl h.resident
    refine ⟨t, h', _, (exec_vscan g d a e op ho h).trans (congrArg _ ht), hdone, hw, fun l _ => ?_⟩
    rw [inclusive_eq_not_exclusive, Ctx.scanned, scanPrefix]

end Sys2Proof.Machine
end
